-- ==== Sys2Proof/Word.lean ====
section
/-! DEFINITION. The word types of the block: bytes, 32-bit registers and 64-bit words (spec/00_scope.md R2 to R4). -/
namespace Sys2Proof

/-- One byte. -/
abbrev Byte := BitVec 8
/-- One 32-bit register (R4). -/
abbrev Word := BitVec 32
/-- One 64-bit word of an SRAM, with SECDED (R298). -/
abbrev DWord := BitVec 64

end Sys2Proof
end

