-- ==== Sys2Proof/Syntax.lean ====
section
/-! DEFINITION. The commands the block takes: one constructor of `Instr` per row of spec/opcode_table.json, with the row's
operands. The table gives no row any bits. An operand is what comes from outside the block at that step: who stores what, a
measured count or code, the bytes a wire brings, the result of an injected test (DESIGN CHOICE, log entry 2). -/
namespace Sys2Proof

/-- The atomic memory operations of a steward core (RV32A; R297). -/
inductive Amo | swap | add | xor | and | or | min | max | minu | maxu
  deriving DecidableEq, Repr

/-- The accesses an initiator makes on the fabric (08_memory_and_fabric.md). -/
inductive AccKind | read | write | amo (op : Amo) | loadReserved | storeConditional
  deriving DecidableEq, Repr

/-- One fabric access: the port of Table 08-3, its class (0 A, 1 B, 2 C), the address, the length, the bytes written, the
requester's device ID for ports 43 to 46, and the bit errors that have since arisen in stored words (R298, R794): the word's
address and how many bits. -/
structure Access where
  kind : AccKind
  port : Nat
  cls : Nat
  addr : Nat
  len : Nat
  data : List Byte
  srcId : Nat
  upsets : List (Nat × Nat)
  deriving DecidableEq, Repr

/-- How a CAN frame that was offered to the bus ended (R603, R604). -/
inductive CanEnd | sent | lost | error
  deriving DecidableEq, Repr

/-- What the SYSCONF section gives for one model record beside its 192 bytes (Table 13-3), which names no lengths: the points of its
OCV_TAB and DOCV_TAB and the SoC breakpoints of its INIT_TAB in FP32 (DESIGN CHOICE, log entry 20). -/
structure ModelMore where
  ocvN : Nat
  docvN : Nat
  socPts : List Nat
  deriving DecidableEq, Repr

/-- The firmware settings of an image, which its SYSCONF section holds in a layout the spec does not give (DESIGN CHOICE, log entry 20). Addresses
are of shared SRAM; FP32 values are patterns. -/
structure SysConf where
  /-- CTX_BASE, INBOX_BASE, RET_BASE, LOCKET_IN, COLLECT_BASE and EPOCH_BASE (R464, R557, R563, R575, R579). -/
  ctxBase : Nat
  inbox : Nat
  retBase : Nat
  locketIn : Nat
  collect : Nat
  epochBase : Nat
  /-- Where input vectors and owner summaries of other devices arrive, 256 bytes for each owner ID, and the firmware's work area. -/
  vecIn : Nat
  sumIn : Nat
  work : Nat
  /-- EPOCH_MS and MGR_RESERVE (R573, R578). -/
  epochMs : Nat
  reserve : Nat
  /-- The model records, and the record for each CHEM_ID (R469). -/
  models : List (List Byte × ModelMore)
  chems : List (Nat × Nat)
  /-- The series count configured for a CHEM_ID and TRAY_TYPE (R40), and the CHEM_ID and series count where no tag is valid. -/
  series : List (Nat × Nat × Nat)
  defChem : Nat
  defSeries : Nat
  /-- The shunt in Ω, each cell's thermistor channel, and each filter path's span in µs (R479). -/
  shunt : Nat
  aux : List Nat
  span : List Nat
  /-- The hand-off ring (18_belfry.md). -/
  hoBase : Nat
  hoSlots : Nat
  /-- The vibration source: whether it runs, its filter path, channels and frames a block, FRAME_NS, and the sink with SINK_BASE (R632,
  R633). -/
  srcPath : Nat
  srcAxes : List Nat
  srcNf : Nat
  srcFrameNs : Nat
  sinkId : Nat
  sinkBase : Nat
  /-- The sink: the workers it takes blocks from, the NF, NAX and FRAME_NS it expects, its TDM port and the TX ring depth it set
  (R637, R638). -/
  sinkFrom : List Nat
  sinkNf : Nat
  sinkNax : Nat
  sinkFrameNs : Nat
  sinkTdm : Nat
  sinkDepth : Nat
  deriving DecidableEq, Repr

/-- A device as a walk found it (R564, R565): its discovery record, and its links, each with its own port, the other end's place in
the walk and the other end's port. The walk's list begins with the walking manager itself. -/
structure Seen where
  disc : List Byte
  links : List (Nat × Nat × Nat)
  deriving DecidableEq, Repr

/-- One run of R732 on a link: the two ends (device ID and port), the ends' nonces and serials as read, and whether both STAT reads
returned INSTALLED, in the first and in the second try. -/
structure KeyTry where
  dev : Nat
  port : Nat
  peer : Nat
  peerPort : Nat
  nonce : List Byte
  serial : List Byte
  ok1 : Bool
  ok2 : Bool
  deriving DecidableEq, Repr

/-- What one attempt to read the tray tag over I3C brought: the 256 bytes, or nothing. -/
abbrev TagRead := Option (List Byte)

/-- The commands of the block: one constructor per row of spec/opcode_table.json. -/
inductive Instr
  /-- REGISTER_WRITE (R6): A 32-bit store to a register that has no row of its own updates each field according to its access type, with misuse, lock and reserved-value handling. -/
  | registerWrite (port addr size : Nat) (v : Word)
  /-- POWER_ON_RESET (R83): The stack input rises above the power-on threshold and everything, including AON, the RTC, the event log and the charge accumulator, is initialised. -/
  | powerOnReset
  /-- STACK_SUPPLY_FALL (R769): VSTK falls below the falling threshold, so the power-on reset is asserted and the charge accumulator is reset with RESTARTED set. -/
  | stackSupplyFall
  /-- EXTERNAL_RESET (R83): RESET_N is held low for 2 us or more, so all registers, including AON registers, are reset, and retained SRAM groups, the RTC and the log are kept. -/
  | externalReset
  /-- RESET_N_RELEASE (R629): The rising edge of RESET_N starts the cold start sequence. -/
  | resetNRelease
  /-- STW_WDT_EXPIRY (R751): The steward watchdog expires, and the device makes a dump if WDT_DUMP is set and then a system reset. -/
  | stwWdtExpiry (core : Nat)
  /-- GLITCH (R742): VDD_CORE leaves its window for 5 ns or more, and the device logs GLITCH and makes a system reset within 100 ns. -/
  | glitch
  /-- CORE_RAILS_IN_RANGE (R773): The board core rails reach range after EN_CORE rises, BEL powers, Belfry SRAM is zero-filled and the Belfry mask ROM starts. -/
  | coreRailsInRange (phaseA : Bool)
  /-- XTAL25_STABLE (R74): The 25 MHz oscillator becomes stable and the SYS PLL is started. -/
  | xtal25Stable
  /-- SYSPLL_LOCK (R74): The SYS PLL locks, STW, PER and FAB power up, and steward core 0 starts its boot ROM, or at a warm wake the cores resume. -/
  | syspllLock (profile1 phaseB : Bool)
  /-- FI_PHASE_C (R684): Once REF_A has settled and phase B has passed, Belfry tests the die-to-die CRC, the frozen-frame detector, the window comparators and ADC4 against the test DAC. -/
  | fiPhaseC (phaseC : Bool)
  /-- IMAGE_LOADED (R129): The sections are loaded and decrypted, PARTITION is locked, the hand-over record is written and the image firmware starts. -/
  | imageLoaded (part : List (Nat × Word)) (conf : SysConf) (tags : List TagRead) (volts : List Nat) (amps : Nat)
  /-- LOCKET_LATE_ARRIVAL (R107): A Locket that becomes usable after a case 2 or case 3 start supplies only the adapter and parameters at the next boundary. -/
  | locketLateArrival (tap : Nat)
  /-- HANDOVER_RECORD (R657): Belfry finds the hand-over record, copies the BELFRY section and verifies its signature. -/
  | handoverRecord
  /-- BELFRY_READY (R658): Once every start-up condition holds, Belfry reports READY, or it stays in START with the cause in SECTION. -/
  | belfryReady
  /-- FIRST_STEP_START (R91): The first estimation step starts as soon as injection is complete, Belfry is READY, REF_A has settled and the feeding paths have cleared SETTLING. -/
  | firstStepStart (late : Bool)
  /-- BELRC_WINDOW (R51): At the end of each window of 1,024 XTAL25 cycles the cross-monitor checks the BEL_RC count. -/
  | belrcWindow (count : Nat)
  /-- XTAL25_LOSS (R53): No window completes within 16,384 BEL_RC cycles, so XTAL25 is declared lost and the device enters Fenced. -/
  | xtal25Loss
  /-- SYSPLL_LOCK_LOSS (R53): The SYS PLL loses lock, and the device enters Fenced. -/
  | syspllLockLoss
  /-- XTAL32K_FAIL (R54): XTAL32K stops or drifts, so AON_32K switches to AON_RC and RTC_ON_RC and REST_UNKNOWN are set. -/
  | xtal32kFail
  /-- XTAL32K_RETURN (R54): After XTAL32K has stayed in band for 1 s, AON_32K returns to it and RTC_ON_RC clears. -/
  | xtal32kReturn
  /-- BEL_WDT_EXPIRY (R653): The Belfry watchdog expires after 256 AON_RC cycles without service, and the device enters Dark. -/
  | belWdtExpiry
  /-- LOCKSTEP_MISMATCH (R652): The Belfry main core and checker core diverge, and the device enters Dark. -/
  | lockstepMismatch
  /-- BEL_SUPPLY_FAULT (R655): The BEL supply leaves its window, so Belfry is held in reset and PULSE goes low. -/
  | belSupplyFault
  /-- ENGINE_USABLE (R356): An AUTO engine that was powering up becomes usable, and its queue heads may become ready. -/
  | engineUsable (e : Nat)
  /-- ENG_IDLE_POWER_OFF (R59): An AUTO engine that has held no descriptor for ENG_IDLE microseconds powers off and loses its local buffer. -/
  | engIdlePowerOff (e : Nat)
  /-- GRP_IDLE_RETENTION (R61): An AUTO SRAM group with no access for GRP_IDLE microseconds enters retention. -/
  | grpIdleRetention (g : Nat)
  /-- GROUP_RETENTION_EXIT (R61): An access that found its group in retention is served once the group has woken, within 2 us. -/
  | groupRetentionExit (g : Nat)
  /-- GROUP_ZERO_FILL_DONE (R63): The zero fill of a group switched from OFF ends, and stalled accesses proceed. -/
  | groupZeroFillDone (g : Nat)
  /-- PWR_GRP_WRITE (R797): A write to PWR_GRP applies each group's ON, AUTO, RET or OFF setting, and the first write ends the power-up hold. -/
  | pwrGrpWrite (port : Nat) (v : Word)
  /-- PWR_ENG_WRITE (R358): A write to PWR_ENG sets each engine to AUTO, ON or OFF, and an engine set OFF completes its queued descriptors with ENGINE_OFF. -/
  | pwrEngWrite (port k : Nat) (v : Word)
  /-- PWR_SD_WRITE (R221): A write to PWR_SD switches the converter pairs and MUX_BAL, stops the sequencer of a pair switched off, and refuses steward writes to Belfry fields. -/
  | pwrSdWrite (port : Nat) (v : Word)
  /-- PWR_LINK_WRITE (R505): A write to PWR_LINK sets each port to ACTIVE, SUSPEND or OFF, starting training, suspension or failure. -/
  | pwrLinkWrite (port : Nat) (v : Word)
  /-- CLK_ADC_WRITE (R82): A write to CLK_ADC sets the pair dividers, and is refused while that pair's sequencer runs. -/
  | clkAdcWrite (port : Nat) (v : Word)
  /-- MODE_REQ_WATCH (R66): Firmware requests Watch, and the request is refused with a reason or accepted. -/
  | modeReqWatch (port : Nat) (hold : Bool)
  /-- MODE_REQ_RUN (R66): Firmware requests Run from Scan, and the request is accepted or refused as NOT_PERMITTED. -/
  | modeReqRun (port : Nat)
  /-- SCAN_TIMER_EXPIRY (R800): The RTC Scan timer reaches PERIOD, and the device wakes into Scan and restarts the timer. -/
  | scanTimerExpiry
  /-- SCAN_OVERRUN (R70): A Scan with no accepted request after LIMIT ms is forced into Watch, and SCAN_OVERRUN is set and logged. -/
  | scanOverrun
  /-- WAKE_IN_EVENT (R72): A low-to-high change on WAKE_IN latches its wake source and, if enabled, wakes the device, or sets RUN_REQ in Scan. -/
  | wakeInEvent
  /-- LPC_SAMPLE (R73): A Watch comparator samples its input every 256 AON_32K cycles and signals a wake after two consecutive samples beyond its threshold. -/
  | lpcSample (n level : Nat)
  /-- QSUP_LO_READ (R80): A read of PWR_QSUP_LO latches the upper accumulator bits into PWR_QSUP_HI. -/
  | qsupLoRead (port charge : Nat)
  /-- REFA_SETTLED (R170): REF_A has run 6 ms and stayed within 1 % of its REF_B-derived value for 1 ms, so REFA_SETTLED sets. -/
  | refaSettled
  /-- REFA_FAULT (R171): REF_A leaves its 1 % band for more than 10 us after settling, so REFA_SETTLED clears, REFA_FAULT sets and Belfry is signalled. -/
  | refaFault
  /-- REFB_SETTLED (R174): REF_B settles within 1 ms of its enable, and REFB_SETTLED sets. -/
  | refbSettled
  /-- SFE_TDAC_WRITE (R176): A write to SFE_TDAC sets the test DAC code, injection point and pin drive, and is refused while Belfry holds the DAC. -/
  | sfeTdacWrite (port : Nat) (v : Word)
  /-- TDAC_HOLD (R177): Belfry takes the test DAC, and its private code and routing replace SFE_TDAC. -/
  | tdacHold
  /-- TDAC_RELEASE (R177): Belfry releases the test DAC, and the earlier SFE_TDAC value is applied again within 2 us. -/
  | tdacRelease
  /-- BAL_PERIOD_START (R181): The shared balancing PWM counter starts a period, takes pending duty and period writes, and switches on each channel whose conditions hold. -/
  | balPeriodStart
  /-- BAL_HALF_PERIOD (R182): The PWM counter reaches half its period, so staggered even channels switch on and the BAL half-period event is raised. -/
  | balHalfPeriod
  /-- BAL_CHANNEL_OFF (R182): A PWM channel's on-count ends within the period and its gate goes low. -/
  | balChannelOff (k : Nat)
  /-- BAL_CONDITION_LOSS (R180): A balancing condition fails during a period, and the affected gates go low within 2 us. -/
  | balConditionLoss
  /-- BAL_DUTY_WRITE (R186): A write to SFE_BAL_DUTYk stores the duty for the next period, and sets MISUSE when k exceeds NCELLS and the duty is not 0. -/
  | balDutyWrite (port k : Nat) (v : Word)
  /-- D2D_FRAME_SEND (R191): The sense die sends a main-link frame of one bead run's entries, or an IDLE frame, at least every 1 us. -/
  | d2dFrameSend
  /-- D2D_FRAME_RECEIVE (R192): The receiver checks a main-link frame's CRC and format, counts drops and gaps, and passes accepted entries to the rings. -/
  | d2dFrameReceive (wire : Option (List Byte))
  /-- CHECK_FRAME_RECEIVE (R660): Belfry receives a check-lane frame, stamps it and integrates its ADC4 entries into its coulomb count and cell data. -/
  | checkFrameReceive (wire : Option (List Byte))
  /-- BEAD_COMMIT (R210): A high-word store commits a bead to memory, or is rejected for a reserved channel, START or reserved bits, or while the bank is active. -/
  | beadCommit (port n bank bead : Nat) (v : Word)
  /-- CHECK_BEAD_STORE (R235): Belfry stores a check-list bead, and the store is refused while RUN is 1 or when the channel is not marked for MUXC. -/
  | checkBeadStore (bead : Nat) (lo hi : Word)
  /-- SEQ_RUN_START (R219): Writing RUN = 1 starts the Strand at bead 0, and is refused while the pair is unpowered or phase C has not passed. -/
  | seqRunStart (port n : Nat) (v : Word)
  /-- SEQ_RUN_STOP (R220): Writing RUN = 0 stops the sequencer at the end of the current run, or at once if it waits, and empties the Pendant queue. -/
  | seqRunStop (port n : Nat) (v : Word)
  /-- SEQ_SWAP (R222): Writing SWAP switches banks at once when stopped, or sets SWAP_PEND for the next loop. -/
  | seqSwap (port n : Nat) (v : Word)
  /-- SEQ_CLRCNT (R218): Writing CLRCNT clears the sequencer's counters. -/
  | seqClrcnt (port n : Nat) (v : Word)
  /-- SEQ_TIMER_TICK (R214): A sequencer timer ticks, starting a waiting TIMER bead and raising its Pendant trigger. -/
  | seqTimerTick (k : Nat)
  /-- PWMSYNC_EDGE (R215): An edge on PWMSYNC reaches the sequencers as a PWM start event and Pendant trigger. -/
  | pwmsyncEdge (rising : Bool)
  /-- PWM_START_EVENT (R215): A selected PWM event arrives and starts a waiting PWM bead's settling after DELAY. -/
  | pwmStartEvent (n src : Nat)
  /-- SETTLE_END (R216): A bead's settling delay ends and its conversions start tracking. -/
  | settleEnd (n : Nat)
  /-- SAMPLE_WORD_OUT (R200): A converter word leaves the converter 9 periods after tracking and goes to the staging buffer, filter path and comparator. -/
  | sampleWordOut (n : Nat) (raw : Int)
  /-- BEAD_RUN_END (R216): A bead run ends at the edge after its last tracking start, and the sequencer moves to the next bead, Pendant or CAL. -/
  | beadRunEnd (n : Nat) (atLaunch : Bool)
  /-- PENDANT_TRIGGER (R232): A Pendant trigger arrives and is launched, queued or dropped as QOVF. -/
  | pendantTrigger (n t : Nat)
  /-- SEQ_SWTRIG (R226): A write of 1 to SEQn_SWTRIG.GO raises trigger 24. -/
  | seqSwtrig (port n : Nat) (v : Word)
  /-- PENDANT_LAUNCH (R227): At the second edge after a trigger, the sequencer aborts or suspends the Strand bead and starts the Pendant's settling. -/
  | pendantLaunch (n : Nat)
  /-- PENDANT_END (R230): A Pendant ends, and a waiting CAL, the next queued Pendant or the interrupted Strand bead follows. -/
  | pendantEnd (n : Nat)
  /-- EVT_LO_READ (R234): A read of SEQn_EVT_LO removes the oldest event record and latches its upper half. -/
  | evtLoRead (port n : Nat)
  /-- CAL_COMMAND (R238): A write to ADC_CALCMD requests the selected calibration phases, or is refused while busy or before phase C. -/
  | calCommand (port : Nat) (v : Word)
  /-- CAL_START (R241): CAL takes both sequencers once no Pendant runs, or ends at once with REF_NOT_SETTLED. -/
  | calStart
  /-- CAL_CONV (R245): The CONV phase calibrates ADC0 to ADC3 in 2.4 ms and writes their factors on OK. -/
  | calConv (m : List (List Int))
  /-- CAL_ILV01 (R249): The ILV01 phase measures pair 0's interleave factors on a test DAC ramp, after any wait for the DAC. -/
  | calIlv01 (m : List Int)
  /-- CAL_ILV23 (R249): The ILV23 phase measures pair 1's interleave factors on a test DAC ramp, after any wait for the DAC. -/
  | calIlv23 (m : List Int)
  /-- CAL_ZERO_A (R252): The ZERO_A phase measures PGA_A's offsets at four gains from the external or internal zero. -/
  | calZeroA (codes : List (List Int))
  /-- CAL_ZERO_B (R252): The ZERO_B phase measures PGA_B's offsets at four gains from the external or internal zero. -/
  | calZeroB (codes : List (List Int))
  /-- CAL_END (R242): CAL_BUSY clears, CAL_DONE sets, held Pendants launch and the Strands restart. -/
  | calEnd
  /-- ADC4_CAL (R254): Belfry calibrates ADC4 in 1.1 ms once REF_B has settled, writing the factors on success. -/
  | adc4Cal (m : List Int)
  /-- CHECK_LIST_RUN (R235): Belfry sets BPR_CHKCTL.RUN and ADC4 loops its check list. -/
  | checkListRun
  /-- RING_ENTRY_WRITE (R262): The sense bridge writes an entry into its destination ring, or discards it or overwrites the oldest. -/
  | ringEntryWrite
  /-- RING_ENABLE (R265): Setting a ring's EN resets its indices, and is refused when the ring would pass shared SRAM. -/
  | ringEnable (port n : Nat) (v : Word)
  /-- FILTER_ENABLE (R267): Setting a path's EN clears its channel states and indices, and is refused for too many channels or a bad notch. -/
  | filterEnable (port p : Nat) (v : Word)
  /-- FILTER_OUTPUT (R277): A CIC output is compensated and notched and its record is written to the output buffer, or lost as OVF. -/
  | filterOutput (p : Nat)
  /-- WINDOW_ENABLE (R288): A write to WIN_CFG or to a threshold enables or changes a comparator, and is refused for an invalid band. -/
  | windowEnable (port k o : Nat) (v : Word)
  /-- FABRIC_ACCESS (R796): An initiator's memory access is decoded and checked for protection and power, and then performed at its target. -/
  | fabricAccess (x : Access)
  /-- BANK_GRANT (R311): A free bank grants the eligible line request of the highest class, round robin. -/
  | bankGrant (b : Nat) (reqs : List (Nat × Nat × Nat))
  /-- SCRUB_READ (R301): Every INTERVAL clocks the scrubber reads and corrects the next word, and sets SCRUB_DONE at the end of a pass. -/
  | scrubRead (upsets : List (Nat × Nat))
  /-- PART_ATTR_WRITE (R319): A write to a region's attributes or bounds is refused when LIMIT is below BASE or the region is already valid. -/
  | partAttrWrite (port r which : Nat) (v : Word)
  /-- DOORBELL (R327): A write to ENG_DBe enters the engine's doorbell FIFO, stalling the initiator while the FIFO is full. -/
  | doorbell (port e : Nat) (v : Word)
  /-- DOORBELL_PROCESS (R334): The front end fetches a descriptor, checks it and queues it, or refuses it with a completion record or drops it. -/
  | doorbellProcess (e : Nat)
  /-- DESCRIPTOR_START (R338): An idle engine starts the ready head of its highest class, or completes it as EXPIRED. -/
  | descriptorStart (e : Nat)
  /-- DESCRIPTOR_COMPLETE (R342): A completion record is written, then the event counter is signalled, the IRQ bit set and the chained descriptor submitted. -/
  | descriptorComplete (e : Nat)
  /-- TIME_WINDOW_OPEN (R344): A time window opens in the major frame and admits its engines and classes. -/
  | timeWindowOpen (n : Nat)
  /-- TIME_WINDOW_CLOSE (R345): A time window closes, deferring waiting heads and starting the grace time of running descriptors. -/
  | timeWindowClose (n : Nat)
  /-- GRACE_EXPIRY (R346): A descriptor still running GRACE us after losing admission is stopped with OVERRUN. -/
  | graceExpiry (e : Nat)
  /-- RUNMAX_EXPIRY (R347): A descriptor running longer than RUNMAX is stopped with TIMEOUT. -/
  | runmaxExpiry (e : Nat)
  /-- ENG_FLUSH (R355): A write to ENG_FLUSH completes the queued and running descriptors of the named classes with ABORTED. -/
  | engFlush (port : Nat) (v : Word)
  /-- ENG_EVT_WRITE (R343): A write to an event counter is applied before any increment in the same clock. -/
  | engEvtWrite (port k : Nat) (v : Word)
  /-- GRU_STEP (R372): An SQE advances the GRU state of up to 32 cells with their adapters. -/
  | gruStep (e : Nat)
  /-- LSTM_STEP (R372): An SQE advances the LSTM state of up to 32 cells. -/
  | lstmStep (e : Nat)
  /-- SSM_STEP (R372): An SQE advances the diagonal state-space model of up to 32 cells. -/
  | ssmStep (e : Nat)
  /-- CONV1D_STEP (R372): An SQE advances the CONV1D model of up to 32 cells. -/
  | conv1dStep (e : Nat)
  /-- NL_APPLY (R367): An SQE applies sigmoid, tanh, exp or rsqrt to a vector. -/
  | nlApply (e : Nat)
  /-- GEMM (R375): An MXE computes a matrix product with its epilogue and rescaling. -/
  | gemm (e : Nat)
  /-- GEMM_ACC (R375): An MXE computes a matrix product plus an accumulator input. -/
  | gemmAcc (e : Nat)
  /-- MATMUL (R379): A KFE multiplies small FP32 matrices. -/
  | matmul (e : Nat)
  /-- CHOL (R376): A KFE computes a Cholesky factor, reporting NOT_PD on a non-positive pivot. -/
  | chol (e : Nat)
  /-- TRISOLVE (R379): A KFE solves a triangular system. -/
  | trisolve (e : Nat)
  /-- COV_PREDICT (R376): A KFE forms F·P·Fᵀ + Q, symmetrised. -/
  | covPredict (e : Nat)
  /-- EKF_UPDATE (R376): A KFE performs a Joseph-form EKF update. -/
  | ekfUpdate (e : Nat)
  /-- UKF_SIGMA (R379): A KFE writes the 2n + 1 sigma points of a state block. -/
  | ukfSigma (e : Nat)
  /-- ECM_EVAL (R377): A KFE advances the RC pairs and computes the model voltage of each cell. -/
  | ecmEval (e : Nat)
  /-- COULOMB (R378): A KFE adds I·dt to each cell's Q32.32 coulomb integrator. -/
  | coulomb (e : Nat)
  /-- EXCITE (R381): A ZLE checks a tone table and starts the multisine excitation at the second PWM period start. -/
  | excite (e : Nat)
  /-- ZLE_STOP (R382): A ZLE ends its excitation at the next period start. -/
  | zleStop (e : Nat)
  /-- DEMOD (R383): A ZLE demodulates filter output records synchronously with its synthesiser. -/
  | demod (e : Nat)
  /-- ZLE_READ (R384): A ZLE writes the counts and impedances of its accumulators. -/
  | zleRead (e : Nat)
  /-- ZLE_CLEAR (R384): A ZLE zeroes its accumulators. -/
  | zleClear (e : Nat)
  /-- FFT (R385): An SPE computes FFTs of frames. -/
  | fft (e : Nat)
  /-- IFFT (R385): An SPE computes scaled inverse FFTs. -/
  | ifft (e : Nat)
  /-- STFT (R385): An SPE windows and transforms hopped frames. -/
  | stft (e : Nat)
  /-- ISTFT_OLA (R385): An SPE inverse transforms and overlap-adds frames. -/
  | istftOla (e : Nat)
  /-- SPE_POWER (R385): An SPE forms the squared magnitude of spectra. -/
  | spePower (e : Nat)
  /-- FIR (R388): An FLE filters a stream with an FIR and updates its history. -/
  | fir (e : Nat)
  /-- BIQUAD (R387): An FLE filters a stream with cascaded biquads. -/
  | biquad (e : Nat)
  /-- FXLMS_UPDATE (R387): An FLE performs filtered-x LMS weight updates. -/
  | fxlmsUpdate (e : Nat)
  /-- BPTT (R453): A TUE computes adapter gradients over T steps and writes them with delayed scales. -/
  | bptt (e : Nat)
  /-- OPT_STEP (R455): A TUE updates masters, moments and the BF16 adapter copy. -/
  | optStep (e : Nat)
  /-- COMPRESS (R644): A CXE codes elements into a stream, falling back to raw blocks at the capacity. -/
  | compress (e : Nat)
  /-- DECOMPRESS (R648): A CXE decodes a stream, reporting STREAM on malformed input. -/
  | decompress (e : Nat)
  /-- COPY (R392): A DME copies bytes locally or between devices. -/
  | copy (e : Nat)
  /-- FILL (R391): A DME fills a range with a 32-bit pattern. -/
  | fill (e : Nat)
  /-- DME_GATHER (R394): A DME packs the listed source ranges contiguously. -/
  | dmeGather (e : Nat)
  /-- SCATTER (R394): A DME distributes a contiguous source to the listed destinations. -/
  | scatter (e : Nat)
  /-- FETCH_ADD (R394): A DME performs an atomic 64-bit fetch-and-add, locally or remotely. -/
  | fetchAdd (e : Nat)
  /-- GCM_ENC (R395): A CRE encrypts and tags data under a slot key. -/
  | gcmEnc (e : Nat)
  /-- GCM_DEC (R396): A CRE decrypts and verifies data, zeroing the output on a tag mismatch. -/
  | gcmDec (e : Nat)
  /-- SHA256 (R395): A CRE hashes a message. -/
  | sha256 (e : Nat)
  /-- ECDSA_VERIFY (R396): A CRE verifies a P-256 signature. -/
  | ecdsaVerify (e : Nat)
  /-- DIFF (R397): An RDE subtracts two vectors. -/
  | diff (e : Nat)
  /-- STRIDED_DIFF (R486): An RDE forms strided differences, such as the cross-check vector. -/
  | stridedDiff (e : Nat)
  /-- REDUCE (R397): An RDE reduces a vector by sum, sum of squares, min, max or max-abs. -/
  | reduce (e : Nat)
  /-- BAND (R397): An RDE marks the elements outside a band. -/
  | band (e : Nat)
  /-- INTERP1 (R398): A GTE interpolates linearly in a 1-D table. -/
  | interp1 (e : Nat)
  /-- INTERP2 (R398): A GTE interpolates bilinearly in a grid. -/
  | interp2 (e : Nat)
  /-- GTE_GATHER (R399): A GTE gathers table elements by index. -/
  | gteGather (e : Nat)
  /-- DECODE (R423): A GTE decodes codebook or NG4 rows to FP16 with escapes. -/
  | decode (e : Nat)
  /-- STEP_BOUNDARY (R478): At a step boundary firmware forms the input vector and runs the estimation step of its contexts. -/
  | stepBoundary (late : Bool)
  /-- INPUT_VECTOR_RECEIVE (R492): A host receives an owner's input vector and steps its mirror or copy contexts. -/
  | inputVectorReceive (owner : Nat) (late : Bool) (brought : List (Nat × Option (List Byte))) (back : Bool)
  /-- LOCKET_CAPTURE (R499): Firmware compresses a context into a Locket between steps and stores it. -/
  | locketCapture (slot : Nat)
  /-- LINK_TRAIN (R506): A port trains, exchanging TS1 and TS2 and choosing the highest shared generation. -/
  | linkTrain (p peerMask lanes peerId : Nat) (peerValid : Bool)
  /-- HL_RETRAIN (R505): A write of RETRAIN to HL_Pp_CTL starts training of the port. -/
  | hlRetrain (port p : Nat) (v : Word)
  /-- TRAINING_FALLBACK (R507): Equalisation fails three times at a generation, which is removed, or lane 1 fails and the port trains at Henlink-1. -/
  | trainingFallback (p : Nat) (lane1 : Bool)
  /-- LINK_UP (R508): Training completes, so sequence numbers reset, credits are advertised and the key is cleared. -/
  | linkUp (p : Nat)
  /-- LINK_FAILED_RETRY (R507): A port in FAILED restarts training after 100 ms. -/
  | linkFailedRetry (p : Nat)
  /-- LINK_RESUME (R509): A suspended port resumes without training within 150 us. -/
  | linkResume (p : Nat)
  /-- LINK_FAIL (R510): A port fails on loss of lock, 8 replays or OFF, discards its queues and retrains. -/
  | linkFail (p : Nat) (lockLost : Bool)
  /-- PACKET_RECEIVE (R516): A receiver checks a packet's CRC, sequence, format and authentication, then delivers it locally or forwards it. -/
  | packetReceive (p : Nat) (cut : Bool) (bytes : List Byte)
  /-- PACKET_SEND (R522): An output port starts a packet chosen by VC priority and DRR once it holds the credits. -/
  | packetSend (p : Nat)
  /-- ACK (R518): An ACK control word releases acknowledged packets from the replay buffer. -/
  | ack (p : Nat) (w : List Byte)
  /-- NAK (R518): A NAK makes the transmitter resend every unacknowledged packet. -/
  | nak (p : Nat) (w : List Byte)
  /-- CREDIT (R521): A CREDIT control word returns receive buffer credits of a VC. -/
  | credit (p : Nat) (w : List Byte)
  /-- ACK_TIMER (R517): A receiver sends ACK at least every 1 us while packets are unacknowledged. -/
  | ackTimer (p : Nat)
  /-- REPLAY_TIMEOUT (R518): The oldest unacknowledged packet waits 8 us, and all unacknowledged packets are resent. -/
  | replayTimeout (p : Nat)
  /-- RD (R526): A destination executes a read request and answers with a RESP. -/
  | rd
  /-- WR (R544): A destination applies duplicate suppression to a write request, executes it and answers. -/
  | wr
  /-- FADD (R547): A destination executes a fetch-and-add at most once and answers with the old value. -/
  | fadd
  /-- PWR (R527): A destination executes a posted write without a response. -/
  | pwr
  /-- RESP (R542): A RESP is matched to its open transaction by SRC and TAG and ends it if final. -/
  | resp
  /-- ENUM_RD (R533): A device forwards a path-routed register read or answers it as the destination. -/
  | enumRd
  /-- ENUM_WR (R534): A destination writes HL_ID, HL_TPAR, a route entry or ENUM_OPEN while ENUM_OPEN is 1. -/
  | enumWr
  /-- ENUM_RESP (R568): An ENUM_RESP completes the SENT queue entry with the matching tag. -/
  | enumResp
  /-- TSYNC (R554): A TSYNC exchange yields θ, and the child steps or slews its counter and updates LOCKED. -/
  | tsync
  /-- TSYNC_SEND (R553): Every 1 ms a device sends a TSYNC to its time parent. -/
  | tsyncSend
  /-- MB_SEND_WR (R535): Writing GO with KIND WR sends a mailbox write as an end-to-end transaction. -/
  | mbSendWr (port q : Nat) (v : Word)
  /-- MB_SEND_PWR (R535): Writing GO with KIND PWR sends a posted write from the mailbox. -/
  | mbSendPwr (port q : Nat) (v : Word)
  /-- TRANSACTION_TIMEOUT (R538): A transaction's 1 ms timer expires, so the request is re-sent or the transaction ends. -/
  | transactionTimeout
  /-- TRANSACTION_COMPLETE (R540): A re-sent transaction reports its result 2.05 ms after its last send. -/
  | transactionComplete
  /-- TAG_RETURN (R541): A held tag returns to the pool 14 ms after the transaction's first send. -/
  | tagReturn
  /-- DEDUP_EXPIRY (R544): A duplicate-suppression entry expires 8 ms after it was made. -/
  | dedupExpiry
  /-- REQUEST_ACCEPT_OPEN (R524): 10 ms after a reset the device begins to accept RD, WR and FADD, and at 14 ms to originate them. -/
  | requestAcceptOpen (originate : Bool)
  /-- EQ_ENABLE (R569): Writing HL_EQ_CTL.EN = 1 resets the read index, and is refused without a valid ID. -/
  | eqEnable (port : Nat) (v : Word)
  /-- EQ_SEND (R568): Hardware sends each QUEUED enumeration entry up to HL_EQ_WR, or marks it NO_PORT. -/
  | eqSend
  /-- EQ_ENTRY_TIMEOUT (R568): A SENT enumeration entry without a response after 1 ms is marked TIMEOUT. -/
  | eqEntryTimeout
  /-- HEARTBEAT (R585): A member processes a HEARTBEAT, following the highest term, and a manager of lower term demotes. -/
  | heartbeat (src : Nat)
  /-- HEARTBEAT_TICK (R583): Every 10 ms of pack time the active manager sends HEARTBEAT to every member. -/
  | heartbeatTick
  /-- PREPARE (R579): The standby checks a prepared snapshot's CRC and answers PREPARED. -/
  | prepare (src : Nat)
  /-- PREPARED (R579): The active manager receives PREPARED and sends COMMIT on OK. -/
  | prepared (src : Nat)
  /-- COMMIT (R580): The standby records the epoch as committed and adopts the snapshot. -/
  | commit (src : Nat)
  /-- SCHEDULE (R570): A member takes its schedule version, buddy and standby from SCHEDULE. -/
  | schedule (src : Nat)
  /-- DELEGATE (R588): A host takes or releases a cell's context at the SWITCH boundary, answering a TAKE with DELEGATE_ACK. -/
  | delegate (src chem : Nat)
  /-- DELEGATE_ACK (R588): The manager receives a host's acceptance or refusal of a delegation. -/
  | delegateAck (src : Nat)
  /-- NEW_PEER (R567): The manager walks from a member's port whose peer reports no ID. -/
  | newPeer (src : Nat)
  /-- LOCKET_REQ (R592): The source captures a tray's Lockets and copies them to the destination's staging area. -/
  | locketReq (src : Nat)
  /-- LOCKET_SENT (R592): The destination restores the delivered Lockets with the rest time given. -/
  | locketSent (src : Nat) (volts : List Nat) (amps : Nat)
  /-- REFRESH (R574): A buddy replaces the named mirrors by full copies. -/
  | refresh (src : Nat) (brought : List (Nat × Option (List Byte)))
  /-- RESET_CMD (R562): A member logs CMD_RESET and stops serving its watchdog. -/
  | resetCmd (src : Nat)
  /-- MANAGER_CANDIDATE (R565): A manager-role device reaching step 12 takes its rank ID, becomes CANDIDATE and starts its walk. -/
  | managerCandidate (w : List Seen) (activeId : Option Nat)
  /-- DISCOVERY_WINDOW_EXPIRY (R18): A rank-1 candidate that has found no rank-0 manager by the end of the window becomes active. -/
  | discoveryWindowExpiry
  /-- ENUMERATION (R570): The active manager assigns IDs, pushes routes, time parents and keys, aligns time and sends SCHEDULE. -/
  | enumeration (w : List Seen) (keys : List KeyTry) (olds : List (Nat × Option Nat × Bool))
  /-- RESULT_BATCH_ACCEPT (R576): The manager accepts a batch whose CRC and SEQ match and advances NEXT_SEQ. -/
  | resultBatchAccept (id : Nat)
  /-- BATCH_MISSING_READ (R576): A batch still missing 10 ms after the budget is read from the worker's ring every 10 ms. -/
  | batchMissingRead (id : Nat) (got : Option (List Byte)) (seqs : List Nat)
  /-- MIRROR_COMPARE (R574): The manager compares one buddy pair's records each boundary and sends REFRESH on divergence. -/
  | mirrorCompare (reads : List (Nat × List Byte × List Byte))
  /-- EPOCH_END (R579): At an epoch end the active manager assembles a snapshot and starts replication, or abandons an uncommitted epoch. -/
  | epochEnd (copied : Bool)
  /-- MANAGER_LOST (R584): After 30 ms without a heartbeat the standby takes over with a higher term and replays the results. -/
  | managerLost
  /-- DELEGATION (R588): The active manager moves a cell's live hosting to another device at a boundary. -/
  | delegation (ref target : Nat) (remote : Bool) (slot switch chem : Nat)
  /-- CAN_MODE_WRITE (R601): A write to CANn_CTL sets the controller mode, and is refused for invalid bit timing. -/
  | canModeWrite (port n : Nat) (v : Word)
  /-- CAN_FRAME_RECEIVE (R602): A received CAN frame is filtered and written to RX0 or RX1, or discarded. -/
  | canFrameReceive (n : Nat) (entry : List Byte)
  /-- CAN_FRAME_TRANSMIT (R603): The controller offers the TX ring entry at RD until it is sent. -/
  | canFrameTransmit (n : Nat) (outcome : CanEnd)
  /-- CAN_SAFE_GO (R604): Belfry's GO queues the safety frame ahead of the ring, and it is sent when the bus allows. -/
  | canSafeGo (port n : Nat) (v : Word)
  /-- CAN_BUS_OFF (R605): A controller enters bus-off, stops transmitting and starts recovery if AUTO_REC is set. -/
  | canBusOff (n : Nat)
  /-- CAN_BUS_OFF_RECOVERY (R605): The ISO 11898-1 recovery sequence completes and the controller resumes. -/
  | canBusOffRecovery (n : Nat)
  /-- ETH_FRAME_RECEIVE (R608): The Ethernet MAC filters a received frame and writes it with its stamp to RX0 or RX1. -/
  | ethFrameReceive (frame : List Byte) (fcsOk : Bool)
  /-- ETH_FRAME_TRANSMIT (R609): The Ethernet MAC sends the next entry, TX1 first, padded and stamped if requested. -/
  | ethFrameTransmit
  /-- T1S_FRAME_RECEIVE (R608): The T1S MAC filters a received frame and writes it to RX0 or RX1. -/
  | t1sFrameReceive (frame : List Byte) (fcsOk : Bool)
  /-- T1S_FRAME_TRANSMIT (R609): The T1S MAC sends its next TX entry under PLCA or CSMA/CD. -/
  | t1sFrameTransmit (collided : Bool)
  /-- ETH_MDIO (R607): A write to ETH_MDIO runs a clause 22 or clause 45 PHY access. -/
  | ethMdio (port : Nat) (v : Word)
  /-- PTM_STEP (R614): Writing PTM_CTL.STEP adds PTM_STEP to the pack-time counter, unless the Henlink time unit owns it. -/
  | ptmStep (port : Nat) (v : Word)
  /-- PTM_NS_LO_READ (R615): A read of PTM_NS_LO latches the counter's upper half. -/
  | ptmNsLoRead (port : Nat)
  /-- TDM_FSYNC (R623): At FSYNC a TDM port counts and stamps the frame and fetches the next transmit entry, or sends zeros. -/
  | tdmFsync (t : Nat)
  /-- TDM_FRAME_RECEIVED (R623): A TDM port writes a received frame's entry within 2 us of its last slot. -/
  | tdmFrameReceived (t : Nat) (slots : List Nat)
  /-- TDM_FCNT_READ (R624): A read of TDMn_FCNT latches the matching FSYNC stamp. -/
  | tdmFcntRead (port t : Nat)
  /-- CLK_LOST (R625): A slave TDM port without FSYNC for 4 frame periods stops and releases DOUT. -/
  | clkLost (t : Nat)
  /-- I3C_CMD (R627): A write to I3C_CMD starts a transfer of 1 to 32 bytes, or a CCC, to one address. -/
  | i3cCmd (port : Nat) (v : Word)
  /-- I3C_CMD_DONE (R627): An I3C or I2C command ends with DONE or NACK. -/
  | i3cCmdDone (ack : Bool) (data : List Byte)
  /-- I3C_TIMEOUT (R628): A target holds SCL low for more than 25 ms, and the controller frees the bus. -/
  | i3cTimeout
  /-- STREAM_BLOCK_SEND (R633): A worker packs its frames' samples into a stream block and sends it as a PWR on VC1. -/
  | streamBlockSend
  /-- SINK_BLOCK_START (R637): At ST_k the sink takes each worker's block or treats it as missing, and processes it. -/
  | sinkBlockStart (n : Nat) (entries : List (List Byte))
  /-- HANDOFF_POLL (R670): Belfry reads the hand-off ring's WR at least every 50 us and processes the new entries. -/
  | handoffPoll (late : Bool) (custom : List Nat)
  /-- REST_ANCHOR (R663): At the start of rest and every 60 s of rest Belfry anchors every own cell's coarse estimate. -/
  | restAnchor
  /-- CONSENT_CHANGE (R682): Belfry sets or clears balancing consent as its conditions come to hold or fail. -/
  | consentChange
  /-- D2D_FROZEN (R686): A link accepts no frame for 3 us, repeats a counter, or freezes a noisy channel's code, and is declared frozen. -/
  | d2dFrozen (link : Nat)
  /-- D2D_UNFROZEN (R688): A frozen link accepts 3 consecutive frames, or a changed code, and is unfrozen. -/
  | d2dUnfrozen (link : Nat)
  /-- MARKING_END (R701): The last marking cause ends after its hold time, and Belfry returns to READY. -/
  | markingEnd (code : Nat)
  /-- FAULT_MESSAGE_REPEAT (R703): Every 100 ms in MARKED or FENCED Belfry sends the CAN fault message again. -/
  | faultMessageRepeat
  /-- SELFTEST_SLICE (R709): Every 20 ms Belfry runs the next self-test slice, repeating a failed slice and reacting to a second failure. -/
  | selftestSlice (pass : Bool)
  /-- OTP_PROGRAM (R717): SEC_OTP_CMD bit 0 programs one OTP word in both copies, and is refused when LOCKED. -/
  | otpProgram (port : Nat)
  /-- OTP_LOCK (R718): SEC_OTP_CMD bit 1 sets LOCKED when a secret and a root slot are programmed. -/
  | otpLock (port : Nat)
  /-- SEC_REVOKE (R720): A write to SEC_REVOKE revokes a root slot unless the slot is in use or the last one. -/
  | secRevoke (port : Nat) (v : Word)
  /-- SEC_KCLR (R726): A write to SEC_KCLR clears a key slot until the next reset. -/
  | secKclr (port : Nat) (v : Word)
  /-- LINK_KEY_START (R729): CMD START draws a fresh nonce for a port's link key window. -/
  | linkKeyStart (port p : Nat)
  /-- LINK_KEY_INSTALL (R730): CMD INSTALL derives and installs the link key and session value, or is refused with a status. -/
  | linkKeyInstall (port p : Nat)
  /-- SEC_CHAL (R736): The SEC_CHAL instruction shifts out the serial and the current challenge nonce. -/
  | secChal
  /-- SEC_TOKEN (R738): The security block verifies a debug token within 10 ms, counting rejections. -/
  | secToken (token : List Byte)
  /-- LOG_WRITE (R748): A write to DMP_LOGW enters a log entry, and is refused for reserved codes. -/
  | logWrite (port : Nat) (v : Word)
  /-- CAPTURE (R751): Writing DMP_CTL.CAPTURE starts a dump, or is held when the region is occupied. -/
  | capture (port : Nat)
  /-- DUMP_DONE (R755): The dump engine finishes writing the records and header and logs DUMP_WRITTEN. -/
  | dumpDone
  /-- DUMP_SAVE (R762): Firmware copies a valid retained dump to an NVM dump slot and clears the region's MAGIC. -/
  | dumpSave
  /-- DUMP_REQ_RELEASE (R764): REQ RELEASE returns the request state to IDLE. -/
  | dumpReqRelease (port : Nat)
  /-- DUMP_REQ_RETAINED (R764): REQ RETAINED asks firmware to stage the retained dump. -/
  | dumpReqRetained (port : Nat)
  /-- DUMP_REQ_NVM_NEWER (R764): REQ NVM_NEWER asks firmware to stage the newer NVM dump. -/
  | dumpReqNvmNewer (port : Nat)
  /-- DUMP_REQ_NVM_OLDER (R764): REQ NVM_OLDER asks firmware to stage the older NVM dump. -/
  | dumpReqNvmOlder (port : Nat)
  /-- DUMP_REQ_CAPTURE (R765): REQ CAPTURE asks firmware to capture a fresh dump with trigger REMOTE and stage it. -/
  | dumpReqCapture (port : Nat)
  /-- DMP_REQ_ACK (R764): A write to DMP_REQ_ACK moves a PENDING request to READY or NONE. -/
  | dmpReqAck (port : Nat) (v : Word)
  /-- XSPI_READ (R151): An XSPI READ command copies NVM bytes to shared SRAM. -/
  | xspiRead (port : Nat)
  /-- XSPI_PROGRAM (R152): An XSPI PROGRAM command programs up to one page from SRAM, subject to the length and protection rules. -/
  | xspiProgram (port : Nat)
  /-- ERASE_4K (R153): An XSPI command erases a 4 KB sector, unless protected or misaligned. -/
  | erase4k (port : Nat)
  /-- ERASE_64K (R153): An XSPI command erases a 64 KB block, unless protected or misaligned. -/
  | erase64k (port : Nat)
  /-- XSPI_CMD_COMPLETE (R151): An XSPI command ends, setting DONE, or FAIL on an NVM error or after 1 s. -/
  | xspiCmdComplete (ok : Bool)
  /-- CHECK_FRAME_SEND (R191): Every 1 us the sense die sends a check-lane frame carrying up to two ADC4 entries, with COUNT 0 when ADC4 is idle, and advances its COUNTER. -/
  | checkFrameSend
  /-- ADC4_WORD_OUT (R203): An ADC4 word leaves the check converter 7 ADC4 clocks after tracking, with RC, REF_UNSETTLED and CAL_STALE set, and the check list advances through its beads. -/
  | adc4WordOut (raw : Int)
  /-- HANDOVER_NOT_STAGED (R658): When no valid hand-over record has appeared 1 s after phase C, Belfry stays in START with SAF_START.SECTION = NOT_STAGED. -/
  | handoverNotStaged
  /-- REFB_CAL_TIMEOUT (R254): When REF_B has not settled within 100 ms of the hand-over record's appearance, the start-up ADC4 calibration ends other than OK and Belfry stays in START with SECTION = CAL4. -/
  | refbCalTimeout
  /-- OTP_PROGRAM_DONE (R717): An OTP programming command finishes writing both copies within 200 us, and SEC_OTP_CMD again accepts a command. -/
  | otpProgramDone
  /-- ETH_MDIO_DONE (R607): An MDIO frame at 2.5 MHz completes, ETH_MDIO_STAT.BUSY clears and read DATA becomes valid. -/
  | ethMdioDone (data : Nat)
  /-- SGMII_LINK_STATUS (R607): The PHY's SGMII in-band control word changes the link state or speed, which the MAC takes up and shows in ETH_STATUS.LINK and SPEED. -/
  | sgmiiLinkStatus (up : Bool) (speed : Nat)
  /-- LINK_KEY_SWEEP (R735): At least once a second the active manager reads every member's HL_Pp_STAT and keys, under R732, each UP port that has KEYED = 0 and PEER_VALID = 1. -/
  | linkKeySweep (keys : List KeyTry)
  deriving DecidableEq, Repr

end Sys2Proof
end

