-- ==== Sys2Proof/Machine/Parts.lean ====
section
/-! DEFINITION. The parts State is made of: what the spec gives the block beside its registers. Plain data throughout. -/
namespace Sys2Proof.Machine

/-- The operating modes (Table 02-4). -/
inductive Mode | start | watch | scan | run | fenced | dark
  deriving DecidableEq, Repr, Inhabited

/-- The kind of start in progress: from a reset or a wake that reloads the image, a warm wake, or an RTC wake into Scan. -/
inductive StartKind | cold | warm | scan
  deriving DecidableEq, Repr, Inhabited

/-- The state of one SRAM group (R61 to R63). -/
inductive GrpState | off | filling | retained | awake
  deriving DecidableEq, Repr, Inhabited

/-- The boot ROM's progress on steward core 0: held before step 5, reading the image, waiting for or loading sections,
halted by R133 or R740, or finished with STW_FW started. -/
inductive RomState | held | loading | halted | done
  deriving DecidableEq, Repr, Inhabited

/-- One Watch comparator (R73): was the last sample beyond the threshold, and may the next pair of samples signal. -/
structure Lpc where
  beyond : Bool
  armed : Bool
  deriving DecidableEq, Repr, Inhabited

/-- Power and mode state beside the PWR_ and CLK_ registers (02_power_clocks_modes.md). -/
structure Power where
  /-- The mode of Table 02-4. -/
  mode : Mode
  /-- The start in progress or last made. -/
  kind : StartKind
  /-- The stack input is above the power-on threshold (R769). -/
  supply : Bool
  /-- RESET_N is low: the device stays in reset (Table 16-3). -/
  inReset : Bool
  /-- The board's core rails are in range since EN_CORE rose. -/
  rails : Bool
  /-- R798: the last Watch entry qualified for a warm wake (held in AON). -/
  qualWarm : Bool
  /-- The eight SRAM groups. -/
  grp : List GrpState
  /-- R797: no PWR_GRP write since the core power-up. -/
  grpHold : Bool
  /-- R800: RTC count at which the Scan timer ends, when it runs. -/
  scanAt : Option Nat
  /-- RTC count at which REST_UNKNOWN last cleared (R54). -/
  restAt : Nat
  /-- RTC count of the last RTC wake into Scan (R72). -/
  scanWokeAt : Nat
  /-- The four Watch comparators. -/
  lpc : List Lpc
  /-- R52: consecutive rejected BEL_RC windows. -/
  belBad : Nat
  /-- R77: the 48-bit supply-charge accumulator, in µC. -/
  qsup : Nat
  /-- RTC count at the last Watch entry. -/
  watchRtc : Nat
  deriving DecidableEq, Repr, Inhabited

/-- Counters that time moves (R611, R623, R745): the RTC, pack time, the SD_CTL clock and the regulators' buckets. -/
structure Clocks where
  /-- RTC count of 1/32,768 s. -/
  rtc : Nat
  /-- Fraction of an RTC count, in 1/78,125. -/
  rtcPhase : Nat
  /-- Pack time in ns, modulo 2^64. -/
  packNs : Nat
  /-- Pack time below 1 ns, in 2^-32 ns. -/
  packFrac : Nat
  /-- SD_CTL clocks. -/
  sd : Nat
  /-- Half an SD_CTL clock has passed. -/
  sdHalf : Bool
  /-- 1/1,024 tokens of the 24 group and 12 link buckets (R322). -/
  tokens : List Nat
  deriving DecidableEq, Repr, Inhabited

/-- The output pins and streams of Table 03-4 that no register shows. -/
structure Pins where
  /-- FAULT_N released (high). -/
  faultN : Bool
  /-- PULSE runs at 1 kHz. -/
  pulse : Bool
  /-- EN_CORE high. -/
  enCore : Bool
  /-- AON_32K cycles for which WAKE_OUT stays high. -/
  wakeOut : Nat
  /-- BAL1 to BAL20 gates driven high. -/
  bal : List Bool
  /-- The code driven on the TDAC ball; none while it is high impedance (R176, R177). -/
  tdac : Option Nat
  deriving DecidableEq, Repr, Inhabited

/-- The last response on the fabric: data to the initiator, and whether it received a bus error. -/
structure BusResp where
  data : List Byte
  err : Bool
  deriving DecidableEq, Repr, Inhabited

/-- Errors a stored 64-bit word holds (R298, R299, R794). -/
inductive EccErr | single | double | many
  deriving DecidableEq, Repr, Inhabited

/-- Who writes the log (R747): hardware first, then Belfry, then steward cores by port. -/
structure LogIn where
  prio : Nat
  code : Nat
  arg : Nat
  /-- RTC count at which the entry arrived. -/
  at32k : Nat
  deriving DecidableEq, Repr, Inhabited

/-- The AON log's input buffer (R747); its entries stand in the DMP_LOG registers. -/
structure LogSt where
  buf : List LogIn
  lost : Nat
  deriving DecidableEq, Repr, Inhabited

/-- The dump engine (R751 to R756). -/
structure Dump where
  busy : Bool
  trigger : Nat
  /-- The header and records latched at the trigger (R752). -/
  image : List Byte
  /-- A system reset waits for the dump's end (R751, trigger 2), with the core whose watchdog expired. -/
  resetAfter : Option Nat
  /-- Belfry's powering-down waits for the dump's end (R751, trigger 3). -/
  fenceAfter : Bool
  /-- The request firmware serves (R764). -/
  req : Nat
  /-- The last 256 frames of the main link and the check lane, oldest first (Table 21-6). -/
  d2d : List (List Word)
  deriving DecidableEq, Repr, Inhabited

/-- One key slot (R726). -/
structure KeySlot where
  cls : Nat
  usage : Nat
  key : List Byte
  deriving DecidableEq, Repr, Inhabited

/-- The link key of one port (R730, R731). -/
structure LinkKey where
  key : List Byte
  session : List Byte
  /-- Direction bit this end sends with. -/
  dir : Nat
  /-- TXC of the last packet sent and of the last one accepted (R730). -/
  txc : Nat
  rxc : Nat
  deriving DecidableEq, Repr, Inhabited

/-- The XSPI command in progress (R151): its operation, NVM address, SRAM address and length, whether it must fail, and the bytes a
PROGRAM leaves. -/
structure XCmd where
  op : Nat
  addr : Nat
  sram : Nat
  len : Nat
  bad : Bool
  fin : List Byte
  deriving DecidableEq, Repr, Inhabited

/-- Security state beside the SEC_ registers (20_security.md). -/
structure Sec where
  slots : List (Option KeySlot)
  linkRoot : Option (List Byte)
  linkKeys : List (Option LinkKey)
  /-- NONCE_OWN of each port is valid (R729). -/
  nonceOk : List Bool
  /-- R714: the KEYWRAP body and BUILD_ID kept in AON over a Watch. -/
  wrapStore : Option (List Byte × List Byte)
  /-- KEYWRAP body and BUILD_ID unwrapped at the last boot. -/
  wrapLast : Option (List Byte × List Byte)
  /-- The current challenge nonce (R736). -/
  chal : List Byte
  /-- Rejected tokens since the last power-on reset (R738). -/
  rejects : Nat
  /-- PERM of the debug session (R739); in AON. -/
  perm : Nat
  /-- The OTP command that runs: the word's offset and the bits to program (R717, R718). -/
  otpRun : Option (Nat × Nat)
  /-- What SEC_CHAL last shifted out (R736). -/
  shiftOut : List Byte
  deriving DecidableEq, Repr, Inhabited

/-- One copy of the OTP (Table 20-2). -/
structure OtpCopy where
  serial : List Byte
  secret : List Byte
  fleet : List Byte
  root : List (List Byte)
  rootState : Byte
  rollback : Nat
  lifecycle : Byte
  deriving DecidableEq, Repr, Inhabited

/-- The boot ROM and image load (03_start_up.md, 04_configuration_image.md). -/
structure Boot where
  rom : RomState
  /-- The slot being loaded or booted: 0 A, 1 B. -/
  slot : Nat
  /-- The slots still to try after this one. -/
  rest : List Nat
  /-- The newer valid slot, and the failure causes, the block CRC faults, the attempts used and the pending state of this boot
  (XSPI_BOOT). -/
  newer : Nat
  fails : List Nat
  crcFaults : Nat
  attempts : Nat
  waiting : Bool
  /-- R743: this boot waited 1 s. -/
  delayed : Bool
  buildId : List Byte
  rollback : Nat
  keySlot : Nat
  role : Nat
  deriving DecidableEq, Repr, Inhabited

/-- One CAN controller beside its registers: the safety frame (R604) and the frame it offers (R603). -/
structure Can where
  /-- GO was set and the safety frame is not yet SENT. -/
  safeGo : Bool
  /-- R703: a newer fault message waits for SENT. -/
  safeDue : Bool
  deriving DecidableEq, Repr, Inhabited

/-- Belfry's reactions (19_safety_mechanisms.md), beside SAF_REACT, SAF_STEST and SAF_CANMSG. -/
structure Safe where
  /-- R697: signals of marking causes, each with its code and RTC count; kept through Watch. -/
  hist : List (Nat × Nat)
  /-- R92: a VALID verdict was issued since the last reset or wake. -/
  verdictSeen : Bool
  /-- R701: the return from MARKED has been made and FAULT_N waits for a VALID verdict. -/
  awaitValid : Bool
  /-- R709: the slice that failed and is run again at the next tick. -/
  retry : Option Nat
  /-- R710: slices skipped in the rotation in progress and in the one before. -/
  skipNow : List Nat
  skipLast : List Nat
  /-- R655: the BEL supply is outside its window and Belfry is held in reset. -/
  held : Bool
  /-- The device has woken from Watch since its last reset (R711). -/
  woke : Bool
  deriving DecidableEq, Repr, Inhabited

/-- A descriptor held by an engine: where it came from, its 64 bytes as fetched (R329), its class (R332) and how often it
was deferred (R345). -/
structure Desc where
  addr : Nat
  bytes : List Byte
  cls : Nat
  defer : Nat
  deriving DecidableEq, Repr, Inhabited

/-- What an engine has reached in its running descriptor: the status, detail, fault address and result word its record will
carry, and its scale misses (Table 09-4). -/
structure OpRes where
  status : Nat
  detail : Nat
  fault : Nat
  result : Nat
  missRows : Nat
  /-- Record FLAGS bits 2 to 5: MISS_OVER, MISS_UNDER, REPLAYED, LB_CE. -/
  flags : Nat
  deriving DecidableEq, Repr, Inhabited

/-- One piece of a data mover's work whose other side is another device (R392): what to send and what to do with the answer. -/
structure Move where
  /-- Request: 0 RD, 1 WR, 2 FADD. -/
  kind : Nat
  /-- The other device and its local address. -/
  dev : Nat
  remote : Nat
  /-- The address on this device that a read or a FADD's answer fills, or a write is taken from. -/
  here : Nat
  len : Nat
  /-- The bytes of a write that come from no address, and an addend. -/
  data : List Byte
  deriving DecidableEq, Repr, Inhabited

/-- The running descriptor: when it started in pack µs, whether its operation has been performed, and with what result; for a data
mover with a remote side, the pieces not yet sent and those sent and unanswered, with their tags. -/
structure Running where
  d : Desc
  start : Nat
  done : Bool
  res : OpRes
  todo : List Move
  sent : List (Nat × Move)
  deriving DecidableEq, Repr, Inhabited

/-- Power of one engine (R59, R356). -/
inductive EngPw | off | powering | up
  deriving DecidableEq, Repr, Inhabited

/-- One engine's front end and queue (09_engine_model.md). -/
structure Engine where
  pw : EngPw
  /-- The doorbell FIFO: descriptor address, submitting port and class, oldest first (R327). -/
  fifo : List (Nat × Nat × Nat)
  /-- Queued descriptors of the three classes in acceptance order. -/
  queue : List Desc
  run : Option Running
  /-- The running descriptor's engine and class have ceased to be admitted (R346). -/
  lost : Bool
  /-- Records written since reset. -/
  seq : Nat
  deriving DecidableEq, Repr, Inhabited

/-- One tone of a ZLE (R380, R381): f, a and φ in FP32 as the table gives them, and its phase accumulator at the last period start, in
2^-32 turns. -/
structure Tone where
  f : Nat
  a : Nat
  phi : Nat
  acc : Nat
  deriving DecidableEq, Repr, Inhabited

/-- A complex accumulator in compensated FP32 (R383): the sums and their compensations. -/
structure ZAcc where
  re : Nat
  im : Nat
  cre : Nat
  cim : Nat
  deriving DecidableEq, Repr, Inhabited

/-- A tone set that waits for its period start (R381): the starts still to go. -/
structure ZNext where
  tones : List Tone
  offset : Nat
  duration : Nat
  starts : Nat
  deriving DecidableEq, Repr, Inhabited

/-- An impedance lock-in engine's synthesiser and accumulators (R380 to R384). -/
structure Zle where
  /-- The active tone set; none when nothing is excited. -/
  tones : List Tone
  offset : Nat
  /-- Periods left, when the excitation has an end. -/
  left : Option Nat
  next : Option ZNext
  /-- STOP has started. -/
  stopDue : Bool
  /-- The SD_CTL count of the last period start. -/
  lastSd : Nat
  /-- Periods in which a duty clamped. -/
  clamps : Nat
  /-- Records accumulated for CELL1 to CELL20 and the current, and records ignored. -/
  counts : List Nat
  ignored : Nat
  /-- For each tone, the 21 accumulators. -/
  accs : List (List ZAcc)
  deriving DecidableEq, Repr, Inhabited

/-- A ZLE that loses its power: its accumulators and a tone set that waits are gone; the active set ends at the next period start
(R382, R305). -/
def Zle.unpowered (z : Zle) : Zle :=
  { z with next := none, clamps := 0, counts := List.replicate 21 0, ignored := 0, accs := [] }

/-! ### Henlink (14_henlink.md) -/

/-- A packet: the 16 bytes of its header (Table 14-4) and its payload. -/
structure Pkt where
  hdr : List Byte
  pay : List Byte
  deriving DecidableEq, Repr, Inhabited

/-- A packet held for an output port: its source (0 the local originator, 1 + p the input port), the real time at which its header
arrived or it was created, in 25/64 ns, the credits its input port frees when it leaves, whether it is ended by an inverted CRC
(R520), and the mailbox that sent it as a PWR. -/
structure OutPkt where
  pkt : Pkt
  src : Nat
  born : Nat
  owes : Nat
  stomp : Bool
  mail : Option Nat
  deriving DecidableEq, Repr, Inhabited

/-- One Henlink port beside its registers. -/
structure HlPort where
  /-- The advertised generation mask, and the generation chosen for this training, 0 none (R506, R507). -/
  mask : Nat
  gen : Nat
  /-- LSEQ of the next packet sent, and the LSEQ expected next (R516). -/
  txSeq : Nat
  rxSeq : Nat
  /-- Unacknowledged packets, oldest first, and replays since the acknowledgement last advanced (R510, R518). -/
  replay : List OutPkt
  replays : Nat
  /-- After a NAK, packets are discarded until the expected LSEQ arrives (R517). -/
  skipping : Bool
  /-- Packets accepted since the last ACK. -/
  unacked : Nat
  /-- Output queues of every VC and source, in order of arrival. -/
  queue : List OutPkt
  /-- Credits held for the peer's four receive buffers, the last cumulative count received, and the own counts freed (R521). -/
  credits : List Nat
  seen : List Nat
  freed : List Nat
  /-- Deficit round robin over VC1 to VC3: whose turn it is, whether this visit has had its quantum, and the deficits in bytes. -/
  turn : Nat
  given : Bool
  deficit : List Nat
  /-- The source next served in each VC (R522). -/
  srcTurn : List Nat
  /-- The last units put on the lanes, oldest first, at most 16. -/
  sent : List (List Byte)
  deriving DecidableEq, Repr, Inhabited

/-- Who owns a transaction: a mailbox or a DME. -/
inductive XOwner | mail (q : Nat) | dme (e : Nat)
  deriving DecidableEq, Repr, Inhabited

/-- A transaction of the requester (R537 to R541): its tag and destination, what it sends, how often it was sent, the latest recorded
cause, and how it ended with the data it brought. -/
structure Xact where
  tag : Nat
  dest : Nat
  kind : Nat
  vc : Nat
  cls : Nat
  addr : Nat
  bytes : Nat
  pay : List Byte
  sends : Nat
  cause : Nat
  ended : Option Nat
  data : List Byte
  owner : XOwner
  deriving DecidableEq, Repr, Inhabited

/-- An entry of the duplicate-suppression table: DONE once it holds its RESP (R544 to R546). -/
structure Dedup where
  src : Nat
  tag : Nat
  resp : Option Pkt
  deriving DecidableEq, Repr, Inhabited

/-- A packet delivered locally that waits for its effect: the port it arrived on, and the pack time of its arrival in ns. -/
structure Delivered where
  port : Nat
  pkt : Pkt
  stamp : Nat
  deriving DecidableEq, Repr, Inhabited

/-- Henlink beside its registers. -/
structure Henlink where
  ports : List HlPort
  /-- Open transactions, the one sent longest ago first. -/
  xacts : List Xact
  /-- Tags held after completion, oldest first (R541). -/
  held : List Nat
  /-- The duplicate-suppression table, oldest first. -/
  dedup : List Dedup
  inbox : List Delivered
  /-- 10 ms and 14 ms have passed since the reset (R524). -/
  accept : Bool
  originate : Bool
  /-- Pack time in ns at which the last TSYNC left on the time port, and the runs of exchanges inside and outside the bound (R554). -/
  t1 : Option Nat
  good : Nat
  bad : Nat
  /-- Indexes of the enumeration entries in state SENT, oldest first (R568). -/
  eqSent : List Nat
  deriving DecidableEq, Repr, Inhabited

/-! ### Vehicle interfaces (16_vehicle_interfaces.md) -/

/-- One TDM port beside its registers: the entry fetched for the next frame, the stamp of the last FSYNC, and what DOUT carries in the
present frame, none while it is high impedance (R623 to R625). -/
structure Tdm where
  next : List Byte
  stamp : Nat
  dout : Option (List Byte)
  deriving DecidableEq, Repr, Inhabited

/-- The vehicle interfaces beside the CAN safety buffers: the last frames put on CAN0, CAN1, T1S and ETH (an entry of Table 16-1
each), the MDIO command in progress, the TDM ports, the I3C command in progress, and the last bytes it wrote to the bus. -/
structure Vif where
  sent : List (List Byte)
  mdio : Option Word
  tdm : List Tdm
  i3c : Option Word
  i3cOut : List Byte
  deriving DecidableEq, Repr, Inhabited

/-! ### The image's firmware (01, 03, 13, 15 and 17) -/

/-- A packet firmware has ready for a mailbox: KIND 1 WR or 3 PWR, VC, destination, address and bytes, and whether it is a message, which
stays until its transaction has completed OK (R560). -/
structure FwOut where
  msg : Bool
  kind : Nat
  vc : Nat
  dest : Nat
  addr : Nat
  data : List Byte
  deriving DecidableEq, Repr, Inhabited

/-- A remote write that firmware has given to a DME: destination device, address and bytes. -/
structure FwCopy where
  dest : Nat
  addr : Nat
  data : List Byte
  deriving DecidableEq, Repr, Inhabited

/-- A register write that the manager has asked of a device by ENUM_WR or WR: the device's ID, the HL_ offset, and the value. -/
structure FwPush where
  dest : Nat
  off : Nat
  value : Nat
  deriving DecidableEq, Repr, Inhabited

/-- A cell this device has been told to take (R588): CELLREF, the slot, MODE REMOTE, the device it comes from, the boundary from which it
is stepped here, and the resident's address. -/
structure Taken where
  ref : Nat
  slot : Nat
  remote : Bool
  src : Nat
  switch : Nat
  deriving DecidableEq, Repr, Inhabited

/-- A cell this device has been told to release at a boundary; with MODE REMOTE it is not stepped here from then on (R588, R496). -/
structure Released where
  ref : Nat
  remote : Bool
  switch : Nat
  deriving DecidableEq, Repr, Inhabited

/-- What firmware keeps beside the context table. -/
structure Fw where
  conf : Option SysConf
  /-- The tray tag read, TAGSTAT, and the CHEM_ID, series count and model record in use. -/
  tag : List Byte
  tagStat : Nat
  chem : Nat
  series : Nat
  /-- The first step has been made (R91). -/
  started : Bool
  /-- The last own boundary: full pack time in µs and RTC count. -/
  bound : Option (Nat × Nat)
  /-- Boundaries since the start (Table 13-5, SEQ). -/
  seq : Nat
  /-- Slots initialised under case 2 or 3 whose first record is still to be handed over, and slots whose training state must be
  initialised anew (R463). -/
  reinit : List Nat
  retrain : List Nat
  /-- Lockets for the next boundary: slot and context bytes (R107). -/
  late : List (Nat × List Byte)
  /-- Model records logged as invalid (R472). -/
  badModels : List Nat
  /-- A batch that waits for its verdicts: SEQ and BOUND (R575). -/
  due : Option (Nat × Nat)
  /-- The SEQ expected next from each owner, and slots whose mirror a full copy must replace before it is stepped again (R493). -/
  vecSeq : List (Nat × Nat)
  resync : List Nat
  taken : List Taken
  released : List Released
  /-- Packets that wait for a mailbox, and what the last firmware action gave to the DMEs and asked of other devices' registers. -/
  out : List FwOut
  copies : List FwCopy
  pushes : List FwPush
  /-- As a member: the highest TERM heard, its ACTIVE_ID and STANDBY_ID, the highest COMMITTED, SCHED_VER and BUDDY_ID. -/
  term : Nat
  active : Option Nat
  standby : Option Nat
  committed : Option Nat
  sched : Option Nat
  buddy : Option Nat
  /-- The (TERM, SEQ) last processed from each inbox slot, and the SEQ last sent to each receiver (R558, R559). -/
  heard : List (Nat × Nat × Nat)
  said : List (Nat × Nat)
  /-- The sink's blocks of the last ST_k: worker and block, none where it is missing (R637). -/
  blocks : List (Nat × Option (List Byte))
  /-- The samples last sent on each axis (R635). -/
  lastFrame : List Nat
  /-- The SEQ of each axis's last output used (R635), and the grid index of the last block's frame 0. -/
  lastSeq : List (Option Nat)
  lastBlock : Option Nat
  deriving DecidableEq, Repr

/-- MGR_STATE (Table 15-3). -/
inductive MgrState | none | candidate | active | standby | excluded
  deriving DecidableEq, Repr, Inhabited

/-- A device table entry (Table 15-7), with the ring reads that failed in a row (R590), the boundaries in a row with LATE (R593) and
FREE. -/
structure MDev where
  id : Nat
  serial : Nat
  tray : List Byte
  state : Nat
  tagStat : Nat
  buddy : Nat
  nextSeq : Nat
  inbox : Nat
  ret : Nat
  ctx : Nat
  locketIn : Nat
  fails : Nat
  lates : Nat
  free : Nat
  series : Nat
  deriving DecidableEq, Repr, Inhabited

/-- A cell table entry (Table 15-7). -/
structure MCell where
  ref : Nat
  host : Nat
  slot : Nat
  kind : Nat
  rtc : Nat
  deriving DecidableEq, Repr, Inhabited

/-- A snapshot being replicated: its epoch and buffer, and whether COMMIT has been sent. -/
structure MSnap where
  epoch : Nat
  buf : Nat
  commitSent : Bool
  deriving DecidableEq, Repr, Inhabited

/-- A delegation under way (R588): CELLREF, target and source, MODE REMOTE, the target's slot, SWITCH, and whether the target has accepted. -/
structure MMove where
  ref : Nat
  target : Nat
  source : Nat
  remote : Bool
  slot : Nat
  switch : Nat
  accepted : Bool
  deriving DecidableEq, Repr, Inhabited

/-- The manager's duties (15_manager_operation.md). -/
structure Mgr where
  state : MgrState
  term : Nat
  devs : List MDev
  /-- The cell table: each cell's live host. -/
  cells : List MCell
  /-- COPY contexts of this device: CELLREF and slot (R573). -/
  copies : List (Nat × Nat)
  sched : Nat
  standby : Option Nat
  /-- The snapshot in replication, the buffer the next one goes to, and snapshots abandoned in a row (R579, R582). -/
  snap : Option MSnap
  buf : Nat
  lost : Nat
  committed : Option Nat
  /-- As standby: the buffer and epoch last prepared, and the one adopted (R579, R580). -/
  prepared : Option (Nat × Nat)
  adopted : Option Nat
  /-- The pair compared last (R574). -/
  pair : Nat
  /-- Walks asked for by NEW_PEER: the member and its port (R567). -/
  walks : List (Nat × Nat)
  /-- Delegations under way (R588). -/
  moves : List MMove
  /-- What the last walk found. -/
  seen : List Seen
  /-- Accepted batches whose BCRCs Belfry checks: the worker, its batch's SEQ, the hand-off entry's index, and whether the records have been
  read again; and those to be read again (R577). -/
  checks : List (Nat × Nat × Nat × Bool)
  again : List (Nat × Nat)
  deriving DecidableEq, Repr

/-! ### Belfry (18_belfry.md) -/

/-- An exact fraction in lowest terms, denominator above 0. -/
structure Q where
  num : Int
  den : Nat
  deriving DecidableEq, Repr, Inhabited

/-- One own cell: its last 64 used CELLk entries with their pack times in ns, newest first (R660), and SOC_A and BND_A when it has an
anchor (R663, R664). -/
structure BelCell where
  ents : List (Int × Nat)
  anchor : Option (Q × Q)
  deriving DecidableEq, Repr, Inhabited

/-- A used ISNS entry: pack time in ns, current in A, and the charge counted up to it. -/
structure BelIsns where
  ns : Nat
  cur : Q
  tot : Q
  deriving DecidableEq, Repr, Inhabited

/-- What Belfry keeps of the last record it judged of a CELLREF: its bytes, the count of R689, its published SoC in 2^-14 and
the charge at its BOUND. -/
structure BelPrev where
  bytes : List Byte
  count : Nat
  soc : Int
  tot : Q
  deriving DecidableEq, Repr, Inhabited

/-- Belfry's own data. -/
structure Bel where
  /-- The program it runs: the BELFRY body (R657). -/
  prog : List Byte
  /-- Pack time in ns at which the mask ROM started. -/
  romNs : Nat
  /-- The CHEM_ID latched (R671). -/
  chem : Option Nat
  cells : List BelCell
  /-- Used ISNS entries of the last 1 s, newest first. -/
  isns : List BelIsns
  /-- ADC4 clock of the last ISNS entry, whether the interval since holds a gap, and whether that entry carried CAL_STALE. -/
  lastClk : Option Nat
  gap : Bool
  stale : Bool
  /-- ADC4 clock of the last frame's first entry. -/
  clk : Nat
  /-- Charge counted since reset, and Q_B, Q_ABS, Q_GAP and t_A since the anchor; Q_ABS and t_A count stale intervals four times
  (R661, R662). -/
  tot : Q
  qB : Q
  qAbs : Q
  qGap : Q
  tA : Q
  /-- Pack time in ns since which every used ISNS entry was at most REST_I, and of the last anchor in this rest (R663). -/
  quiet : Option Nat
  anchored : Option Nat
  /-- A Watch of at least REST_T has just ended (R665). -/
  rested : Bool
  /-- The last DIE_TEMP code (R682). -/
  temp : Option Int
  /-- R672: warming counts below 64, by CELLREF. -/
  warm : List (Nat × Nat)
  /-- The last record of each CELLREF. -/
  prev : List (Nat × BelPrev)
  /-- The charge at the BOUND of the last summary (Table 18-9). -/
  sumTot : Option Q
  deriving DecidableEq, Repr, Inhabited

/-! ### The sense die and its bridge (05, 06 and 07) -/

/-- SEQn_STATE.PHASE (06, SEQn_STATE). -/
inductive SeqPhase | stopped | wait | settle | convert
  deriving DecidableEq, Repr, Inhabited

/-- A bead run with words still to leave the converter: its bead word and index, whether it is a Pendant bead, the start of its
settling in 640 MHz clocks, the divider, a run number for framing, the samples that track, the words that have left, and whether
the last one carries ABORTED (R227). -/
structure BeadRun where
  word : Nat
  idx : Nat
  pend : Bool
  start : Nat
  div : Nat
  id : Nat
  total : Nat
  out : Nat
  aborted : Bool
  deriving DecidableEq, Repr, Inhabited

/-- An entry in a transmit staging buffer (R223, R224): the ring entry, the 640 MHz clock of its tracking, its destination ring, its
run, and whether it must open a new frame. -/
structure Staged where
  word : Word
  at640 : Nat
  ring : Nat
  run : Nat
  fresh : Bool
  deriving DecidableEq, Repr, Inhabited

/-- What the Strand does when no Pendant is left (R228 to R230): nothing waits, or the given bead restarts from its settling delay,
or it is begun or resumes its wait. -/
inductive Resume | none | restart (bead : Nat) | begin (bead : Nat)
  deriving DecidableEq, Repr, Inhabited

/-- A queued Pendant trigger: its index, whether a CAL delayed it (R232, R241), and the 640 MHz clock of its arrival. -/
structure Queued where
  trig : Nat
  held : Bool
  at640 : Nat
  deriving DecidableEq, Repr, Inhabited

/-- One sequencer beside its registers (06_converters_and_sequencing.md). -/
structure Seq where
  phase : SeqPhase
  bead : Nat
  inPend : Bool
  /-- The 640 MHz clock at which the bead's settling began. -/
  start : Nat
  /-- The 640 MHz clock at which the settling of a bead whose start event has come begins (R215). -/
  due : Option Nat
  /-- Runs with words in the converter pipeline, oldest first. -/
  runs : List BeadRun
  nextId : Nat
  /-- The trigger whose Pendant starts at its edge E. -/
  launching : Option Nat
  queue : List Queued
  resume : Resume
  /-- RUN = 0 was written and waits for the run's end (R220). -/
  stopping : Bool
  calHold : Bool
  /-- Triggers raised and not yet arrived (R285). -/
  raised : List Nat
  /-- PWM events raised and not yet arrived (R215), by TSEL. -/
  pwm : List Nat
  /-- The event FIFO, oldest first (R233). -/
  evt : List Nat
  stage : List Staged
  /-- R224: an entry was dropped, so the run's next one opens a frame. -/
  cut : Bool
  /-- Low words stored and not yet committed, by bead address (R209). -/
  beadLow : List (Nat × Word)
  /-- The open-wire sinks of the last 62.5 µs, newest first: cell, from and, when stopped, to, in 640 MHz clocks (R161, R162). -/
  ow : List (Nat × Nat × Option Nat)
  /-- The PGA's gain code and the clocks of its changes in the last 62.5 µs (R164, R165). -/
  gain : Nat
  gainAt : List Nat
  deriving DecidableEq, Repr, Inhabited

/-- A CIC output on its way through the compensator and the notch (R277); the value is in 2^-8 LSB. -/
structure CicOut where
  chan : Nat
  value : Int
  time : Nat
  seq : Nat
  settling : Bool
  held : Bool
  overBit : Bool
  refBad : Bool
  stale : Bool
  deriving DecidableEq, Repr, Inhabited

/-- One channel of a filter path (R266 to R278). -/
structure FltChan where
  chan : Nat
  /-- The CIC's integrators and combs, the inputs since the last output, and the integrators at that output (R270). -/
  ints : List Int
  combs : List Int
  cnt : Nat
  save : List Int
  /-- The last value accepted (R269). -/
  last : Option Int
  /-- Outputs so far (R279, SEQ). -/
  seq : Nat
  /-- For HELD, OR, REF_UNSETTLED and CAL_STALE: the output count when an input last carried it (R271). -/
  taint : List (Option Nat)
  /-- Compensator inputs and outputs, and notch inputs and outputs, newest first, in 2^-8 LSB. -/
  xs : List Int
  ys : List Int
  nx : List Int
  ny : List Int
  deriving DecidableEq, Repr, Inhabited

/-- One filter path: its channel states and the outputs in process (one, and four waiting; R277). -/
structure Flt where
  chans : List FltChan
  queue : List CicOut
  deriving DecidableEq, Repr, Inhabited

/-- The counts c, r and h of a window comparator (Table 07-4). -/
structure Win where
  c : Nat
  r : Nat
  h : Nat
  deriving DecidableEq, Repr, Inhabited

/-- A CAL (R238 to R247): the phases still to run (0 CONV to 4 ZERO_B), the zero source, and whether it has started. -/
structure Cal where
  req : List Nat
  zint : Bool
  started : Bool
  deriving DecidableEq, Repr, Inhabited

/-- The balancing PWM (R181 to R186): what the running period uses, and which channels are on in it. -/
structure Bal where
  period : Nat
  duty : List Nat
  stagger : Bool
  on : List Bool
  /-- Channels that stay low until the next period start (R180). -/
  barred : List Bool
  deriving DecidableEq, Repr, Inhabited

/-- One die-to-die link (R190 to R194, R686 to R688). -/
structure D2d where
  /-- Frames sent. -/
  tx : Nat
  /-- Frames on the wire, oldest first. -/
  wire : List (List Byte)
  lastCnt : Option Nat
  /-- Frames accepted since a reset or a wake. -/
  accepted : Nat
  /-- An accepted frame repeated the counter before it. -/
  repeated : Bool
  /-- Consecutive counters accepted while frozen. -/
  consec : Nat
  frozen : Bool
  /-- Channels: code, last CODE, frames that held only it (R686). -/
  codes : List (Nat × Nat × Nat)
  /-- The channel whose freezing froze the link. -/
  codeChan : Option Nat
  /-- 640 MHz clocks of the frames dropped in the last 1 ms (R194). -/
  drops : List Nat
  /-- The 640 MHz clock of the last frame accepted (R686), and the pack time in ns at which the link was last unfrozen (R690). -/
  lastAt : Nat
  thawNs : Option Nat
  deriving DecidableEq, Repr, Inhabited

/-- ADC4 and its check list (R203, R235 to R237): the running bead, the conversions out of it, and entries waiting for a frame. -/
structure Chk where
  bead : Nat
  conv : Nat
  out : List (Word × Nat)
  /-- ADC4 conversion clocks. -/
  clk : Nat
  deriving DecidableEq, Repr, Inhabited

/-- The sense die and the sense bridge beside their registers. -/
structure Sense where
  seqs : List Seq
  flts : List Flt
  wins : List Win
  cal : Cal
  bal : Bal
  main : D2d
  check : D2d
  chk : Chk
  /-- The staging buffer the last frame was taken from (R224). -/
  turn : Nat
  /-- Accepted ring entries the bridge has still to write: ring and entry (R260). -/
  bridge : List (Nat × Word)
  /-- 640 MHz clocks at which REF_A and REF_B last became settled and unsettled (R172, R175). -/
  refaSet : Nat
  refaClr : Nat
  refbSet : Nat
  refbClr : Nat
  /-- The SFE_TDAC value the test DAC applies (R177, R250). -/
  tdac : Word
  deriving DecidableEq, Repr, Inhabited

end Sys2Proof.Machine
end

