-- ==== Sys2Proof/Machine/Bits.lean ====
section
/-! DEFINITION. Bit fields, byte order and the cyclic checks the spec names. Bit 0 is the least significant bit (R2);
a multi-byte field is little-endian unless its table says otherwise (R3). -/
namespace Sys2Proof.Machine

/-- Field [lo+w-1 : lo] of a register, as a number (R2). -/
def fld (v : Word) (lo w : Nat) : Nat := v.toNat / 2 ^ lo % 2 ^ w

/-- One bit of a register. -/
def bit (v : Word) (i : Nat) : Bool := v.getLsbD i

/-- The mask of field [lo+w-1 : lo]. -/
def fldMask (lo w : Nat) : Word := BitVec.ofNat 32 ((2 ^ w - 1) * 2 ^ lo)

/-- Register `v` with field [lo+w-1 : lo] replaced by `x` modulo 2^w. -/
def putFld (v : Word) (lo w x : Nat) : Word :=
  (v &&& ~~~ fldMask lo w) ||| BitVec.ofNat 32 (x % 2 ^ w * 2 ^ lo)

/-- Field [lo+w-1 : lo] of any natural number. -/
def nfld (v lo w : Nat) : Nat := v / 2 ^ lo % 2 ^ w

/-- Bit `i` of a natural number. -/
def nbit (v i : Nat) : Bool := v.testBit i

/-- Two's complement reading of the low `w` bits of `n`. -/
def sext (w n : Nat) : Int :=
  if n % 2 ^ w < 2 ^ (w - 1) then (n % 2 ^ w : Nat) else (n % 2 ^ w : Nat) - (2 ^ w : Nat)

/-- The low `w` bits of the two's complement form of `z`. -/
def tc (w : Nat) (z : Int) : Nat := (z % ((2 ^ w : Nat) : Int)).toNat

/-- `min n (2^w - 1)`: a count of `w` bits that saturates. -/
def sat (w n : Nat) : Nat := min n (2 ^ w - 1)

/-- An integer held between two bounds. -/
def clampI (lo hi z : Int) : Int := if z < lo then lo else if hi < z then hi else z

/-- `z ÷ 2^k`, rounded to nearest with ties to even. -/
def shrEven (z : Int) (k : Nat) : Int :=
  let q := z / ((2 ^ k : Nat) : Int)
  let r := 2 * (z % ((2 ^ k : Nat) : Int))
  if r < ((2 ^ k : Nat) : Int) then q
  else if ((2 ^ k : Nat) : Int) < r then q + 1
  else if q % 2 = 0 then q else q + 1

/-- `a ÷ b` for `b > 0`, rounded to nearest with ties to even. -/
def divEven (a : Int) (b : Nat) : Int :=
  let q := a / (b : Int)
  let r := 2 * (a % (b : Int))
  if r < (b : Int) then q else if (b : Int) < r then q + 1 else if q % 2 = 0 then q else q + 1

/-- `a ÷ b` for `b > 0`, rounded half away from zero. -/
def divAway (a : Int) (b : Nat) : Int :=
  if 0 ≤ a then (2 * a + b) / (2 * b : Nat) else -((2 * (-a) + b) / (2 * b : Nat))

/-- The bytes of `n`, least significant first (R3). -/
def leBytes : Nat → Nat → List Byte
  | 0, _ => []
  | k + 1, n => BitVec.ofNat 8 n :: leBytes k (n / 256)

/-- The number that little-endian bytes spell (R3). -/
def leNat : List Byte → Nat
  | [] => 0
  | b :: r => b.toNat + 256 * leNat r

/-- The number that big-endian bytes spell (R120). -/
def beNat (bs : List Byte) : Nat := bs.foldl (fun a b => a * 256 + b.toNat) 0

/-- The `k` bytes of `n`, most significant first (R120). -/
def beBytes (k n : Nat) : List Byte := (leBytes k n).reverse

/-- Bytes `off` to `off + n - 1` of a list, as a little-endian number; missing bytes count as zero. -/
def leAt (bs : List Byte) (off n : Nat) : Nat := leNat ((bs.drop off).take n)

/-- The `n` bytes of a list from `off`. -/
def slice (bs : List Byte) (off n : Nat) : List Byte := (bs.drop off).take n

/-- `bs` cut or filled with zeros to `n` bytes. -/
def padTo (n : Nat) (bs : List Byte) : List Byte := (bs ++ List.replicate n (0 : Byte)).take n

/-- Bytes of `base` from `off` on replaced by `new`. -/
def splice (base : List Byte) (off : Nat) (new : List Byte) : List Byte :=
  base.take off ++ new ++ base.drop (off + new.length)

/-- One reflected CRC-32 bit. -/
def crc32Bit (c : Nat) : Nat := if c % 2 = 1 then c / 2 ^^^ 0xEDB88320 else c / 2

/-- One byte of CRC-32, reflected. -/
def crc32Byte (c : Nat) (b : Byte) : Nat :=
  let x := c ^^^ b.toNat
  crc32Bit (crc32Bit (crc32Bit (crc32Bit (crc32Bit (crc32Bit (crc32Bit (crc32Bit x)))))))

/-- CRC-32 with a loadable initial value: polynomial 0x04C11DB7, reflected, final XOR 0xFFFFFFFF
(01_system_roles.md, "The tray and its tag"; R676 loads BCRC_SEED). -/
def crc32From (init : Nat) (bs : List Byte) : Nat := bs.foldl crc32Byte init ^^^ 0xFFFFFFFF

/-- CRC-32 with the initial value 0xFFFFFFFF. -/
def crc32 (bs : List Byte) : Nat := crc32From 0xFFFFFFFF bs

/-- One bit of a left-shifting CRC of width `w`. -/
def crcUpBit (w poly c : Nat) : Nat := if c.testBit (w - 1) then (c * 2 % 2 ^ w) ^^^ poly else c * 2 % 2 ^ w

/-- One byte of a left-shifting CRC of width `w`, most significant bit first. -/
def crcUpByte (w poly c : Nat) (b : Byte) : Nat :=
  let x := c ^^^ (b.toNat * 2 ^ (w - 8))
  let f := crcUpBit w poly
  f (f (f (f (f (f (f (f x)))))))

/-- CRC-8 of the CAN fault message (Table 19-4): polynomial 0x1D, initial value and final XOR 0xFF. -/
def crc8 (bs : List Byte) : Nat := bs.foldl (crcUpByte 8 0x1D) 0xFF ^^^ 0xFF

/-- CRC-16 with polynomial 0x1021 and the given initial value, most significant bit first. -/
def crc16From (init : Nat) (bs : List Byte) : Nat := bs.foldl (crcUpByte 16 0x1021) init

/-- Entry `i` of a list, or a default. -/
def nth {α : Type} (l : List α) (i : Nat) (d : α) : α := l.getD i d

/-- Entry `i` of a list changed by `f`; nothing past the end changes. -/
def upd {α : Type} (l : List α) (i : Nat) (f : α → α) : List α := l.modify i f

end Sys2Proof.Machine
end

