-- ==== Sys2Proof/Machine/Real.lean ====
section
/-! DEFINITION. Real functions the spec names without an algorithm (R275, R278, R367, R381, R385), computed in fixed point with 96
fraction bits and then rounded as the rule that uses them states; DESIGN CHOICE, log entry 6. -/
namespace Sys2Proof.Machine

/-- 1 in the fixed-point form. -/
def fxOne : Int := 2 ^ 96

/-- π, rounded down. -/
def fxPi : Int := 248902613312231085230521944622

/-- ln 2, rounded down. -/
def fxLn2 : Int := 54916777467707473351141471128

/-- A product, rounded down. -/
def fxMul (a b : Int) : Int := a * b / 2 ^ 96

/-- `num ÷ den` in the fixed-point form, rounded down; `den` above 0. -/
def fxOfRat (num : Int) (den : Nat) : Int := num * 2 ^ 96 / (den : Int)

/-- A fixed-point value rounded to an integer, ties to even. -/
def fxRound (x : Int) : Int := shrEven x 96

/-- A Taylor series: terms k0, k0 + 2, …, each the one before times `x2` over `k (k + 1)`; `n` terms. -/
def fxSeries (x2 : Int) : Nat → Nat → Int → Int
  | 0, _, _ => 0
  | n + 1, k, t => t + fxSeries x2 n (k + 2) (-(fxMul t x2) / ((k * (k + 1) : Nat) : Int))

/-- cos of an angle within ±π. -/
def fxCos0 (x : Int) : Int := fxSeries (fxMul x x) 24 1 fxOne

/-- sin of an angle within ±π. -/
def fxSin0 (x : Int) : Int := fxSeries (fxMul x x) 24 2 x

/-- The angle 2π·num ÷ den, brought within ±π. -/
def fxTurn (num : Int) (den : Nat) : Int :=
  let r := num % (den : Int)
  let r := if (den : Int) < 2 * r then r - den else r
  2 * fxPi * r / (den : Int)

/-- cos(2π·num ÷ den). -/
def fxCosTurn (num : Int) (den : Nat) : Int := fxCos0 (fxTurn num den)

/-- sin(2π·num ÷ den). -/
def fxSinTurn (num : Int) (den : Nat) : Int := fxSin0 (fxTurn num den)

/-- The series of e^x for x in [0, ln 2): `n` terms from term `k`. -/
def fxExpSeries (x : Int) : Nat → Nat → Int → Int
  | 0, _, _ => 0
  | n + 1, k, t => t + fxExpSeries x n (k + 1) (fxMul t x / ((k : Nat) : Int))

/-- e^x as a mantissa in [1, 2) in the fixed-point form and a power of two. -/
def fxExp (x : Int) : Int × Int :=
  let k := x / fxLn2
  (fxExpSeries (x - k * fxLn2) 32 1 fxOne, k)

/-- One step of an integer square root: bit `i` is kept while the square fits. -/
def isqrtFrom (n : Nat) : Nat → Nat → Nat
  | 0, r => r
  | i + 1, r => let t := r + 2 ^ i; isqrtFrom n i (if t * t ≤ n then t else r)

/-- The integer square root of a number below 2^(2b). -/
def isqrt (b n : Nat) : Nat := isqrtFrom n b 0

end Sys2Proof.Machine
end

