-- ==== Sys2Proof/Machine/Float.lean ====
section
/-! DEFINITION. IEEE 754 binary arithmetic on bit patterns, exact and then rounded once (11_number_formats.md, R402, R403, R410, R411),
and exact fractions for Belfry's estimates. -/
namespace Sys2Proof.Machine

/-- A binary format: precision with the hidden bit, exponent field width, and the exponent of the smallest subnormal. -/
structure Fmt where
  p : Nat
  eb : Nat
  qmin : Int
  deriving DecidableEq, Repr

/-- binary32. -/
def fp32 : Fmt := ⟨24, 8, -149⟩
/-- binary16. -/
def fp16 : Fmt := ⟨11, 5, -24⟩
/-- bfloat16 (R402). -/
def bf16 : Fmt := ⟨8, 8, -133⟩

/-- A decoded value: not a number, an infinity, or (-1)^s · m · 2^q. -/
inductive Fv | nan | inf (s : Bool) | num (s : Bool) (m : Nat) (q : Int)
  deriving DecidableEq, Repr

/-- The pattern of +∞. -/
def Fmt.infBits (f : Fmt) : Nat := (2 ^ f.eb - 1) * 2 ^ (f.p - 1)

/-- The sign bit's weight. -/
def Fmt.signBit (f : Fmt) : Nat := 2 ^ (f.p + f.eb - 1)

/-- The canonical NaN (R403). -/
def Fmt.nanBits (f : Fmt) : Nat := f.infBits + 2 ^ (f.p - 2)

/-- A pattern decoded. -/
def Fmt.dec (f : Fmt) (b : Nat) : Fv :=
  let s := b.testBit (f.p + f.eb - 1)
  let b := b % f.signBit
  let e := b / 2 ^ (f.p - 1)
  let m := b % 2 ^ (f.p - 1)
  if b = f.infBits then .inf s else if f.infBits < b then .nan
  else if e = 0 then .num s m f.qmin else .num s (m + 2 ^ (f.p - 1)) (f.qmin + e - 1)

/-- `num ÷ den · 2^e` rounded to nearest with ties to even: a mantissa of at most `p` bits (or 2^p after a carry) and its exponent. -/
def roundMag (p : Nat) (qmin : Int) (num den : Nat) (e : Int) : Nat × Int :=
  if num = 0 then (0, qmin)
  else
    let lg : Int := (Nat.log2 num : Int) - (Nat.log2 den : Int) + e
    let q0 : Int := max qmin (lg - (p : Int))
    let at_ := fun (q : Int) =>
      let k := e - q
      if 0 ≤ k then (num * 2 ^ k.toNat, den) else (num, den * 2 ^ (-k).toNat)
    let q : Int := let (n, d) := at_ q0; if 2 ^ p ≤ n / d then (let (n, d) := at_ (q0 + 1); if 2 ^ p ≤ n / d then q0 + 2 else q0 + 1) else q0
    let (n, d) := at_ q
    let m := n / d
    let r := 2 * (n % d)
    (if r < d then m else if d < r then m + 1 else m + m % 2, q)

/-- The magnitude bits of a rounded value, without the check for overflow. -/
def Fmt.magBits (f : Fmt) (num den : Nat) (e : Int) : Nat :=
  let (m, q) := roundMag f.p f.qmin num den e
  (q - f.qmin).toNat * 2 ^ (f.p - 1) + m

/-- A real value in the format, rounded to nearest with ties to even; overflow gives an infinity (Table 11-4). -/
def Fmt.enc (f : Fmt) (s : Bool) (num den : Nat) (e : Int) : Nat :=
  min f.infBits (f.magBits num den e) + (if s then f.signBit else 0)

/-- An infinity's pattern. -/
def Fmt.inf (f : Fmt) (s : Bool) : Nat := f.infBits + (if s then f.signBit else 0)

/-- A decoded value in the format. -/
def Fmt.ofFv (f : Fmt) (v : Fv) : Nat :=
  match v with
  | .nan => f.nanBits
  | .inf s => f.inf s
  | .num s m q => f.enc s m 1 q

/-- A conversion between formats (R411). -/
def Fmt.to (f g : Fmt) (b : Nat) : Nat := g.ofFv (f.dec b)

/-- A signed integer times a power of two in the format; zero takes the sign given. -/
def Fmt.ofInt (f : Fmt) (z : Int) (q : Int) (zs : Bool := false) : Nat :=
  if z = 0 then (if zs then f.signBit else 0) else f.enc (decide (z < 0)) z.natAbs 1 q

/-- A finite value as an integer over 2^q, for `q` at most its exponent. -/
def fixAt (s : Bool) (m : Nat) (e q : Int) : Int := (if s then -1 else 1) * ((m * 2 ^ (e - q).toNat : Nat) : Int)

/-- a·b + c with one rounding. -/
def Fmt.fma (f : Fmt) (a b c : Nat) : Nat :=
  match f.dec a, f.dec b, f.dec c with
  | .nan, _, _ => f.nanBits
  | _, .nan, _ => f.nanBits
  | _, _, .nan => f.nanBits
  | .inf s, .num t m _, c =>
    if m = 0 then f.nanBits else match c with
      | .inf u => if u = xor s t then f.inf u else f.nanBits
      | _ => f.inf (xor s t)
  | .num t m _, .inf s, c =>
    if m = 0 then f.nanBits else match c with
      | .inf u => if u = xor s t then f.inf u else f.nanBits
      | _ => f.inf (xor s t)
  | .inf s, .inf t, c => match c with
    | .inf u => if u = xor s t then f.inf u else f.nanBits
    | _ => f.inf (xor s t)
  | .num _ _ _, .num _ _ _, .inf u => f.inf u
  | .num s m q, .num t n r, .num u k x =>
    let e := min (q + r) x
    let p := fixAt (xor s t) (m * n) (q + r) e
    let z := p + fixAt u k x e
    f.ofInt z e (xor s t && u)

/-- a + b. -/
def Fmt.add (f : Fmt) (a b : Nat) : Nat :=
  match f.dec a, f.dec b with
  | .nan, _ => f.nanBits
  | _, .nan => f.nanBits
  | .inf s, .inf t => if s = t then f.inf s else f.nanBits
  | .inf s, _ => f.inf s
  | _, .inf t => f.inf t
  | .num s m q, .num t n r =>
    let e := min q r
    f.ofInt (fixAt s m q e + fixAt t n r e) e (s && t)

/-- The sign flipped; a NaN stays canonical. -/
def Fmt.neg (f : Fmt) (a : Nat) : Nat :=
  match f.dec a with
  | .nan => f.nanBits
  | _ => if f.signBit ≤ a then a - f.signBit else a + f.signBit

/-- a − b. -/
def Fmt.sub (f : Fmt) (a b : Nat) : Nat := f.add a (f.neg b)

/-- a · b. -/
def Fmt.mul (f : Fmt) (a b : Nat) : Nat :=
  match f.dec a, f.dec b with
  | .nan, _ => f.nanBits
  | _, .nan => f.nanBits
  | .inf s, .inf t => f.inf (xor s t)
  | .inf s, .num t m _ => if m = 0 then f.nanBits else f.inf (xor s t)
  | .num s m _, .inf t => if m = 0 then f.nanBits else f.inf (xor s t)
  | .num s m q, .num t n r => f.enc (xor s t) (m * n) 1 (q + r)

/-- a ÷ b. -/
def Fmt.div (f : Fmt) (a b : Nat) : Nat :=
  match f.dec a, f.dec b with
  | .nan, _ => f.nanBits
  | _, .nan => f.nanBits
  | .inf _, .inf _ => f.nanBits
  | .inf s, .num t _ _ => f.inf (xor s t)
  | .num s _ _, .inf t => if xor s t then f.signBit else 0
  | .num s m q, .num t n r =>
    if n = 0 then (if m = 0 then f.nanBits else f.inf (xor s t)) else f.enc (xor s t) m n (q - r)

/-- √a. -/
def Fmt.sqrt (f : Fmt) (a : Nat) : Nat :=
  match f.dec a with
  | .nan => f.nanBits
  | .inf s => if s then f.nanBits else f.infBits
  | .num s m q =>
    if m = 0 then (if s then f.signBit else 0)
    else if s then f.nanBits
    else
      let (m, q) := if q % 2 = 0 then (m, q) else (2 * m, q - 1)
      let n := m * 2 ^ 80
      let r := isqrt 70 n
      f.enc false (2 * r + (if r * r = n then 0 else 1)) 1 (q / 2 - 41)

/-- |a|. -/
def Fmt.abs (f : Fmt) (a : Nat) : Nat := match f.dec a with | .nan => f.nanBits | _ => a % f.signBit

/-- The pattern is a NaN. -/
def Fmt.isNan (f : Fmt) (a : Nat) : Bool := decide (f.infBits < a % f.signBit)

/-- The pattern is finite. -/
def Fmt.isFin (f : Fmt) (a : Nat) : Bool := decide (a % f.signBit < f.infBits)

/-- An order key of a pattern that is not a NaN: the two zeros alike. -/
def Fmt.key (f : Fmt) (a : Nat) : Int := if a < f.signBit then (a : Int) else -((a - f.signBit : Nat) : Int)

/-- a < b; false where either is a NaN. -/
def Fmt.lt (f : Fmt) (a b : Nat) : Bool := !f.isNan a && !f.isNan b && decide (f.key a < f.key b)

/-- a ≤ b; false where either is a NaN. -/
def Fmt.le (f : Fmt) (a b : Nat) : Bool := !f.isNan a && !f.isNan b && decide (f.key a ≤ f.key b)

/-- `n ÷ d` in lowest terms; `d` above 0. -/
def Q.mk' (n : Int) (d : Nat) : Q := let g := Nat.gcd n.natAbs d; ⟨n / (g : Int), d / g⟩

/-- An integer. -/
def Q.ofInt (z : Int) : Q := ⟨z, 1⟩
/-- x + y. -/
def Q.add (x y : Q) : Q := Q.mk' (x.num * y.den + y.num * x.den) (x.den * y.den)
/-- x − y. -/
def Q.sub (x y : Q) : Q := Q.mk' (x.num * y.den - y.num * x.den) (x.den * y.den)
/-- x · y. -/
def Q.mul (x y : Q) : Q := Q.mk' (x.num * y.num) (x.den * y.den)
/-- x ÷ y; 0 where y is 0. -/
def Q.div (x y : Q) : Q := if y.num = 0 then ⟨0, 1⟩ else Q.mk' (x.num * y.den * (if y.num < 0 then -1 else 1)) (x.den * y.num.natAbs)
/-- x ≤ y. -/
def Q.le (x y : Q) : Bool := decide (x.num * y.den ≤ y.num * x.den)
/-- x < y. -/
def Q.lt (x y : Q) : Bool := decide (x.num * y.den < y.num * x.den)
/-- |x|. -/
def Q.abs (x : Q) : Q := ⟨(x.num.natAbs : Int), x.den⟩
/-- The sum of a list. -/
def Q.sum (l : List Q) : Q := l.foldl Q.add ⟨0, 1⟩
/-- x rounded to an integer, ties to even. -/
def Q.round (x : Q) : Int := divEven x.num x.den
/-- x times 2^k. -/
def Q.scale (x : Q) (k : Nat) : Q := Q.mk' (x.num * 2 ^ k) x.den

/-- The exact value of a finite pattern. -/
def Fmt.toQ (f : Fmt) (a : Nat) : Option Q :=
  match f.dec a with
  | .num s m q =>
    let z : Int := if s then -(m : Int) else m
    some (if 0 ≤ q then Q.mk' (z * 2 ^ q.toNat) 1 else Q.mk' z (2 ^ (-q).toNat))
  | _ => none

/-- An FP32 field of some bytes as an exact value; 0 where it is not finite. -/
def q32At (p : List Byte) (off : Nat) : Q := (fp32.toQ (leAt p off 4)).getD ⟨0, 1⟩

/-- A fraction in the format. -/
def Fmt.ofQ (f : Fmt) (x : Q) : Nat := f.enc (decide (x.num < 0)) x.num.natAbs x.den 0

end Sys2Proof.Machine
end

