-- ==== Sys2Proof/Machine/Cards.lean ====
section
/-! DEFINITION. The register cards of the spec: every register's address, its fields, their access types (Table 00-3),
their reset values and the encodings their tables define (R11). Bits no field names are reserved (R10). -/
namespace Sys2Proof.Machine

/-- Field access types (Table 00-3); `bel` is RW for Belfry and read-only to every other initiator. -/
inductive Acc | rw | ro | wo | w1c | rl | bel
  deriving DecidableEq, Repr

/-- One field of a card: its place, its type, its reset value and the ranges of defined values (none listed: all). -/
structure Fld where
  lo : Nat
  w : Nat
  acc : Acc
  rst : Nat
  ok : List (Nat × Nat)
  deriving DecidableEq, Repr

/-- One card: a register, or `count` registers `stride` bytes apart. `own` marks a register whose store is a step of its own. -/
structure Card where
  name : String
  base : Nat
  count : Nat
  stride : Nat
  own : Bool
  flds : List Fld
  deriving DecidableEq, Repr

/-- A read-write field. -/
def rw (lo w : Nat) (rst : Nat := 0) (ok : List (Nat × Nat) := []) : Fld := ⟨lo, w, .rw, rst, ok⟩
/-- A read-only field. -/
def ro (lo w : Nat) (rst : Nat := 0) : Fld := ⟨lo, w, .ro, rst, []⟩
/-- A write-only field. -/
def wo (lo w : Nat) (ok : List (Nat × Nat) := []) : Fld := ⟨lo, w, .wo, 0, ok⟩
/-- A write-one-to-clear field. -/
def w1c (lo w : Nat) (rst : Nat := 0) : Fld := ⟨lo, w, .w1c, rst, []⟩
/-- A lockable read-write field. -/
def rl (lo w : Nat) (rst : Nat := 0) (ok : List (Nat × Nat) := []) : Fld := ⟨lo, w, .rl, rst, ok⟩
/-- A field only Belfry writes. -/
def bel (lo w : Nat) (rst : Nat := 0) (ok : List (Nat × Nat) := []) : Fld := ⟨lo, w, .bel, rst, ok⟩
/-- `n` equal fields of `w` bits, from bit 0 up. -/
def rep (n w : Nat) (f : Nat → Fld) : List Fld := (List.range n).map fun i => f (w * i)
/-- One register. -/
def reg1 (name : String) (base : Nat) (flds : List Fld) (own : Bool := false) : Card := ⟨name, base, 1, 4, own, flds⟩
/-- An array of registers. -/
def regs (name : String) (base count stride : Nat) (flds : List Fld) (own : Bool := false) : Card :=
  ⟨name, base, count, stride, own, flds⟩

/-- Clock and power registers at 0x4000_0000 (02_power_clocks_modes.md, "Register cards"). -/
def cardsSys : List Card :=
  [reg1 "PWR_MODE" 0x40000000 [ro 0 3, wo 4 3 [(0, 1), (3, 3)]] true,
   reg1 "PWR_STATUS" 0x40000004 [w1c 0 1, w1c 1 1, ro 2 2, ro 4 1, w1c 5 1, ro 6 1],
   reg1 "PWR_WAKE_EN" 0x40000008 [rw 0 1 1, rw 1 1, rw 2 4, rw 8 1],
   reg1 "PWR_WAKE_SRC" 0x4000000C [w1c 0 6],
   reg1 "PWR_SCAN" 0x40000010 [rw 0 12 0 [(0, 3600)], rw 16 8 50 [(1, 255)], rw 24 1],
   reg1 "PWR_RET" 0x40000014 [rw 0 8],
   regs "PWR_ENG0-1" 0x40000018 2 4 (rep 16 2 fun l => rw l 2 0 [(0, 2)]) true,
   reg1 "PWR_ENG2" 0x40000020 (rep 4 2 fun l => rw l 2 0 [(0, 2)]) true,
   reg1 "PWR_GRP" 0x40000024 (rep 8 2 fun l => rw l 2) true,
   reg1 "PWR_LINK" 0x40000028 (rep 4 2 fun l => rw l 2 2 [(0, 2)]) true,
   reg1 "PWR_SD" 0x4000002C [rw 0 1, rw 1 1, rw 2 1, bel 3 1, bel 4 1, bel 5 1] true,
   reg1 "PWR_IDLE" 0x40000030 [rw 0 16 100 [(1, 65535)], rw 16 16 1000 [(1, 65535)]]] ++
  [reg1 "PWR_DSTAT0" 0x40000034 [ro 0 32],
   reg1 "PWR_DSTAT1" 0x40000038 [ro 0 32],
   reg1 "PWR_QSUP_LO" 0x40000040 [ro 0 32],
   reg1 "PWR_QSUP_HI" 0x40000044 [ro 0 16],
   reg1 "PWR_QSUP_CTL" 0x40000048 [w1c 0 1 1],
   regs "PWR_LPC0-3" 0x40000050 4 4 [rw 0 1, rw 1 4 0 [(0, 13)], rw 5 1, rw 6 12],
   reg1 "CLK_STATUS" 0x40000100 [ro 0 1, ro 1 1, ro 2 1, ro 3 1, ro 4 1, ro 5 1 1],
   reg1 "CLK_ADC" 0x40000104 [rw 0 10 16 [(16, 640)], rw 16 10 16 [(16, 640)]] true,
   reg1 "CLK_BELMON" 0x40000108 [ro 0 16, ro 16 8]]

/-- Fabric and partition registers at 0x4002_0000 (08_memory_and_fabric.md, "Register cards"). -/
def cardsFab : List Card :=
  [reg1 "FAB_STATUS" 0x40020000 [w1c 0 1, w1c 1 1, w1c 2 1, w1c 3 1],
   reg1 "FAB_ECC_ADDR" 0x40020004 [ro 0 32],
   reg1 "FAB_ECC_CNT" 0x40020008 [ro 0 16, ro 16 16],
   reg1 "FAB_SCRUB" 0x4002000C [rw 0 1 1, rw 16 16 64 [(64, 65535)]],
   reg1 "FAB_CLS" 0x40020010
     [rl 0 2 0 [(0, 2)], rl 2 2 0 [(0, 2)], rl 4 2 0 [(0, 2)], rl 6 2 0 [(0, 2)], rl 8 2 0 [(0, 2)], rl 10 2 2 [(0, 2)],
      rl 12 2 1 [(0, 2)]],
   regs "FAB_BWGgc" 0x40020100 24 4 [rl 0 12 2048 [(0, 2048)], rl 16 16 65535 [(8, 65535)]],
   regs "FAB_BWLpc" 0x40020180 12 4 [rl 0 12 4095, rl 16 16 65535 [(8, 65535)]],
   regs "FAB_BWHOLDc" 0x400201C0 3 4 [ro 0 32]] ++
  [reg1 "PART_CTL" 0x40020800 [rl 0 1],
   reg1 "PART_STATUS" 0x40020804 [w1c 0 1, w1c 1 1, ro 16 16],
   reg1 "PART_VADDR" 0x40020808 [ro 0 32],
   reg1 "PART_VINFO" 0x4002080C [ro 0 32],
   regs "PART_Rr_BASE" 0x40020900 16 0x20 [ro 0 6, rl 6 26] true,
   regs "PART_Rr_LIMIT" 0x40020904 16 0x20 [ro 0 6, rl 6 26] true,
   regs "PART_Rr_MASKLO" 0x40020908 16 0x20 [rl 0 32],
   regs "PART_Rr_MASKHI" 0x4002090C 16 0x20 [rl 0 17],
   regs "PART_Rr_ATTR" 0x40020910 16 0x20 [rl 0 1, rl 1 2 0 [(0, 2)], rl 3 1] true]

/-- The octal xSPI controller at 0x4005_5000 (04_configuration_image.md, "Register cards"). -/
def cardsXspi : List Card :=
  [reg1 "XSPI_STATUS" 0x40055000 [w1c 0 1, ro 1 1, w1c 2 1, w1c 3 1, w1c 4 1, ro 5 1, ro 6 1],
   reg1 "XSPI_BOOT" 0x40055004 [ro 0 32],
   reg1 "XSPI_ADDR" 0x40055008 [rw 0 32],
   reg1 "XSPI_SRAM" 0x4005500C [rw 0 23],
   reg1 "XSPI_LEN" 0x40055010 [rw 0 17 1 [(1, 65536)]],
   reg1 "XSPI_CMD" 0x40055014 [wo 0 3 [(1, 4)]] true,
   reg1 "XSPI_PROT" 0x40055018 [rl 0 1, rl 1 1, rl 31 1]]

/-- Security registers at 0x4006_0000 (20_security.md, "Register cards" and Table 20-6). -/
def cardsSec : List Card :=
  [reg1 "SEC_DEVID" 0x40060000 [ro 0 32 0x482000C1],
   reg1 "SEC_STATUS" 0x40060004 [w1c 0 1, ro 1 1, ro 2 1, ro 3 1, ro 4 1, ro 5 1, ro 6 1, ro 7 1, w1c 8 1],
   regs "SEC_SERIAL0-3" 0x40060010 4 4 [ro 0 32],
   regs "SEC_ROOTk_w" 0x40060040 24 4 [ro 0 32],
   reg1 "SEC_ROOTSTATE" 0x400600A0 [ro 0 32],
   reg1 "SEC_ROLLBACK" 0x400600A4 [ro 0 32],
   reg1 "SEC_REVOKE" 0x400600A8 [wo 0 2 [(0, 2)]] true,
   reg1 "SEC_OTP_ADDR" 0x400600B0 [rw 0 32],
   reg1 "SEC_OTP_DATA" 0x400600B4 [rw 0 32],
   reg1 "SEC_OTP_CMD" 0x400600B8 [wo 0 1, wo 1 1] true] ++
  [regs "SEC_KSLOTk" 0x40060100 16 4 [ro 0 32],
   reg1 "SEC_KCLR" 0x40060140 [wo 0 4] true,
   reg1 "SEC_RNG" 0x40060150 [ro 0 32],
   regs "SEC_LKp_NONCE_OWN_0" 0x40060200 4 0x40 [ro 0 32], regs "SEC_LKp_NONCE_OWN_1" 0x40060204 4 0x40 [ro 0 32],
   regs "SEC_LKp_NONCE_OWN_2" 0x40060208 4 0x40 [ro 0 32], regs "SEC_LKp_NONCE_OWN_3" 0x4006020C 4 0x40 [ro 0 32],
   regs "SEC_LKp_NONCE_PEER_0" 0x40060210 4 0x40 [rw 0 32], regs "SEC_LKp_NONCE_PEER_1" 0x40060214 4 0x40 [rw 0 32],
   regs "SEC_LKp_NONCE_PEER_2" 0x40060218 4 0x40 [rw 0 32], regs "SEC_LKp_NONCE_PEER_3" 0x4006021C 4 0x40 [rw 0 32],
   regs "SEC_LKp_SER_PEER_0" 0x40060220 4 0x40 [rw 0 32], regs "SEC_LKp_SER_PEER_1" 0x40060224 4 0x40 [rw 0 32],
   regs "SEC_LKp_CMD" 0x40060228 4 0x40 [wo 0 32 [(1, 2)]] true,
   regs "SEC_LKp_STAT" 0x4006022C 4 0x40 [ro 0 32],
   reg1 "SEC_GLITCH" 0x40060300 [ro 0 32]]

/-- Safety status registers at 0x4007_0000, and Belfry's private registers (18_belfry.md and 19_safety_mechanisms.md). -/
def cardsSaf : List Card :=
  [reg1 "SAF_STATUS" 0x40070000 [ro 0 32],
   reg1 "SAF_START" 0x40070004 [ro 0 32],
   regs "SAF_VCNTv" 0x40070010 6 4 [ro 0 32],
   reg1 "SAF_LASTBAD" 0x40070030 [ro 0 32],
   reg1 "SAF_ECC" 0x40070034 [ro 0 32],
   reg1 "SAF_HO_RD" 0x40070038 [ro 0 32],
   reg1 "SAF_PROG" 0x4007003C [ro 0 32],
   reg1 "SAF_REACT" 0x40070040 [ro 0 32],
   reg1 "SAF_FRZ" 0x40070044 [ro 0 32],
   reg1 "SAF_STEST" 0x40070048 [ro 0 32 0xFF],
   reg1 "SAF_CANMSG" 0x4007004C [ro 0 32],
   regs "SAF_SUM" 0x40070400 47 4 [ro 0 32]]

/-- Belfry's private registers, which no fabric initiator reaches (R651). -/
def cardsBpr : List Card :=
  [regs "BPR_CHKi" 0x22000000 64 4 [bel 0 32] true,
   reg1 "BPR_CHKCTL" 0x22000100 [bel 0 1, bel 1 2 0 [(0, 2)]],
   reg1 "BPR_TDAC" 0x22000104 [bel 0 12, bel 13 3 0 [(0, 6)]]]

/-- Dump and log registers at 0x4009_0000 (21_faults_and_dumps.md, "Register cards"). -/
def cardsDmp : List Card :=
  [reg1 "DMP_STATUS" 0x40090000 [w1c 0 1, ro 1 1, w1c 2 1, w1c 3 1, w1c 4 1, w1c 5 1],
   reg1 "DMP_CTL" 0x40090004 [wo 0 1, rw 1 1 1] true,
   reg1 "DMP_CAUSE" 0x40090008 [rw 0 32],
   reg1 "DMP_SEQ" 0x4009000C [ro 0 32],
   reg1 "DMP_DISCARD" 0x40090010 [ro 0 32],
   reg1 "DMP_LOGW" 0x40090020 [wo 0 32] true,
   reg1 "DMP_LOGIDX" 0x40090024 [ro 0 32],
   reg1 "DMP_REQ" 0x40090040 [wo 0 3 [(0, 4)], ro 4 2] true,
   reg1 "DMP_REQ_ACK" 0x40090044 [wo 0 2] true,
   reg1 "DMP_STAGE_ADDR" 0x40090048 [rw 0 32],
   reg1 "DMP_STAGE_LEN" 0x4009004C [rw 0 32],
   regs "DMP_LOG" 0x40090100 64 4 [ro 0 32],
   regs "DMP_BLOG" 0x40090400 256 4 [ro 0 32]]

/-- Sense bridge: front end, converters, sequencers (05_sense_front_end.md, 06_converters_and_sequencing.md). -/
def cardsSense : List Card :=
  [reg1 "SFE_STATUS" 0x40010000 [w1c 0 1, ro 1 1, ro 2 1, w1c 3 1, ro 4 1, ro 5 1, ro 6 1, w1c 7 1],
   reg1 "SFE_BAL_CTL" 0x40010004 [rw 0 1, rw 1 1, rw 2 1, rw 8 5 20 [(6, 20)]],
   reg1 "SFE_BAL_CONSENT" 0x40010008 [bel 0 1],
   reg1 "SFE_BAL_PERIOD" 0x4001000C [rw 0 15 20000 [(1250, 20000)]],
   reg1 "SFE_BAL_MODE0" 0x40010010 (rep 16 2 fun l => rw l 2 0 [(0, 2)]),
   reg1 "SFE_BAL_MODE1" 0x40010014 (rep 4 2 fun l => rw l 2 0 [(0, 2)]),
   reg1 "SFE_TDAC" 0x40010018 [rw 0 12, rw 12 1, rw 13 3 0 [(0, 6)]] true,
   reg1 "SFE_D2D_ERR" 0x4001001C [ro 0 16, ro 16 16],
   reg1 "SFE_D2D_CHK" 0x40010020 [ro 0 16, ro 16 16],
   regs "SFE_BAL_DUTYk" 0x40010040 20 4 [rw 0 12] true,
   reg1 "ADC_STATUS" 0x40010100 [w1c 0 1, ro 1 1, w1c 2 1, ro 3 1],
   reg1 "ADC_CALCMD" 0x40010104 [wo 0 5, wo 5 1] true,
   reg1 "ADC_CALCFG" 0x40010108 [rw 0 6 12 [(4, 32)]],
   reg1 "ADC_CALSTAT" 0x4001010C [ro 0 32],
   reg1 "ADC_CALVALID" 0x40010110 [rw 0 4, rw 4 1, rw 5 1, rw 6 1, rw 7 1, ro 8 1],
   regs "ADC_ZOFFm" 0x40010120 4 4 [rw 0 16, rw 16 16]] ++
  [regs "ADCn_CAL0" 0x40010140 4 0x20 [rw 0 16, rw 16 16],
   regs "ADC1,3_CAL1" 0x40010164 2 0x40 [rw 0 16, rw 16 16],
   regs "ADC0,2_CAL1" 0x40010144 2 0x40 [],
   regs "ADC1,3_CAL2" 0x40010168 2 0x40 [rw 0 16],
   regs "ADC0,2_CAL2" 0x40010148 2 0x40 [],
   regs "ADCn_CAL3" 0x4001014C 4 0x20 [rw 0 32], regs "ADCn_CAL4" 0x40010150 4 0x20 [rw 0 32],
   regs "ADCn_CAL5" 0x40010154 4 0x20 [rw 0 32], regs "ADCn_CAL6" 0x40010158 4 0x20 [rw 0 32],
   regs "ADCn_CAL7" 0x4001015C 4 0x20 [rw 0 32],
   regs "ADC_CAL4RO" 0x400101E0 8 4 [ro 0 32],
   reg1 "SEQ_STATUS" 0x40010200 [w1c 0 1, w1c 1 1, w1c 2 1],
   reg1 "SEQ_TMRCTL" 0x40010204 [rw 0 4],
   regs "SEQ_TMRk" 0x40010210 4 4 [rw 0 32 80 [(80, 4294967295)]]] ++
  [regs "SEQn_CTL" 0x40011000 2 0x1000 [rw 0 1, wo 1 1, ro 2 1, ro 3 1, wo 4 1] true,
   regs "SEQn_STATE" 0x40011004 2 0x1000 [ro 0 32],
   regs "SEQn_TRIGEN" 0x40011008 2 0x1000 [rw 0 25],
   regs "SEQn_PENTRY0" 0x4001100C 2 0x1000 [rw 0 32], regs "SEQn_PENTRY1" 0x40011010 2 0x1000 [rw 0 32],
   regs "SEQn_PENTRY2" 0x40011014 2 0x1000 [rw 0 32], regs "SEQn_PENTRY3" 0x40011018 2 0x1000 [rw 0 4],
   regs "SEQn_PWMDLY" 0x4001101C 2 0x1000 [rw 0 16],
   regs "SEQn_SWTRIG" 0x40011020 2 0x1000 [wo 0 1] true,
   regs "SEQn_CNT0" 0x40011024 2 0x1000 [ro 0 16, ro 16 16], regs "SEQn_CNT1" 0x40011028 2 0x1000 [ro 0 16, ro 16 16],
   regs "SEQn_CNT2" 0x4001102C 2 0x1000 [ro 0 16, ro 16 16],
   regs "SEQn_EVT_LO" 0x40011030 2 0x1000 [ro 0 32], regs "SEQn_EVT_HI" 0x40011034 2 0x1000 [ro 0 32],
   regs "SEQ0_BEADS" 0x40011400 544 4 [rw 0 32] true,
   regs "SEQ1_BEADS" 0x40012400 544 4 [rw 0 32] true]

/-- Sense bridge: filter paths, rings and window comparators (07_sample_processing.md). -/
def cardsFlt : List Card :=
  [reg1 "FLT_STATUS" 0x40013F00 [w1c 0 1],
   regs "FLT_CFGp" 0x40013000 8 0x200
     [rw 0 1, rw 1 1, rw 2 3 1 [(1, 5)], rw 5 13 0 [(2, 4096)], rw 18 2 0 [(0, 2)], rw 20 5, rw 25 1, rw 26 1, rw 27 2, rw 29 1] true,
   regs "FLT_CHMASKp_LO" 0x40013004 8 0x200 [rw 0 32],
   regs "FLT_CHMASKp_HI" 0x40013008 8 0x200 [rw 0 7, rw 8 20],
   regs "FLT_NOTCHp" 0x4001300C 8 0x200 [rw 0 16, rw 16 2 0 [(0, 2)], rw 18 4, rw 22 10 0 [(4, 1023)]],
   regs "FLT_FSp" 0x40013010 8 0x200 [rw 0 28],
   regs "FLT_CSETp" 0x40013014 8 0x200 [rw 0 12],
   regs "FLT_STATp" 0x40013018 8 0x200 [ro 0 32],
   regs "FLT_CNTp" 0x4001301C 8 0x200 [ro 0 12, ro 12 12, ro 24 8],
   regs "FLT_OWRp" 0x40013020 8 0x200 [ro 0 8, ro 16 16],
   regs "FLT_ORDp" 0x40013024 8 0x200 [rw 0 8]] ++
  ((List.range 8).map fun p => regs "FLT_COEFp_i" (0x40013080 + 0x200 * p) 32 4 [rw 0 24]) ++
  [regs "FLT_RINGn_BASE" 0x40014800 16 0x10 [ro 0 6, rw 6 17],
   regs "FLT_RINGn_CTL" 0x40014804 16 0x10 [rw 0 1, rw 1 1, rw 4 5 12 [(6, 16)], ro 16 16] true,
   regs "FLT_RINGn_WR" 0x40014808 16 0x10 [ro 0 16],
   regs "FLT_RINGn_RD" 0x4001480C 16 0x10 [rw 0 16],
   regs "WIN_CFGk" 0x40014000 16 0x20 [rw 0 1, rw 1 1, rw 2 3, rw 5 6, rw 11 1, rw 12 1 1, rw 13 4] true,
   regs "WIN_LOk" 0x40014004 16 0x20 [rw 0 32 0x80000000] true,
   regs "WIN_HIk" 0x40014008 16 0x20 [rw 0 32 0x7FFFFFFF] true,
   regs "WIN_HYSk" 0x4001400C 16 0x20 [rw 0 24] true,
   regs "WIN_STATEk" 0x40014010 16 0x20 [ro 0 2, ro 8 6, ro 16 16],
   regs "WIN_LASTk" 0x40014014 16 0x20 [ro 0 32],
   regs "WIN_LASTTk" 0x40014018 16 0x20 [ro 0 32],
   reg1 "WIN_STATUS" 0x40014400 [w1c 0 1, w1c 1 1],
   reg1 "WIN_TRIP" 0x40014404 [w1c 0 16],
   reg1 "WIN_REENT" 0x40014408 [w1c 0 16],
   reg1 "WIN_IRQEN" 0x4001440C [rw 0 32]]

/-- Engine common registers at 0x4003_0000 (09_engine_model.md). -/
def cardsEng : List Card :=
  [reg1 "ENG_STATUS" 0x40030000 [w1c 0 1, w1c 1 1, w1c 2 1, w1c 3 1, w1c 4 1],
   reg1 "ENG_DBFAULT" 0x40030004 [ro 0 32],
   reg1 "ENG_DBFINFO" 0x40030008 [ro 0 16],
   reg1 "ENG_LIMITS" 0x4003000C [rl 0 8 20, rl 8 24 10000 [(1, 16777215)]],
   reg1 "ENG_TWCTL" 0x40030010 [rl 0 1],
   reg1 "ENG_FRAME" 0x40030014 [ro 0 14, ro 16 16],
   reg1 "ENG_LBECC" 0x40030020 [ro 0 16, ro 16 16],
   regs "ENG_QUOTAr" 0x40030040 16 4 [rl 0 6 32 [(0, 32)]],
   regs "ENG_DBe" 0x40030100 36 4 [wo 0 32] true,
   regs "ENG_QSTATe" 0x40030200 36 4 [ro 0 32],
   reg1 "ENG_FLUSH" 0x40030300 [wo 0 6 [(0, 35)], wo 6 3 [(1, 7)]] true,
   reg1 "ENG_CPL0" 0x40030304 [w1c 0 32], reg1 "ENG_CPL1" 0x40030308 [w1c 0 4],
   reg1 "ENG_IRQEN0" 0x4003030C [rw 0 32], reg1 "ENG_IRQEN1" 0x40030310 [rw 0 4],
   regs "ENG_EVTk" 0x40030400 32 4 [rw 0 16] true,
   regs "ENG_TWn_TIME" 0x40030800 32 0x10 [rl 0 14 0 [(0, 9999)], rl 16 14 0 [(1, 10000)]],
   regs "ENG_TWn_CFG" 0x40030804 32 0x10 [rl 0 1, rl 1 3],
   regs "ENG_TWn_EMLO" 0x40030808 32 0x10 [rl 0 32],
   regs "ENG_TWn_EMHI" 0x4003080C 32 0x10 [rl 0 4]]

/-- Henlink registers at 0x4004_0000 (14_henlink.md, 15_manager_operation.md). -/
def cardsHl : List Card :=
  [reg1 "HL_STATUS" 0x40040000 [w1c 0 1, w1c 1 1, w1c 2 1, w1c 3 1, w1c 4 1],
   reg1 "HL_ID" 0x40040004 [rw 0 10, rw 31 1],
   reg1 "HL_CTL" 0x40040008 [rw 0 1 1, rw 1 1 1],
   reg1 "HL_ARB" 0x4004000C [rw 0 8 4 [(1, 255)], rw 8 8 3 [(1, 255)], rw 16 8 1 [(1, 255)]],
   reg1 "HL_TPAR" 0x40040010 [rw 0 3 7 [(0, 3), (7, 7)], rw 4 3 7 [(0, 3), (7, 7)]],
   reg1 "HL_TIME" 0x40040014 [ro 0 32],
   reg1 "HL_DEDUP" 0x40040018 [ro 0 13, ro 16 16],
   reg1 "HL_AGEDROP" 0x4004001C [ro 0 32], reg1 "HL_HOPDROP" 0x40040020 [ro 0 32],
   reg1 "HL_NOROUTE" 0x40040024 [ro 0 32], reg1 "HL_PWRFAIL" 0x40040028 [ro 0 32],
   regs "HL_DISCw" 0x40040040 16 4 [rw 0 32],
   regs "HL_Pp_CTL" 0x40040100 4 0x40 [rw 0 3 7 [(1, 7)], wo 3 1] true,
   regs "HL_Pp_STAT" 0x40040104 4 0x40 [ro 0 32],
   regs "HL_Pp_ERR" 0x40040108 4 0x40 [ro 0 32],
   regs "HL_Pp_ERR2" 0x4004010C 4 0x40 [ro 0 32]] ++
  ((List.range 4).flatMap fun q =>
    [reg1 "HL_MBq_HDR" (0x40040400 + 0x200 * q) [rw 0 4 3 [(1, 1), (3, 3)], rw 4 2, rw 8 8, rw 16 10],
     reg1 "HL_MBq_ADDR" (0x40040404 + 0x200 * q) [rw 0 32],
     reg1 "HL_MBq_GO" (0x40040408 + 0x200 * q) [wo 0 1] true,
     reg1 "HL_MBq_STAT" (0x4004040C + 0x200 * q) [ro 0 2, ro 8 8],
     regs "HL_MBq_DATA" (0x40040500 + 0x200 * q) 64 4 [rw 0 32]]) ++
  [reg1 "HL_EQ_BASE" 0x40040C00 [rw 15 8],
   reg1 "HL_EQ_CTL" 0x40040C04 [rw 0 1] true,
   reg1 "HL_EQ_WR" 0x40040C08 [rw 0 8],
   reg1 "HL_EQ_RD" 0x40040C0C [ro 0 8, ro 16 9],
   regs "HL_RTd" 0x40041000 1024 4 [rw 0 3 7 [(0, 3), (7, 7)], rw 4 3 7 [(0, 3), (7, 7)]]]

/-- The four registers of one interface ring; `tx` says that firmware is the producer (R595, R596). -/
def ringCards (name : String) (base : Nat) (tx : Bool) : List Card :=
  [reg1 (name ++ "_BASE") base [ro 0 6, rw 6 17],
   reg1 (name ++ "_CTL") (base + 4) [rw 0 1, rw 1 4 2 [(2, 10)], rw 8 8 1 [(1, 129)], ro 16 16],
   reg1 (name ++ "_WR") (base + 8) [if tx then rw 0 10 else ro 0 10],
   reg1 (name ++ "_RD") (base + 12) [if tx then ro 0 10 else rw 0 10]]

/-- One CAN controller; `xl` marks CAN0, which alone has CAN XL (16_vehicle_interfaces.md, "Register cards"). -/
def canCards (b : Nat) (xl : Bool) : List Card :=
  [reg1 "CANn_STATUS" b [w1c 0 1, ro 1 1, ro 2 1, ro 3 1, w1c 4 1, w1c 5 1],
   reg1 "CANn_CTL" (b + 4)
     ([rw 0 3 0 [(0, 4)], rw 3 1 1, rw 4 1] ++ if xl then [rw 5 1, rw 6 1] else []) true,
   regs "CANn_NBT,DBT" (b + 8) 2 4 [rw 0 10, rw 10 8, rw 18 7, rw 25 7],
   reg1 "CANn_XBT" (b + 16) (if xl then [rw 0 10, rw 10 8, rw 18 7, rw 25 7] else []),
   reg1 "CANn_TDC" (b + 20) [rw 0 8, rw 8 1],
   reg1 "CANn_CNT" (b + 24) [ro 0 8, ro 8 8, ro 16 16]] ++
  ringCards "CANn_TX" (b + 0x40) true ++ ringCards "CANn_RX0" (b + 0x50) false ++ ringCards "CANn_RX1" (b + 0x60) false ++
  [regs "CANn_FLTf_ID" (b + 0x100) 32 8 [rw 0 32],
   regs "CANn_FLTf_MASK" (b + 0x104) 32 8 [rw 0 29, rw 29 1, rw 31 1],
   regs "CANn_SAFE" (b + 0x200) 20 4 [bel 0 32],
   reg1 "CANn_SAFE_CTL" (b + 0x250) [wo 0 1, w1c 1 1] true]

/-- The T1S or ETH controller; the two share one layout. -/
def macCards (b : Nat) (eth : Bool) : List Card :=
  [reg1 "MAC_STATUS" b ([w1c 0 1, ro 1 1, w1c 4 1, w1c 5 1] ++ if eth then [ro 2 2] else []),
   reg1 "MAC_CTL" (b + 4) (rw 0 1 :: ((if eth then [] else [rw 1 1]) ++ [rw 2 1]))] ++
  (if eth then [] else [reg1 "T1S_PLCA" (b + 8) [rw 0 8, rw 8 8 8, rw 16 8 32, rw 24 8]]) ++
  [reg1 "MAC_MACLO" (b + 12) [rw 0 32],
   reg1 "MAC_MACHI" (b + 16) [rw 0 16],
   reg1 "MAC_TSLAT" (b + 20) [rw 0 16, rw 16 16],
   reg1 "MAC_ERR" (b + 24) [ro 0 16, ro 16 16],
   regs "MAC_FLTk_LO" (b + 0x20) 4 8 [rw 0 32], regs "MAC_FLTk_HI" (b + 0x24) 4 8 [rw 0 16, rw 31 1]] ++
  ringCards "MAC_TX0" (b + 0x40) true ++ ringCards "MAC_RX0" (b + 0x50) false ++ ringCards "MAC_RX1" (b + 0x60) false ++
  (if eth then ringCards "ETH_TX1" (b + 0x70) true ++
    [reg1 "ETH_MDIO" (b + 0x80) [wo 0 5, wo 5 5, wo 10 1, wo 11 1, wo 16 16] true,
     reg1 "ETH_MDIO_STAT" (b + 0x84) [ro 0 1, ro 16 16]] else [])

/-- One TDM port. -/
def tdmCards (b : Nat) : List Card :=
  [reg1 "TDMn_CTL" b [rw 0 1, rw 1 1, rw 2 1, rw 3 4 15 [(1, 15)], rw 7 1, rw 8 1],
   reg1 "TDMn_SLOTEN" (b + 4) [rw 0 16, rw 16 16],
   reg1 "TDMn_STATUS" (b + 8) [w1c 0 1, w1c 1 1, w1c 5 1, ro 16 16],
   reg1 "TDMn_FCNT" (b + 12) [ro 0 32],
   reg1 "TDMn_FSTAMP" (b + 16) [ro 0 32]] ++
  ringCards "TDMn_TX" (b + 0x40) true ++ ringCards "TDMn_RX" (b + 0x50) false

/-- I3C and GPIO at 0x4005_6000 and 0x4005_7000. -/
def cardsI3c : List Card :=
  [reg1 "I3C_CTL" 0x40056000 [rw 0 1, rw 1 1, rw 2 2 0 [(0, 2)]],
   reg1 "I3C_CMD" 0x40056004 [wo 0 7, wo 7 1, wo 8 5, wo 13 1, wo 14 1, wo 16 8] true,
   reg1 "I3C_STAT" 0x40056008 [ro 0 1, w1c 1 1, w1c 2 1, w1c 3 1, w1c 4 1],
   regs "I3C_DATA" 0x40056020 8 4 [rw 0 32],
   reg1 "GPIO_DIR" 0x40057000 [rw 0 24],
   reg1 "GPIO_OUT" 0x40057004 [rw 0 24],
   reg1 "GPIO_IN" 0x40057008 [ro 0 24]]

/-- Pack time at 0x4008_0000. -/
def cardsPtm : List Card :=
  [reg1 "PTM_NS_LO" 0x40080000 [ro 0 32],
   reg1 "PTM_NS_HI" 0x40080004 [ro 0 32],
   reg1 "PTM_US" 0x40080008 [ro 0 32],
   reg1 "PTM_RATE" 0x4008000C [rw 0 24 0 [(0, 200000), (16577216, 16777215)]],
   reg1 "PTM_STEP_LO" 0x40080010 [rw 0 32],
   reg1 "PTM_STEP_HI" 0x40080014 [rw 0 32],
   reg1 "PTM_CTL" 0x40080018 [wo 0 1] true,
   reg1 "PTM_STATUS" 0x4008001C [w1c 0 1, w1c 1 1, w1c 2 1, ro 3 1]]

/-- The cards of the area that holds address `a`. -/
def cardsAt (a : Nat) : List Card :=
  match a / 0x10000 with
  | 0x4000 => cardsSys
  | 0x4001 => if a < 0x40013000 then cardsSense else cardsFlt
  | 0x4002 => cardsFab
  | 0x4003 => cardsEng
  | 0x4004 => cardsHl
  | 0x4005 =>
    match a / 0x1000 with
    | 0x40050 => canCards 0x40050000 true
    | 0x40051 => canCards 0x40051000 false
    | 0x40052 => macCards 0x40052000 false
    | 0x40053 => macCards 0x40053000 true
    | 0x40054 => if a < 0x40054800 then tdmCards 0x40054000 else tdmCards 0x40054800
    | 0x40055 => cardsXspi
    | _ => cardsI3c
  | 0x4006 => cardsSec
  | 0x4007 => cardsSaf
  | 0x4008 => cardsPtm
  | 0x4009 => cardsDmp
  | 0x2200 => cardsBpr
  | _ => []

/-- Whether card `c` names the register at `a`. -/
def Card.hits (c : Card) (a : Nat) : Bool :=
  decide (c.base ≤ a) && decide (a < c.base + c.count * c.stride) && decide ((a - c.base) % c.stride = 0)

/-- The card of the register at `a`; none where no card names that offset (R291). -/
def cardOf (a : Nat) : Option Card := (cardsAt a).find? (·.hits a)

/-- A card's reset value. -/
def Card.reset (c : Card) : Word := BitVec.ofNat 32 (c.flds.foldl (fun n f => n + f.rst * 2 ^ f.lo) 0)

/-- The reset value of the register at `a`; 0 where there is none. -/
def regReset (a : Nat) : Word :=
  match cardOf a with
  | some c => c.reset
  | none => 0

/-- Whether `x` is a defined value of the field (R11). -/
def Fld.defined (f : Fld) (x : Nat) : Bool := f.ok.isEmpty || f.ok.any fun r => decide (r.1 ≤ x) && decide (x ≤ r.2)

end Sys2Proof.Machine
end

