-- ==== Sys2Proof/Machine/Crypto.lean ====
section
/-! DEFINITION. The standard algorithms the spec names but does not spell out: SHA-256, HMAC-SHA-256 with the counter-mode
key derivation of R722, AES-256-GCM (R118, R723, R727) and ECDSA P-256 verification (R119). Their inner workings come
from the public standards (PRESUMED, log entry 3); the spec fixes what they are applied to. -/
namespace Sys2Proof.Machine

/-- The SHA-256 round constants. -/
def shaK : List Word :=
  [0x428a2f98, 0x71374491, 0xb5c0fbcf, 0xe9b5dba5, 0x3956c25b, 0x59f111f1, 0x923f82a4, 0xab1c5ed5,
   0xd807aa98, 0x12835b01, 0x243185be, 0x550c7dc3, 0x72be5d74, 0x80deb1fe, 0x9bdc06a7, 0xc19bf174,
   0xe49b69c1, 0xefbe4786, 0x0fc19dc6, 0x240ca1cc, 0x2de92c6f, 0x4a7484aa, 0x5cb0a9dc, 0x76f988da,
   0x983e5152, 0xa831c66d, 0xb00327c8, 0xbf597fc7, 0xc6e00bf3, 0xd5a79147, 0x06ca6351, 0x14292967] ++
  [0x27b70a85, 0x2e1b2138, 0x4d2c6dfc, 0x53380d13, 0x650a7354, 0x766a0abb, 0x81c2c92e, 0x92722c85,
   0xa2bfe8a1, 0xa81a664b, 0xc24b8b70, 0xc76c51a3, 0xd192e819, 0xd6990624, 0xf40e3585, 0x106aa070,
   0x19a4c116, 0x1e376c08, 0x2748774c, 0x34b0bcb5, 0x391c0cb3, 0x4ed8aa4a, 0x5b9cca4f, 0x682e6ff3,
   0x748f82ee, 0x78a5636f, 0x84c87814, 0x8cc70208, 0x90befffa, 0xa4506ceb, 0xbef9a3f7, 0xc67178f2]

/-- The SHA-256 initial hash value. -/
def shaIV : List Word :=
  [0x6a09e667, 0xbb67ae85, 0x3c6ef372, 0xa54ff53a, 0x510e527f, 0x9b05688c, 0x1f83d9ab, 0x5be0cd19]

/-- The message schedule, grown one word at a time; the list runs newest first. -/
def shaSched : Nat → List Word → List Word
  | 0, w => w.reverse
  | k + 1, w =>
    let a := nth w 14 0
    let b := nth w 1 0
    let s0 := a.rotateRight 7 ^^^ a.rotateRight 18 ^^^ (a >>> 3)
    let s1 := b.rotateRight 17 ^^^ b.rotateRight 19 ^^^ (b >>> 10)
    shaSched k ((nth w 15 0 + s0 + nth w 6 0 + s1) :: w)

/-- One SHA-256 round on the working variables a to h. -/
def shaRound (v : List Word) (kw : Word × Word) : List Word :=
  match v with
  | [a, b, c, d, e, f, g, h] =>
    let s1 := e.rotateRight 6 ^^^ e.rotateRight 11 ^^^ e.rotateRight 25
    let ch := (e &&& f) ^^^ (~~~ e &&& g)
    let t1 := h + s1 + ch + kw.1 + kw.2
    let s0 := a.rotateRight 2 ^^^ a.rotateRight 13 ^^^ a.rotateRight 22
    let mj := (a &&& b) ^^^ (a &&& c) ^^^ (b &&& c)
    [t1 + (s0 + mj), a, b, c, d + t1, e, f, g]
  | _ => v

/-- The big-endian 32-bit words of a byte list. -/
def beWords : Nat → List Byte → List Word
  | 0, _ => []
  | k + 1, bs => BitVec.ofNat 32 (beNat (bs.take 4)) :: beWords k (bs.drop 4)

/-- One 64-byte block. -/
def shaBlock (h : List Word) (blk : List Byte) : List Word :=
  let w := shaSched 48 (beWords 16 blk).reverse
  List.zipWith (· + ·) h ((List.zip shaK w).foldl shaRound h)

/-- All blocks of a padded message. -/
def shaBlocks : Nat → List Word → List Byte → List Word
  | 0, h, _ => h
  | k + 1, h, bs => shaBlocks k (shaBlock h (bs.take 64)) (bs.drop 64)

/-- SHA-256 of a message, 32 bytes. -/
def sha256 (m : List Byte) : List Byte :=
  let z := (119 - m.length % 64) % 64
  let p := m ++ (0x80 : Byte) :: (List.replicate z (0 : Byte) ++ beBytes 8 (m.length * 8))
  (shaBlocks (p.length / 64) shaIV p).flatMap fun w => beBytes 4 w.toNat

/-- HMAC-SHA-256. -/
def hmac (key m : List Byte) : List Byte :=
  let k := padTo 64 (if key.length ≤ 64 then key else sha256 key)
  sha256 (k.map (· ^^^ 0x5C) ++ sha256 (k.map (· ^^^ 0x36) ++ m))

/-- The key derivation of R722: counter mode, 32-bit big-endian counter and length, outputs joined and cut to `bits`. -/
def kdf (kin label ctx : List Byte) (bits : Nat) : List Byte :=
  ((List.range ((bits + 255) / 256)).flatMap fun i =>
    hmac kin (beBytes 4 (i + 1) ++ label ++ (0 : Byte) :: (ctx ++ beBytes 4 bits))).take (bits / 8)

/-- The bytes of an ASCII label. -/
def ascii (s : String) : List Byte := s.toList.map fun c => BitVec.ofNat 8 c.toNat

/-- Doubling in GF(2^8) modulo x^8+x^4+x^3+x+1. -/
def xtime (n : Nat) : Nat := if 128 ≤ n then (2 * n % 256) ^^^ 0x1B else 2 * n

/-- Product in GF(2^8). -/
def gmul : Nat → Nat → Nat → Nat
  | 0, _, _ => 0
  | k + 1, a, b => (if b % 2 = 1 then a else 0) ^^^ gmul k (xtime a) (b / 2)

/-- `a` to the power 254 in GF(2^8): the inverse, with 0 for 0. -/
def ginv (a : Nat) : Nat :=
  let m := gmul 8
  let a2 := m a a
  let a3 := m a2 a
  let a6 := m a3 a3
  let a12 := m a6 a6
  let a15 := m a12 a3
  let a30 := m a15 a15
  let a60 := m a30 a30
  let a120 := m a60 a60
  let a126 := m a120 a6
  let a127 := m a126 a
  m a127 a127

/-- The AES S-box. -/
def sbox (b : Byte) : Byte :=
  let i : Byte := BitVec.ofNat 8 (ginv b.toNat)
  i ^^^ i.rotateLeft 1 ^^^ i.rotateLeft 2 ^^^ i.rotateLeft 3 ^^^ i.rotateLeft 4 ^^^ 0x63

/-- The AES-256 key schedule, one 4-byte word at a time, newest first. -/
def aesSched : Nat → Nat → Nat → List (List Byte) → List (List Byte)
  | 0, _, _, w => w.reverse
  | k + 1, i, rc, w =>
    let t := nth w 0 []
    let t' := if i % 8 = 0 then
        match t with
        | [a, b, c, d] => [sbox b ^^^ BitVec.ofNat 8 rc, sbox c, sbox d, sbox a]
        | _ => t
      else if i % 8 = 4 then t.map sbox else t
    aesSched k (i + 1) (if i % 8 = 0 then xtime rc else rc) (List.zipWith (· ^^^ ·) (nth w 7 []) t' :: w)

/-- The 60 round-key words of a 256-bit key. -/
def aesKeys (key : List Byte) : List (List Byte) :=
  aesSched 52 8 1 ((List.range 8).map fun i => slice key (4 * i) 4).reverse

/-- Row shift of a 16-byte column-major state. -/
def aesShift (s : List Byte) : List Byte := (List.range 16).map fun i => nth s ((i + 4 * (i % 4)) % 16) 0

/-- Column mix of one column. -/
def aesMix (s : List Byte) (c : Nat) : List Byte :=
  (List.range 4).map fun r =>
    let g k := (nth s (4 * c + (r + k) % 4) 0).toNat
    BitVec.ofNat 8 (xtime (g 0) ^^^ (xtime (g 1) ^^^ g 1) ^^^ g 2 ^^^ g 3)

/-- AES-256 encryption of one block. -/
def aesEnc (key blk : List Byte) : List Byte :=
  let ks := aesKeys key
  let rk r := (slice' ks (4 * r)).flatten
  let add (s : List Byte) r := List.zipWith (· ^^^ ·) s (rk r)
  let body := (List.range 13).foldl (fun s r =>
    let t := aesShift (s.map sbox)
    add ((List.range 4).flatMap (aesMix t)) (r + 1)) (add blk 0)
  add (aesShift (body.map sbox)) 14
where
  /-- Four consecutive round-key words. -/
  slice' (l : List (List Byte)) (i : Nat) : List (List Byte) := (l.drop i).take 4

/-- Product in GF(2^128) of GCM; bit 127 of a number is the field's first bit. -/
def ghMul : Nat → Nat → Nat → Nat
  | 0, _, _ => 0
  | k + 1, x, v =>
    (if x.testBit k then v else 0) ^^^
      ghMul k x (if v % 2 = 1 then v / 2 ^^^ 0xE1000000000000000000000000000000 else v / 2)

/-- GHASH of whole 16-byte blocks. -/
def ghash (h : Nat) : Nat → Nat → List Byte → Nat
  | 0, y, _ => y
  | k + 1, y, bs => ghash h k (ghMul 128 (y ^^^ beNat (padTo 16 bs)) h) (bs.drop 16)

/-- Zero fill of a byte string to whole 16-byte blocks. -/
def pad16 (bs : List Byte) : List Byte := bs ++ List.replicate ((16 - bs.length % 16) % 16) 0

/-- The GCM counter-mode stream applied to `m`, from counter block number `c`. -/
def gcmCtr (key iv : List Byte) : Nat → Nat → List Byte → List Byte
  | 0, _, _ => []
  | k + 1, c, m =>
    List.zipWith (· ^^^ ·) (m.take 16) (aesEnc key (iv ++ beBytes 4 c)) ++ gcmCtr key iv k (c + 1) (m.drop 16)

/-- AES-256-GCM under a 96-bit IV: counter-mode output of `m`. -/
def gcmCrypt (key iv m : List Byte) : List Byte := gcmCtr key iv ((m.length + 15) / 16) 2 m

/-- The AES-256-GCM tag over additional data and ciphertext. -/
def gcmTag (key iv aad ct : List Byte) : List Byte :=
  let h := beNat (aesEnc key (List.replicate 16 0))
  let b := pad16 aad ++ pad16 ct ++ beBytes 8 (aad.length * 8) ++ beBytes 8 (ct.length * 8)
  List.zipWith (· ^^^ ·) (beBytes 16 (ghash h (b.length / 16) 0 b)) (aesEnc key (iv ++ beBytes 4 1))

/-- The P-256 field prime. -/
def p256P : Nat := 0xffffffff00000001000000000000000000000000ffffffffffffffffffffffff
/-- The P-256 group order. -/
def p256N : Nat := 0xffffffff00000000ffffffffffffffffbce6faada7179e84f3b9cac2fc632551
/-- The P-256 curve coefficient b. -/
def p256B : Nat := 0x5ac635d8aa3a93e7b3ebbd55769886bc651d06b0cc53b0f63bce3c3e27d2604b
/-- The P-256 base point. -/
def p256G : Nat × Nat :=
  (0x6b17d1f2e12c4247f8bce6e563a440f277037d812deb33a0f4a13945d898c296,
   0x4fe342e2fe1a7f9b8ee7eb4a7c0f9e162bce33576b315ececbb6406837bf51f5)

/-- `a^e` modulo `m`, by squaring over `k` exponent bits. -/
def powMod (m : Nat) : Nat → Nat → Nat → Nat
  | 0, _, _ => 1 % m
  | k + 1, a, e => (if e % 2 = 1 then a else 1) * powMod m k (a * a % m) (e / 2) % m

/-- The inverse modulo a 256-bit prime. -/
def invMod (m a : Nat) : Nat := powMod m 256 (a % m) (m - 2)

/-- Point addition on P-256; none is the point at infinity. -/
def p256Add : Option (Nat × Nat) → Option (Nat × Nat) → Option (Nat × Nat)
  | none, q => q
  | p, none => p
  | some (x1, y1), some (x2, y2) =>
    if x1 = x2 ∧ (y1 + y2) % p256P = 0 then none
    else
      let l := if x1 = x2 then (3 * x1 * x1 + (p256P - 3)) * invMod p256P (2 * y1) % p256P
        else (y2 + p256P - y1) * invMod p256P (x2 + p256P - x1) % p256P
      let x3 := (l * l + 2 * p256P - x1 - x2) % p256P
      some (x3, (l * (x1 + p256P - x3) + p256P - y1) % p256P)

/-- Scalar multiple over `k` bits. -/
def p256Mul : Nat → Nat → Option (Nat × Nat) → Option (Nat × Nat)
  | 0, _, _ => none
  | k + 1, e, p => p256Add (if e % 2 = 1 then p else none) (p256Mul k (e / 2) (p256Add p p))

/-- ECDSA P-256 verification of a 32-byte digest under the 64-byte key X, Y and signature r, s, all big-endian (R119, R120). -/
def ecdsaOk (digest key sig : List Byte) : Bool :=
  let x := beNat (slice key 0 32)
  let y := beNat (slice key 32 32)
  let r := beNat (slice sig 0 32)
  let s := beNat (slice sig 32 32)
  let onCurve := decide (x < p256P) && decide (y < p256P) &&
    decide (y * y % p256P = (x * x * x + (p256P - 3) * x + p256B) % p256P)
  let inRange := decide (0 < r) && decide (r < p256N) && decide (0 < s) && decide (s < p256N)
  let w := invMod p256N s
  let u1 := beNat digest * w % p256N
  let u2 := r * w % p256N
  onCurve && inRange &&
    match p256Add (p256Mul 256 u1 (some p256G)) (p256Mul 256 u2 (some (x, y))) with
    | none => false
    | some (px, _) => decide (px % p256N = r)

end Sys2Proof.Machine
end

