-- ==== Sys2Proof/Config.lean ====
section
/-! DEFINITION. What one implementation fixes and the spec leaves open: free values. Each is an opaque constant with no
body, applied to the fresh counter of State (or to operands), so nothing can be proved about the value it gives. -/
namespace Sys2Proof.Config

/-- Random numbers of the security block's generator (20_security.md: SEC_RNG, R729, R736); DESIGN CHOICE, log entry 4. -/
opaque rngByte : Nat → BitVec 8

/-- A byte whose value the spec leaves open after a command that goes on; DESIGN CHOICE, log entry 4. -/
opaque freeByte : Nat → BitVec 8

/-- A 32-bit value the spec leaves open after a command that goes on; DESIGN CHOICE, log entry 4. -/
opaque freeWord : Nat → BitVec 32

/-- An outcome the spec leaves open between two effects (R794: an error of three or more bits); DESIGN CHOICE, log entry 4. -/
opaque freeChoice : Nat → Nat

/-- What the unit that evaluates a nonlinearity (0 sigmoid, 1 tanh, 2 exp, 3 rsqrt) gives for an FP32 input: used only where it lies
within the bound of Table 10-5 (R367); DESIGN CHOICE, log entry 10. -/
opaque nonlinear : Nat → Nat → BitVec 32

/-- What a transform unit gives for output `i` (real part 2i, imaginary part 2i + 1) of a frame of FP32 values: used only where it
lies within the bound of R385; DESIGN CHOICE, log entry 10. -/
opaque transform : List Nat → Nat → BitVec 32

/-- New state element of a learned model: its SQE opcode, its weights or gate pre-activations, its input and its state, and the
element's index (10_engine_catalogue.md gives no cell equations); DESIGN CHOICE, log entry 11. -/
opaque cellState : Nat → List Nat → List Nat → List Nat → Nat → BitVec 16

/-- Byte of a cell's trace (R373 gives no layout), from the same operands; DESIGN CHOICE, log entry 11. -/
opaque cellTrace : Nat → List Nat → List Nat → List Nat → Nat → BitVec 8

/-- Gradient element of BPTT before encoding, FP32, from the bytes it is computed from (R453 rests on the cell equations); DESIGN CHOICE, log
entry 11. -/
opaque gradient : List (BitVec 8) → Nat → BitVec 32

/-- A value an operation's rule does not state for these operands (a code for the operation, its operands as FP32 patterns); DESIGN CHOICE, log
entry 12. -/
opaque openValue : Nat → List Nat → BitVec 32

/-- The image's conversion of a thermistor's filter output (its channel code and VALUE) to °C in FP16 (R479); DESIGN CHOICE, log entry 20. -/
opaque thermistor : Nat → Int → BitVec 16

end Sys2Proof.Config
end

