-- ==== Sys2Proof/Machine/State.lean ====
section
/-! DEFINITION. The whole state of the block, and its state right after reset. Every register is held in one sparse file
keyed by its address (Chip.regs); what no register shows is held beside it in named parts. -/
namespace Sys2Proof.Machine

/-- Why a step would stop with a fault: the spec gives every command of this block an effect or leaves it without effect, and
an access to an address that does not exist ends in a bus error with no further effect (R291). There is no such reason. -/
inductive Fault
  deriving DecidableEq, Repr

/-- Why a command has no meaning here. -/
inductive Refusal
  /-- Raised by an arm of exec whose command has no meaning yet; it stops a run where the block would go on, which is safe. -/
  | notModelled (mnemonic : String)
  deriving DecidableEq, Repr

/-- Everything the block loses or changes in operation; the NVM, the OTP and the queue stand beside it in State. -/
structure Chip where
  /-- Register values that differ from their card's reset value, addresses rising. -/
  regs : List (Nat × Word)
  /-- R11: values the blocks still act on where a reserved encoding was written, addresses rising. -/
  acts : List (Nat × Word)
  /-- Shared SRAM under its interleaved addresses, engine-local buffers, Belfry and steward SRAM; unlisted bytes read 0. -/
  mem : List Host.Cell
  /-- Stored words that hold bit errors, by word address. -/
  ecc : List (Nat × EccErr)
  /-- Accesses that wait for a group to leave retention or to be filled (R61, R63), oldest first. -/
  stalled : List Access
  /-- LR reservations of the steward cores: port and word address (R297). -/
  resv : List (Nat × Nat)
  /-- The round-robin pointers P_A, P_B, P_C of each bank (R311). -/
  bankPtr : List (List Nat)
  /-- Each bank's last grant: port, class and beats. -/
  bankGrant : List (Option (Nat × Nat × Nat))
  /-- The next word the scrubber reads (R301). -/
  scrub : Nat
  power : Power
  clocks : Clocks
  pins : Pins
  /-- What the last access returned to its initiator. -/
  bus : BusResp
  log : LogSt
  dump : Dump
  sec : Sec
  boot : Boot
  /-- The XSPI command in progress (R151). -/
  xspi : Option XCmd
  safe : Safe
  bel : Bel
  can : List Can
  sense : Sense
  /-- The 36 engines, in the order of Table 02-3. -/
  eng : List Engine
  /-- ZLE0 and ZLE1. -/
  zle : List Zle
  hl : Henlink
  vif : Vif
  fw : Fw
  mgr : Mgr
  /-- The model's own counter of free values drawn so far (DESIGN CHOICE, log entry 4). -/
  fresh : Nat
  deriving DecidableEq, Repr

/-- The state of the block. -/
structure State where
  /-- The commands that wait, first in first out. -/
  pending : List Instr
  chip : Chip
  /-- The xSPI NOR device; unlisted bytes read 0xFF, the erased value. -/
  nvm : List Host.Cell
  /-- The two copies of the OTP (Table 20-2). -/
  otpA : OtpCopy
  otpB : OtpCopy
  deriving DecidableEq, Repr

/-- An unprogrammed OTP copy: programming goes from 0 to 1 only. -/
def blankOtp : OtpCopy :=
  { serial := List.replicate 16 0, secret := List.replicate 32 0, fleet := List.replicate 32 0,
    root := List.replicate 3 (List.replicate 32 0), rootState := 0, rollback := 0, lifecycle := 0 }

/-- A stopped sequencer (06, after a reset). -/
def Seq.fresh : Seq :=
  { phase := .stopped, bead := 0, inPend := false, start := 0, due := none, runs := [], nextId := 0, launching := none, queue := []
    resume := .none, stopping := false, calHold := false, raised := [], pwm := [], evt := [], stage := [], cut := false, beadLow := []
    ow := [], gain := 0, gainAt := [] }

/-- A die-to-die link before its first frame. -/
def D2d.fresh : D2d :=
  { tx := 0, wire := [], lastCnt := none, accepted := 0, repeated := false, consec := 0, frozen := false, codes := []
    codeChan := none, drops := [], lastAt := 0, thawNs := none }

/-- The sense die after a reset (Table 03-1): sequencers stopped, paths empty, comparators INERT, no CAL, gates low. -/
def Sense.fresh : Sense :=
  { seqs := List.replicate 2 Seq.fresh, flts := List.replicate 8 ⟨[], []⟩, wins := List.replicate 16 ⟨0, 0, 0⟩
    cal := ⟨[], false, false⟩
    bal := { period := 20000, duty := List.replicate 20 0, stagger := false, on := List.replicate 20 false
             barred := List.replicate 20 false }
    main := D2d.fresh, check := D2d.fresh, chk := ⟨0, 0, [], 0⟩, turn := 1, bridge := []
    refaSet := 0, refaClr := 0, refbSet := 0, refbClr := 0, tdac := 0 }

/-- Belfry before its program (18_belfry.md). -/
def Bel.fresh : Bel :=
  { prog := [], romNs := 0, chem := none, cells := List.replicate 20 ⟨[], none⟩, isns := [], lastClk := none, gap := false
    stale := false, clk := 0, tot := ⟨0, 1⟩, qB := ⟨0, 1⟩, qAbs := ⟨0, 1⟩, qGap := ⟨0, 1⟩, tA := ⟨0, 1⟩, quiet := none
    anchored := none, rested := false, temp := none, warm := [], prev := [], sumTot := none }

/-- A ZLE with no tone set and its accumulators at zero. -/
def Zle.fresh : Zle :=
  { tones := [], offset := 0, left := none, next := none, stopDue := false, lastSd := 0, clamps := 0, counts := List.replicate 21 0
    ignored := 0, accs := [] }

/-- A Henlink port that has never trained. -/
def HlPort.fresh : HlPort :=
  { mask := 7, gen := 0, txSeq := 0, rxSeq := 0, replay := [], replays := 0, skipping := false, unacked := 0, queue := []
    credits := [0, 0, 0, 0], seen := [0, 0, 0, 0], freed := [0, 0, 0, 0], turn := 1, given := false, deficit := [0, 0, 0, 0]
    srcTurn := [0, 0, 0, 0], sent := [] }

/-- Henlink after a reset: ports OFF, no transaction, an empty duplicate-suppression table (R546). -/
def Henlink.fresh : Henlink :=
  { ports := List.replicate 4 HlPort.fresh, xacts := [], held := [], dedup := [], inbox := [], accept := false, originate := false
    t1 := none, good := 0, bad := 0, eqSent := [] }

/-- The vehicle interfaces after a reset: nothing sent, nothing in progress. -/
def Vif.fresh : Vif :=
  { sent := List.replicate 4 [], mdio := none, tdm := List.replicate 2 ⟨[], 0, none⟩, i3c := none, i3cOut := [] }

/-- No firmware runs. -/
def Fw.fresh : Fw :=
  { conf := none, tag := [], tagStat := 1, chem := 0, series := 0, started := false, bound := none, seq := 0, reinit := [], retrain := []
    late := [], badModels := [], due := none, vecSeq := [], resync := [], taken := [], released := [], out := [], copies := []
    pushes := [], term := 0, active := none, standby := none, committed := none, sched := none, buddy := none, heard := [], said := []
    blocks := [], lastFrame := [], lastSeq := [], lastBlock := none }

/-- No manager duties. -/
def Mgr.fresh : Mgr :=
  { state := .none, term := 0, devs := [], cells := [], copies := [], sched := 0, standby := none, snap := none, buf := 0, lost := 0, committed := none
    prepared := none, adopted := none, pair := 0, walks := [], moves := [], seen := []
    checks := [], again := [] }

/-- The chip right after a power-on reset (Table 03-1, Table 03-2 step 1): every register at its card's reset value, RTC and
pack time 0, every SRAM group OFF, EN_CORE raised, FAULT_N asserted, PULSE low, and POWER_ON as the log's first entry (R749). -/
def Chip.reset : Chip :=
  { regs := []
    acts := []
    mem := []
    ecc := []
    stalled := []
    resv := []
    bankPtr := List.replicate 16 [0, 0, 0]
    bankGrant := List.replicate 16 none
    scrub := 0
    power :=
      { mode := .start, kind := .cold, supply := true, inReset := false, rails := false, qualWarm := false
        grp := List.replicate 8 .off, grpHold := true, scanAt := none, restAt := 0, scanWokeAt := 0
        lpc := List.replicate 4 ⟨false, true⟩, belBad := 0, qsup := 0, watchRtc := 0 }
    clocks :=
      { rtc := 0, rtcPhase := 0, packNs := 0, packFrac := 0, sd := 0, sdHalf := false
        tokens := List.replicate 24 (65535 * 1024) ++ List.replicate 12 (65535 * 1024) }
    pins := { faultN := false, pulse := false, enCore := true, wakeOut := 0, bal := List.replicate 20 false, tdac := none }
    bus := ⟨[], false⟩
    log := { buf := [⟨0, 0x20, 0, 0⟩], lost := 0 }
    dump :=
      { busy := false, trigger := 0, image := [], resetAfter := none, fenceAfter := false, req := 0, d2d := [[], []] }
    sec :=
      { slots := List.replicate 16 none, linkRoot := none, linkKeys := List.replicate 4 none
        nonceOk := List.replicate 4 false, wrapStore := none, wrapLast := none, chal := (List.range 16).map Config.rngByte
        rejects := 0, perm := 0, otpRun := none, shiftOut := [] }
    boot :=
      { rom := .held, slot := 0, rest := [], newer := 0, fails := [0, 0], crcFaults := 0, attempts := 0, waiting := false
        delayed := false, buildId := List.replicate 8 0, rollback := 0, keySlot := 0, role := 0 }
    xspi := none
    safe :=
      { hist := [], verdictSeen := false, awaitValid := false, retry := none, skipNow := [], skipLast := [], held := false
        woke := false }
    bel := Bel.fresh
    can := List.replicate 2 ⟨false, false⟩
    sense := Sense.fresh
    eng := List.replicate 36 { pw := .off, fifo := [], queue := [], run := none, lost := false, seq := 0 }
    zle := List.replicate 2 Zle.fresh
    hl := Henlink.fresh
    vif := Vif.fresh
    fw := Fw.fresh
    mgr := Mgr.fresh
    fresh := 1 }

/-- The machine right after reset, with a blank NVM and OTP and nothing waiting. -/
def State.reset : State :=
  { pending := [], chip := Chip.reset, nvm := [], otpA := blankOtp, otpB := blankOtp }

end Sys2Proof.Machine
end

