-- ==== Sys2Proof/Machine/Ops.lean ====
section
/-! DEFINITION. The named operations over registers, memory, the log and the pins, which every meaning is built from. -/
namespace Sys2Proof.Machine

/-- The value listed under key `a`. -/
def Sparse.find {α : Type} (a : Nat) : List (Nat × α) → Option α
  | [] => none
  | (k, v) :: r => if k = a then some v else Sparse.find a r

/-- The list with `a` listed as `v`, keys kept rising. -/
def Sparse.put {α : Type} (a : Nat) (v : α) : List (Nat × α) → List (Nat × α)
  | [] => [(a, v)]
  | (k, w) :: r => if a < k then (a, v) :: (k, w) :: r else if k = a then (a, v) :: r else (k, w) :: Sparse.put a v r

/-- The list with nothing under `a`. -/
def Sparse.del {α : Type} (a : Nat) : List (Nat × α) → List (Nat × α)
  | [] => []
  | (k, w) :: r => if k = a then Sparse.del a r else (k, w) :: Sparse.del a r

/-- The list with `a` reading as `v`, where `d` is what an unlisted `a` reads as. -/
def Sparse.set {α : Type} [DecidableEq α] (d : α) (a : Nat) (v : α) (l : List (Nat × α)) : List (Nat × α) :=
  if v = d then Sparse.del a l else Sparse.put a v l

/-- Keys strictly rising, and no entry equal to what an unlisted key reads as. -/
def Sparse.wf {α : Type} [DecidableEq α] (d : Nat → α) : List (Nat × α) → Bool
  | [] => true
  | [(k, v)] => decide (v ≠ d k)
  | (k, v) :: (k', v') :: r => decide (v ≠ d k) && decide (k < k') && Sparse.wf d ((k', v') :: r)

/-- The canonical form of the block's memory, where an unlisted byte reads 0. -/
abbrev Memory.wf (m : List Host.Cell) : Bool := Sparse.wf (fun _ => 0) m

/-- The canonical form of the NVM, where an unlisted byte is erased. -/
abbrev Nvm.wf (m : List Host.Cell) : Bool := Sparse.wf (fun _ => 0xFF) m

/-- The value the register at `a` reads. -/
def Chip.reg (c : Chip) (a : Nat) : Word := (Sparse.find a c.regs).getD (regReset a)

/-- The value the block acts on: the one read, but for fields that hold a reserved encoding (R11). -/
def Chip.act (c : Chip) (a : Nat) : Word := (Sparse.find a c.acts).getD (c.reg a)

/-- One field of a register as the block acts on it. -/
def Chip.fld (c : Chip) (a lo w : Nat) : Nat := Machine.fld (c.act a) lo w

/-- One bit of a register as the block acts on it. -/
def Chip.bit (c : Chip) (a i : Nat) : Bool := Machine.bit (c.act a) i

/-- The register at `a` made to read, and to act as, `v`. -/
def Chip.setReg (c : Chip) (a : Nat) (v : Word) : Chip :=
  { c with regs := Sparse.set (regReset a) a v c.regs, acts := Sparse.del a c.acts }

/-- The register at `a` made to read `v` while its block acts on `e` (R11). -/
def Chip.setRegAct (c : Chip) (a : Nat) (v e : Word) : Chip :=
  { c with regs := Sparse.set (regReset a) a v c.regs
           acts := if e = v then Sparse.del a c.acts else Sparse.put a e c.acts }

/-- One field of a register set by hardware. -/
def Chip.setFld (c : Chip) (a lo w x : Nat) : Chip :=
  c.setRegAct a (putFld (c.reg a) lo w x) (putFld (c.act a) lo w x)

/-- One bit of a register set by hardware. -/
def Chip.setBit (c : Chip) (a i : Nat) (b : Bool) : Chip := c.setFld a i 1 (if b then 1 else 0)

/-- A saturating count of `w` bits raised by `n`. -/
def Chip.incFld (c : Chip) (a lo w n : Nat) : Chip := c.setFld a lo w (sat w (Machine.fld (c.reg a) lo w + n))

/-- Where the block that owns address `a` shows MISUSE: register and bit; none for GPIO and the SAF_ block. -/
def misuseAt (a : Nat) : Option (Nat × Nat) :=
  match a / 0x10000 with
  | 0x4000 => some (0x40000004, 0)
  | 0x4001 =>
    let o := a % 0x10000
    if o < 0x100 then some (0x40010000, 0)
    else if o < 0x200 then some (0x40010100, 0)
    else if o < 0x3000 then some (0x40010200, 0)
    else if o < 0x4000 ∨ 0x4800 ≤ o then some (0x40013F00, 0)
    else some (0x40014400, 0)
  | 0x4002 => if a % 0x10000 < 0x800 then some (0x40020000, 0) else some (0x40020804, 0)
  | 0x4003 => some (0x40030000, 0)
  | 0x4004 => some (0x40040000, 0)
  | 0x4005 =>
    match a / 0x1000 with
    | 0x40054 => if a < 0x40054800 then some (0x40054008, 0) else some (0x40054808, 0)
    | 0x40056 => some (0x40056008, 4)
    | 0x40057 => none
    | b => some (b * 0x1000, 0)
  | 0x4006 => some (0x40060004, 0)
  | 0x4008 => some (0x4008001C, 0)
  | 0x4009 => some (0x40090000, 0)
  | _ => none

/-- The MISUSE bit of the block that owns address `a` set. -/
def Chip.misuse (c : Chip) (a : Nat) : Chip :=
  match misuseAt a with
  | some (r, b) => c.setBit r b true
  | none => c

/-- The interleaved address an alias address reaches (R293); any other address is itself. -/
def canon (a : Nat) : Nat :=
  if 0x08000000 ≤ a ∧ a < 0x08800000 then
    let x := a - 0x08000000
    let b := x / 0x80000
    let o := x % 0x80000
    o / 64 * 1024 + b * 64 + o % 64
  else a

/-- The byte stored at a local address; 0 where nothing has written (R63, R795, R305). -/
def Chip.peek (c : Chip) (a : Nat) : Byte := (Sparse.find (canon a) c.mem).getD 0

/-- `n` bytes from a local address. -/
def Chip.peekN (c : Chip) (a n : Nat) : List Byte := (List.range n).map fun i => c.peek (a + i)

/-- `n` bytes from a local address, as a little-endian number. -/
def Chip.peekLe (c : Chip) (a n : Nat) : Nat := leNat (c.peekN a n)

/-- One byte stored. -/
def Chip.poke (c : Chip) (a : Nat) (b : Byte) : Chip := { c with mem := Sparse.set 0 (canon a) b c.mem }

/-- Bytes stored from a local address up. -/
def Chip.pokeN (c : Chip) (a : Nat) : List Byte → Chip
  | [] => c
  | b :: r => (c.poke a b).pokeN (a + 1) r

/-- A number stored as `n` little-endian bytes. -/
def Chip.pokeLe (c : Chip) (a n v : Nat) : Chip := c.pokeN a (leBytes n v)

/-- Whether domain `i` of Table 02-3 is powered and usable; PWR_DSTAT0 and PWR_DSTAT1 hold it. -/
def Chip.dom (c : Chip) (i : Nat) : Bool :=
  if i < 32 then Machine.bit (c.reg 0x40000034) i else Machine.bit (c.reg 0x40000038) (i - 32)

/-- The status bit of domain `i` set or cleared. -/
def Chip.setDom (c : Chip) (i : Nat) (b : Bool) : Chip :=
  if i < 32 then c.setBit 0x40000034 i b else c.setBit 0x40000038 (i - 32) b

/-- Several domains set or cleared. -/
def Chip.setDoms (c : Chip) (is : List Nat) (b : Bool) : Chip := is.foldl (fun c i => c.setDom i b) c

/-- SRAM group `g` put into a state; its status bit reads 1 only while it is awake. -/
def Chip.setGrp (c : Chip) (g : Nat) (x : GrpState) : Chip :=
  { c with power.grp := upd c.power.grp g fun _ => x }.setDom (5 + g) (decide (x = GrpState.awake))

/-- The group of a shared SRAM address (R292, Table 02-3). -/
def grpOf (a : Nat) : Nat := canon a / 64 % 16 / 2

/-- The memory of SRAM group `g` lost. -/
def Chip.clearGrp (c : Chip) (g : Nat) : Chip :=
  { c with mem := c.mem.filter fun x => decide (¬ (x.1 < 0x800000 ∧ grpOf x.1 = g))
           ecc := c.ecc.filter fun x => decide (¬ (x.1 < 0x800000 ∧ grpOf x.1 = g)) }

/-- The memory of address range [lo, hi) lost. -/
def Chip.clearRange (c : Chip) (lo hi : Nat) : Chip :=
  { c with mem := c.mem.filter fun x => decide (¬ (lo ≤ x.1 ∧ x.1 < hi))
           ecc := c.ecc.filter fun x => decide (¬ (lo ≤ x.1 ∧ x.1 < hi)) }

/-- The start of engine `e`'s local buffer (R304). -/
def bufBase (e : Nat) : Nat := 0x10000000 + 0x20000 * e

/-- The size of engine `e`'s local buffer in bytes (Table 08-2). -/
def bufSize (e : Nat) : Nat :=
  if e < 8 then 32768 else if e < 12 then 131072 else if e < 18 then 16384 else if e < 20 then 65536
  else if e < 22 then 32768 else if e < 24 then 65536 else if e < 26 then 16384 else if e < 30 then 8192
  else if e < 32 then 4096 else 16384

/-- Engine `e`'s local buffer lost (R305). -/
def Chip.clearBuf (c : Chip) (e : Nat) : Chip := c.clearRange (bufBase e) (bufBase e + 0x20000)

/-- Mode codes of PWR_MODE.CUR. -/
def modeCode : Mode → Nat
  | .start => 0
  | .watch => 1
  | .scan => 2
  | .run => 3
  | .fenced => 4
  | .dark => 5

/-- The mode entered, and shown in PWR_MODE.CUR. -/
def Chip.setMode (c : Chip) (m : Mode) : Chip := { c with power.mode := m }.setFld 0x40000000 0 3 (modeCode m)

/-- RTC time in whole seconds, as the log stamps it (Table 21-2: bits [46:15] of the count). -/
def Chip.rtcSec (c : Chip) : Nat := c.clocks.rtc / 32768 % 2 ^ 32

/-- Pack time in µs, modulo 2^32 (R612). -/
def Chip.packUs (c : Chip) : Nat := c.clocks.packNs / 1000 % 2 ^ 32

/-- An entry's place in the log's input buffer: behind every entry of an earlier cycle, and within a cycle by source (R747). -/
def logInsert (e : LogIn) : List LogIn → List LogIn
  | [] => [e]
  | x :: r => if x.at32k = e.at32k ∧ e.prio < x.prio then e :: x :: r else x :: logInsert e r

/-- A log entry sent by hardware (priority 0), Belfry (1), or a steward port (port number); it waits in the input buffer. -/
def Chip.logFrom (c : Chip) (prio code arg : Nat) : Chip :=
  { c with log.buf := logInsert ⟨prio, code, arg % 2 ^ 24, c.clocks.rtc⟩ c.log.buf }

/-- A hardware log entry. -/
def Chip.logHw (c : Chip) (code arg : Nat) : Chip := c.logFrom 0 code arg

/-- A steward's entry, which is dropped when fewer than 4 of the 8 places are free (R747). -/
def Chip.logStw (c : Chip) (port code arg : Nat) : Chip :=
  if c.log.buf.length ≤ 4 then c.logFrom port code arg
  else { c with log.lost := c.log.lost + 1 }.setBit 0x40090000 5 true

/-- One entry written into the log at NEXT, which then advances modulo 32 (R745, R746). -/
def Chip.logEntry (c : Chip) (code arg sec : Nat) : Chip :=
  let i := Machine.fld (c.reg 0x40090024) 0 5
  let t := Machine.fld (c.reg 0x40090024) 16 16
  ((c.setReg (0x40090100 + 8 * i) (BitVec.ofNat 32 (code + 256 * arg))).setReg (0x40090104 + 8 * i) (BitVec.ofNat 32 sec)).setReg
    0x40090024 (BitVec.ofNat 32 ((i + 1) % 32 + 65536 * ((t + 1) % 65536)))

/-- What the log does in one AON_32K cycle: one entry is written; LOG_LOST takes a free slot (R747). -/
def Chip.logCycle (c : Chip) : Chip :=
  match c.log.buf with
  | e :: r => { c with log.buf := r }.logEntry e.code e.arg (e.at32k / 32768 % 2 ^ 32)
  | [] => if c.log.lost = 0 then c else { c with log.lost := 0 }.logEntry 0x29 (min c.log.lost (2 ^ 24 - 1)) c.rtcSec

/-- The entries of the log, each as code and time in RTC seconds. -/
def Chip.logEntries (c : Chip) : List (Nat × Nat) :=
  (List.range 32).map fun i => (Machine.fld (c.reg (0x40090100 + 8 * i)) 0 8, (c.reg (0x40090104 + 8 * i)).toNat)

/-- A Belfry log entry (R750): the 64-place buffer shifted so that the newest stands last. -/
def Chip.blog (c : Chip) (kind code arg : Nat) : Chip :=
  let e := leBytes 4 c.packUs ++ leBytes 4 (c.clocks.rtc % 2 ^ 32) ++ leBytes 1 kind ++ leBytes 1 code ++ leBytes 6 arg
  let moved := (List.range 252).foldl (fun d i => d.setReg (0x40090400 + 4 * i) (c.reg (0x40090410 + 4 * i))) c
  (List.range 4).foldl (fun d i => d.setReg (0x400907F0 + 4 * i) (BitVec.ofNat 32 (leAt e (4 * i) 4))) moved

/-- `n` free bytes, and the counter moved on (DESIGN CHOICE, log entry 4). -/
def Chip.drawBytes (c : Chip) (n : Nat) : List Byte × Chip :=
  ((List.range n).map fun i => Config.freeByte (c.fresh * 65536 + i), { c with fresh := c.fresh + 1 })

/-- A free 32-bit value, and the counter moved on (DESIGN CHOICE, log entry 4). -/
def Chip.drawWord (c : Chip) : Nat × Chip := ((Config.freeWord c.fresh).toNat, { c with fresh := c.fresh + 1 })

/-- `n` bytes from the random number generator. -/
def Chip.drawRng (c : Chip) (n : Nat) : List Byte × Chip :=
  ((List.range n).map fun i => Config.rngByte (c.fresh * 65536 + i), { c with fresh := c.fresh + 1 })

/-- A response of data to the initiator. -/
def Chip.respond (c : Chip) (d : List Byte) : Chip := { c with bus := ⟨d, false⟩ }

/-- A bus error: a read of `n` bytes returns zeros. -/
def Chip.busError (c : Chip) (n : Nat) : Chip := { c with bus := ⟨List.replicate n 0, true⟩ }

/-- FAULT_N asserted or released, and shown in SAF_STATUS. -/
def Chip.setFaultN (c : Chip) (released : Bool) : Chip :=
  { c with pins.faultN := released }.setBit 0x40070000 3 released

/-- PULSE started or stopped, and shown in SAF_STATUS. -/
def Chip.setPulse (c : Chip) (on : Bool) : Chip := { c with pins.pulse := on }.setBit 0x40070000 4 on

/-- A meaning that acts on the chip alone: the NVM, the OTP and the queue stay. -/
def State.onChip (s : State) (f : Chip → Chip) : Host.Outcome State Fault Refusal := .next { s with chip := f s.chip }

end Sys2Proof.Machine
end

