-- ==== Sys2Proof/Machine/Flags.lean ====
section
/-! DEFINITION. When a store changes a field and when it only sets MISUSE: locks (R8), fields frozen while their block runs,
registers refused before phase C (R98), and reserved encodings that depend on another field. -/
namespace Sys2Proof.Machine

/-- Phase C of start-up fault injection has passed (SAF_START, R97, R98). -/
def Chip.phaseCPassed (c : Chip) : Bool := decide (Machine.fld (c.reg 0x40070004) 4 2 = 2)

/-- Sequencer `n` has RUN = 1. -/
def Chip.seqRun (c : Chip) (n : Nat) : Bool := c.bit (0x40011000 + 0x1000 * n) 0

/-- Whether the register at `a` is SEQ_, WIN_ or FLT_ (R98). -/
def isSeqWinFlt (a : Nat) : Bool := decide (0x40010200 ≤ a ∧ a < 0x40014A00)

/-- The lock of an RL field is set: XSPI_PROT has its own, every other RL field follows PART_CTL.LOCK (R8, R9). -/
def Chip.rlLocked (c : Chip) (a : Nat) : Bool :=
  if a = 0x40055018 then Machine.bit (c.reg a) 31 else Machine.bit (c.reg 0x40020800) 0

/-- The first register of the interface ring that `a` lies in (16, "Register cards"). -/
def vringAt (a : Nat) : Option Nat :=
  let o := a % 0x1000
  let hit := match a / 0x1000 with
    | 0x40050 => decide (0x40 ≤ o ∧ o < 0x70)
    | 0x40051 => decide (0x40 ≤ o ∧ o < 0x70)
    | 0x40052 => decide (0x40 ≤ o ∧ o < 0x70)
    | 0x40053 => decide (0x40 ≤ o ∧ o < 0x80)
    | 0x40054 => decide (0x40 ≤ o % 0x800 ∧ o % 0x800 < 0x60)
    | _ => false
  if hit then some (a / 16 * 16) else none

/-- The store of port `port` to any field of the register at `a` is ignored, under a rule for the whole register, when it would
change one (R792): R98 before phase C for a steward core, R177 while Belfry holds the test DAC, R256 during a CAL, R569 and R601 and their like while enabled. -/
def Chip.frozenReg (c : Chip) (port a : Nat) : Bool :=
  let o := a % 0x10000
  match a / 0x10000 with
  | 0x4001 =>
    (isSeqWinFlt a && decide (36 ≤ port ∧ port < 40) && !c.phaseCPassed) ||
    (decide (o = 0x110 ∨ (0x120 ≤ o ∧ o < 0x1C0)) && Machine.bit (c.reg 0x40010100) 1) ||
    (decide (o = 0x18) && Machine.bit (c.reg 0x40010000) 5) ||
    (decide (0x140 ≤ o ∧ o < 0x1C0) && c.seqRun ((o - 0x140) / 0x40)) ||
    (decide (0x120 ≤ o ∧ o < 0x130) && c.seqRun ((o - 0x120) / 8)) ||
    (decide (0x3000 ≤ o ∧ o < 0x3F00 ∧ 0x80 ≤ o % 0x200) && c.bit (a / 0x200 * 0x200) 0) ||
    (decide (0x4800 ≤ o ∧ o < 0x4900 ∧ o % 0x10 = 0) && c.bit (a + 4) 0)
  | 0x4002 =>
    decide (0x900 ≤ o ∧ o % 0x20 < 0x10) && Machine.bit (c.reg (a / 0x20 * 0x20 + 0x10)) 0
  | 0x4003 => decide (0x800 ≤ o ∧ o < 0xA00 ∧ o % 0x10 ≠ 4) && Machine.bit (c.reg (a / 0x10 * 0x10 + 4)) 0
  | 0x4004 =>
    (decide (o = 0xC00) && Machine.bit (c.reg 0x40040C04) 0) ||
    (decide (0x400 ≤ o ∧ o < 0xC00) && decide (Machine.fld (c.reg (0x4004040C + (o - 0x400) / 0x200 * 0x200)) 0 2 = 1))
  | 0x4005 =>
    (decide (o < 0x2000 ∧ 8 ≤ o % 0x1000 ∧ o % 0x1000 < 0x18) && decide (c.fld (a / 0x1000 * 0x1000 + 4) 0 3 ≠ 0)) ||
    (decide (o = 0x2008) && c.bit 0x40052004 0) ||
    (decide (vringAt a = some a) && c.bit (a + 4) 0)
  | 0x4008 => decide (o = 0x18) && Machine.bit (c.reg 0x4008001C) 3
  | _ => false

/-- The same for one field of the register: the fields beside EN of a filter path, comparator or
ring (R265, R289), of a TDM port, XL_EN and TMS of a CAN controller, a running pair's divider (R82), and PTM_RATE while the Henlink time unit owns the counter (R614). -/
def Chip.frozenFld (c : Chip) (a lo : Nat) : Bool :=
  (decide ((a = 0x40054000 ∨ a = 0x40054800) ∧ lo ≠ 0) && c.bit a 0) ||
  (decide ((a = 0x40050004 ∨ a = 0x40051004) ∧ 5 ≤ lo) && decide (c.fld a 0 3 ≠ 0)) ||
  (decide ((vringAt a).isSome = true ∧ a % 16 = 4 ∧ lo ≠ 0) && c.bit a 0) ||
  (decide (0x40013000 ≤ a ∧ a < 0x40013F00 ∧ a % 0x200 = 0 ∧ lo ≠ 0) && c.bit a 0) ||
  (decide (0x40014000 ≤ a ∧ a < 0x40014200 ∧ a % 0x20 = 0 ∧ lo ≠ 0) && c.bit a 0) ||
  (decide (0x40014800 ≤ a ∧ a < 0x40014900 ∧ a % 0x10 = 4 ∧ lo = 4) && c.bit a 0) ||
  (decide (a = 0x40000104) && decide ((nth c.sense.seqs (lo / 16) Seq.fresh).phase ≠ .stopped)) ||
  (decide (a = 0x4008000C) && Machine.bit (c.reg 0x4008001C) 3)

/-- A value reserved because of another field: a ring's RD at or past its size (07, FLT_RINGn_RD). -/
def Chip.reservedHere (c : Chip) (a lo x : Nat) : Bool :=
  if 0x4001480C ≤ a ∧ a < 0x40014900 ∧ a % 0x10 = 0xC ∧ lo = 0 then decide (2 ^ c.fld (a - 8) 4 5 ≤ x) else false

/-- A write that a rule refuses for what it asks: a time window made VALID with a bad range (09), and a TDM port enabled
above 24.576 MHz (16). -/
def Chip.refusedValue (c : Chip) (a lo x : Nat) (v : Word) : Bool :=
  if 0x40030800 ≤ a ∧ a < 0x40030A00 ∧ a % 0x10 = 4 ∧ lo = 0 then
    let len := c.fld (a - 4) 16 14
    decide (x = 1) && (decide (len = 0) || decide (10000 < c.fld (a - 4) 0 14 + len) || decide (Machine.fld v 1 3 = 0))
  else if (a = 0x40054000 ∨ a = 0x40054800) ∧ lo = 0 then
    let rate := if Machine.bit v 2 then 16000 else 48000
    let width := if Machine.bit v 7 then 16 else 32
    decide (x = 1) && decide (24576000 < rate * width * (Machine.fld v 3 4 + 1))
  else false

/-- What a store leaves of a register: the value it reads, the value the block acts on, and whether MISUSE sets. -/
structure StoreRes where
  reads : Word
  acts : Word
  misuse : Bool
  deriving DecidableEq, Repr

/-- A store's effect on one field, by its access type (Table 00-3, R6, R8, R11, R58, R198, R792). -/
def Chip.storeFld (c : Chip) (port a : Nat) (v : Word) (r : StoreRes) (f : Fld) : StoreRes :=
  let x := Machine.fld v f.lo f.w
  let same := decide (x = Machine.fld r.reads f.lo f.w)
  let bad : StoreRes := { r with misuse := true }
  let write : StoreRes :=
    if c.frozenFld a f.lo || c.refusedValue a f.lo x v then if same then r else bad
    else if !f.defined x || c.reservedHere a f.lo x then { r with reads := putFld r.reads f.lo f.w 0, misuse := true }
    else { r with reads := putFld r.reads f.lo f.w x, acts := putFld r.acts f.lo f.w x }
  match f.acc with
  | .ro => r
  | .rw => write
  | .rl => if c.rlLocked a then if same then r else bad else write
  | .bel => if port = 40 then write else if same then r else bad
  | .wo => if x ≠ 0 ∧ !f.defined x then bad else r
  | .w1c =>
    let keep := ~~~ (v &&& fldMask f.lo f.w)
    { r with reads := r.reads &&& keep, acts := r.acts &&& keep }

/-- The bits a card names; the others are reserved (R10). -/
def Card.cover (k : Card) : Word := k.flds.foldl (fun m f => m ||| fldMask f.lo f.w) 0

/-- A 32-bit store's effect on the whole register (R4, R6, R10, R792). -/
def Chip.storeRes (c : Chip) (k : Card) (port a : Nat) (v : Word) : StoreRes :=
  let r := k.flds.foldl (c.storeFld port a v) ⟨c.reg a, c.act a, false⟩
  let r := { r with misuse := r.misuse || decide (v &&& ~~~ k.cover ≠ 0) }
  let wo := k.flds.any fun f => decide (f.acc = .wo ∧ Machine.fld v f.lo f.w ≠ 0)
  if c.frozenReg port a && (wo || decide (r.reads ≠ c.reg a ∨ r.acts ≠ c.act a ∨ r.misuse = true)) then ⟨c.reg a, c.act a, true⟩ else r

/-- A store carried out by the rules of its card. -/
def Chip.storeCard (c : Chip) (k : Card) (port a : Nat) (v : Word) : Chip :=
  let r := c.storeRes k port a v
  let c := c.setRegAct a r.reads r.acts
  if r.misuse then c.misuse a else c

/-- The same for the register at `a`, whatever its card; nothing where there is none. -/
def Chip.storeReg (c : Chip) (port a : Nat) (v : Word) : Chip :=
  match cardOf a with
  | some k => c.storeCard k port a v
  | none => c

end Sys2Proof.Machine
end

