-- ==== Sys2Proof/Machine/Snapshot.lean ====
section
/-! DEFINITION. The fatal-error dump: the header and records the engine latches at its trigger (R752, R757, R758). -/
namespace Sys2Proof.Machine

/-- A record: its header, its body, and zeros to a multiple of 16 bytes (Table 21-5). -/
def dumpRec (typ idx seq : Nat) (body : List Byte) : List Byte :=
  let h := leBytes 2 typ ++ leBytes 2 idx ++ leBytes 4 body.length ++ leBytes 4 seq
  h ++ leBytes 4 (crc32 (h ++ body)) ++ pad16 body

/-- Register values as little-endian words. -/
def Chip.words (c : Chip) (as : List Nat) : List Byte := as.flatMap fun a => leBytes 4 (c.reg a).toNat

/-- `n` consecutive registers from `a`. -/
def Chip.block (c : Chip) (a n : Nat) : List Byte := c.words ((List.range n).map fun i => a + 4 * i)

/-- The last 256 frames of a link, missing ones as zero words (Table 21-6, record 7). -/
def frameWords (ws : List Word) : List Byte :=
  (List.replicate (256 - ws.length) (0 : Word) ++ ws).flatMap fun w => leBytes 4 w.toNat

/-- A queued descriptor's word in a QUEUE record (Table 21-6). -/
def queueWord (d : Desc) : List Byte := leBytes 4 (d.addr / 64 * 64 + d.cls * 2 + 1)

/-- The PWR_ENG field of engine `e` (02, PWR_ENG0 to PWR_ENG2): 0 AUTO, 1 ON, 2 OFF. -/
def Chip.engSet (c : Chip) (e : Nat) : Nat := c.fld (0x40000018 + 4 * (e / 16)) (2 * (e % 16)) 2

/-- Engine `e`. -/
def Chip.engine (c : Chip) (e : Nat) : Engine := nth c.eng e default

/-- The ENGINE and QUEUE record bodies of engine `e` (Table 21-6). -/
def Chip.engineBody (c : Chip) (e : Nat) : List Byte :=
  let g := c.engine e
  let (addr, start, bytes) := match g.run with
    | some r => (r.d.addr, r.start, padTo 64 r.d.bytes)
    | none => (0, 0, List.replicate 64 (0 : Byte))
  c.words [0x40030200 + 4 * e] ++ leBytes 4 addr ++ leBytes 4 start ++ leBytes 2 g.seq ++ leBytes 1 (c.engSet e) ++
    leBytes 1 0 ++ bytes

/-- The queue of engine `e` in queue order, filled to 32 words. -/
def Chip.queueBody (c : Chip) (e : Nat) : List Byte := padTo 128 ((c.engine e).queue.flatMap queueWord)

/-- The 80 records of Table 21-6 in writing order. -/
def Chip.dumpRecords (c : Chip) (seq : Nat) : List Byte :=
  ((List.range 36).flatMap fun e => dumpRec 1 e seq (c.engineBody e)) ++
  ((List.range 36).flatMap fun e => dumpRec 2 e seq (c.queueBody e)) ++
  dumpRec 3 0 seq (c.block 0x40020000 4 ++ c.block 0x40020804 3 ++ c.block 0x400201C0 3 ++
    c.words [0x40030000, 0x40030004, 0x40030008, 0x40030020, 0x40030014, 0x40000034]) ++
  dumpRec 4 0 seq (c.words [0x40020800, 0x40020010] ++ (List.range 16).flatMap fun r => c.block (0x40020900 + 0x20 * r) 5) ++
  dumpRec 5 0 seq (c.block 0x40020100 24 ++ c.block 0x40020180 12 ++ c.clocks.tokens.flatMap fun t => leBytes 4 (t / 1024)) ++
  dumpRec 6 0 seq (c.words [0x40070000, 0x40070004, 0x40070040, 0x40070044, 0x40070048, 0x40070030] ++
    c.block 0x40070010 6 ++ c.words [0x40070038, 0x4007003C, 0x40070034, 0x4007004C] ++ c.block 0x40090400 256) ++
  dumpRec 7 0 seq (frameWords (nth c.dump.d2d 0 [])) ++ dumpRec 7 1 seq (frameWords (nth c.dump.d2d 1 [])) ++
  dumpRec 8 0 seq (c.words [0x40040000, 0x40040004, 0x40040014, 0x40040018] ++ c.block 0x4004001C 4 ++
    ((List.range 4).flatMap fun p => c.block (0x40040104 + 0x40 * p) 3) ++ c.words [0x40000028, 0x40040C0C] ++ leBytes 8 0) ++
  dumpRec 9 0 seq (c.words [0x40010000, 0x4001001C, 0x40010020, 0x40010100, 0x40010110, 0x40010200, 0x40011004] ++
    c.block 0x40011024 3 ++ c.words [0x40012004] ++ c.block 0x40012024 3 ++ c.words [0x40000100, 0x40000004])

/-- The dump header (Table 21-4); `cause` is its CAUSE field. -/
def Chip.dumpHeader (c : Chip) (trigger cause : Nat) : List Byte :=
  let h := leBytes 4 0x504D5544 ++ leBytes 1 1 ++ leBytes 1 trigger ++ leBytes 1 (Machine.fld (c.reg 0x40070000) 0 3) ++
    leBytes 1 (Machine.fld (c.reg 0x40000000) 0 3) ++ leBytes 4 ((c.reg 0x4009000C).toNat + 1) ++ leBytes 4 12816 ++
    leBytes 8 c.clocks.rtc ++ leBytes 8 c.clocks.packNs ++ c.words [0x40060010, 0x40060014] ++ padTo 8 c.boot.buildId ++
    leBytes 4 cause ++
    leBytes 2 (Machine.fld (c.reg 0x40040004) 0 10 + 32768 * Machine.fld (c.reg 0x40040004) 31 1) ++ leBytes 2 80 ++
    leBytes 1 (Machine.fld (c.reg 0x40060000) 0 8) ++ leBytes 1 (Machine.fld (c.reg 0x40055004) 0 1) ++
    leBytes 1 c.boot.rollback ++ leBytes 1 0
  h ++ leBytes 4 (crc32 h)

/-- The dump latched at a trigger: the header, then the records. -/
def Chip.dumpImage (c : Chip) (trigger cause : Nat) : List Byte :=
  c.dumpHeader trigger cause ++ c.dumpRecords ((c.reg 0x4009000C).toNat + 1)

/-- The retained dump region (R303): 64 KB from alias address 0x087F_0000. -/
def dumpBase : Nat := 0x087F0000

/-- The region holds a valid header: MAGIC, VERSION and HDR_CRC are correct (R753). -/
def Chip.dumpValid (c : Chip) : Bool :=
  decide (c.peekLe dumpBase 4 = 0x504D5544) && decide (c.peekLe (dumpBase + 4) 1 = 1) &&
    decide (c.peekLe (dumpBase + 0x3C) 4 = crc32 (c.peekN dumpBase 60))

/-- A trigger of the dump engine (R751, R753, R754). The second component says whether a dump was started. -/
def Chip.dumpTrigger (c : Chip) (trigger cause : Nat) : Chip × Bool :=
  if c.dump.busy || (decide (nth c.power.grp 7 .off ≠ GrpState.off) && c.dumpValid) then
    (((c.setBit 0x40090000 3 true).incFld 0x40090010 0 16 1).logHw 0x27 trigger, false)
  else if nth c.power.grp 7 .off = GrpState.off then ((c.setBit 0x40090000 4 true).logHw 0x28 trigger, false)
  else
    ({ c with dump.busy := true, dump.trigger := trigger, dump.image := c.dumpImage trigger cause }.setBit 0x40090000 1 true, true)

/-- The end of a dump (R755): records and header stand in the region, BUSY clears, DONE sets, DMP_SEQ counts, the log tells. -/
def Chip.dumpEnd (c : Chip) : Chip :=
  let seq := (c.reg 0x4009000C).toNat + 1
  let c := c.pokeN dumpBase c.dump.image
  let c := ((c.setBit 0x40090000 1 false).setBit 0x40090000 2 true).setReg 0x4009000C (BitVec.ofNat 32 seq)
  { c with dump.busy := false, dump.image := [] }.logHw 0x26 (c.dump.trigger + 256 * (seq % 65536))

end Sys2Proof.Machine
end

