-- ==== Sys2Proof/Machine/React.lean ====
section
/-! DEFINITION. Belfry's reactions to causes (Table 19-3), the Marked, Fenced and Dark states, the CAN fault message, and the
resets of Table 03-1. -/
namespace Sys2Proof.Machine

/-- Entry of SAF_STATUS.STATE: 0 START, 1 READY, 2 MARKED, 3 FENCED. -/
def Chip.saf (c : Chip) : Nat := Machine.fld (c.reg 0x40070000) 0 3

/-- SAF_STATUS.STATE set, with Belfry's log entry (R750). -/
def Chip.setSaf (c : Chip) (x : Nat) : Chip := (c.setFld 0x40070000 0 3 x).blog 2 x 0

/-- The link ports and TDM outputs without power (Table 02-5): the ports are OFF and hold nothing; what waits for them is lost. -/
def Chip.portsOff (c : Chip) : Chip :=
  let c := { c with hl.ports := List.replicate 4 HlPort.fresh, hl.inbox := [], vif.tdm := List.replicate 2 ⟨[], 0, none⟩ }
  (List.range 4).foldl (fun c p => c.setFld (0x40040104 + 0x40 * p) 0 5 0) c

/-- Everything the key store forgets at a reset and on entry to Watch, Fenced or Dark (R713). -/
def Chip.clearKeys (c : Chip) : Chip :=
  let c := { c with sec.slots := List.replicate 16 none, sec.linkRoot := none, sec.linkKeys := List.replicate 4 none }
  let c := (List.range 16).foldl (fun c k => c.setReg (0x40060100 + 4 * k) 0) c
  let c := (List.range 4).foldl (fun c p => c.setBit (0x40040104 + 0x40 * p) 5 false) c
  c.setBit 0x40060004 7 false

/-- The engines powered off without completing what they hold (R359, R305). -/
def Chip.enginesOff (c : Chip) : Chip :=
  let off := c.eng.map fun g => { g with pw := .off, fifo := [], queue := [], run := none, lost := false }
  let d := { c with eng := off, zle := c.zle.map Zle.unpowered }.setDoms ((List.range 36).map (13 + ·)) false
  let d := (List.range 36).foldl (fun c e => c.setReg (0x40030200 + 4 * e) 0) d
  d.clearRange 0x10000000 0x10480000

/-- The balancing gates low, and BAL_LIVE with them (R64, R179). -/
def Chip.gatesLow (c : Chip) : Chip :=
  { c with pins.bal := List.replicate 20 false, sense.bal.barred := List.replicate 20 true }.setBit 0x40010000 4 false

/-- Every powered SRAM group put into retention (R302, Table 02-5). -/
def Chip.retainGroups (c : Chip) : Chip :=
  (List.range 8).foldl (fun c g => if nth c.power.grp g .off = GrpState.off then c else c.setGrp g .retained) c

/-- The domains of Fenced (Table 02-5, R705): steward cores, engines, ADC0 to ADC3, REF_A and MUX_BAL off, groups retained. -/
def Chip.powerFenced (c : Chip) : Chip :=
  let c := (c.enginesOff.setDoms [2, 54, 55, 56, 57, 59, 61] false).gatesLow.retainGroups
  let c := (c.setDoms [0, 1, 3, 4, 53, 58, 60] true).clearKeys
  let c := c.setFld 0x4000002C 0 6 0x30
  { c with sec.wrapStore := none, dump.fenceAfter := false }.setMode .fenced

/-- Active marking causes, codes 8 to 13, from bit 0 (Table 19-4). -/
def Chip.marks (c : Chip) : Nat := Machine.fld (c.reg 0x40070040) 8 6

/-- The CAN fault message as it stands (Table 19-4): header of Table 16-1, then 8 data bytes. -/
def Chip.faultFrame (c : Chip) : List Byte :=
  let id := if Machine.bit (c.reg 0x40040004) 31 then 0x00A00000 + Machine.fld (c.reg 0x40040004) 0 10 else 0x00A00400
  let cause := if c.saf = 2 ∨ c.saf = 3 then Machine.fld (c.reg 0x40070040) 20 12 else 0
  let d := leBytes 1 c.saf ++ leBytes 1 cause ++ leBytes 2 c.marks ++ leBytes 2 (Machine.fld (c.reg 0x4007004C) 0 16) ++
    leBytes 1 (Machine.fld (c.reg 0x40070000) 0 8)
  leBytes 4 (id + 0x20000000) ++ leBytes 1 0 ++ leBytes 1 0 ++ leBytes 2 8 ++ leBytes 8 0 ++ d ++ leBytes 1 (crc8 d)

/-- SAFE_HELD of controller `n`: a safety frame waits while MODE is not NORMAL or the controller is bus-off (R604). -/
def Chip.canShow (c : Chip) (n : Nat) : Chip :=
  c.setBit (0x40050000 + 0x1000 * n) 3 ((nth c.can n default).safeGo &&
    (decide (c.fld (0x40050004 + 0x1000 * n) 0 3 ≠ 1) || Machine.bit (c.reg (0x40050000 + 0x1000 * n)) 1))

/-- The frame written to CANn_SAFE of controller `n`, and its GO set (R703, R604). -/
def Chip.safeWrite (c : Chip) (n : Nat) : Chip :=
  let f := padTo 80 c.faultFrame
  let c := (List.range 20).foldl (fun c i => c.setReg (0x40050200 + 0x1000 * n + 4 * i) (BitVec.ofNat 32 (leAt f (4 * i) 4))) c
  ({ c with can := upd c.can n fun k => { k with safeGo := true, safeDue := false } }.setBit 0x4007004C (16 + n) true).canShow n

/-- A fault message falls due (R703): a controller whose frame is not yet SENT takes it later. -/
def Chip.faultMessage (c : Chip) : Chip :=
  let c := c.setFld 0x4007004C 0 16 (Machine.fld (c.reg 0x4007004C) 0 16 + 1)
  (List.range 2).foldl (fun c n =>
    if (nth c.can n default).safeGo then { c with can := upd c.can n fun k => { k with safeDue := true } } else c.safeWrite n) c

/-- Entry to MARKED (R699): FAULT_N asserted, consent withdrawn, the fault message sent. -/
def Chip.enterMarked (c : Chip) (code : Nat) : Chip :=
  let c := ((c.setFaultN false).setSaf 2).setFld 0x40070040 20 12 code
  { c with safe.awaitValid := true }.setBit 0x40010008 0 false |>.gatesLow |>.faultMessage

/-- Entry to FENCED (R705): FAULT_N asserted, consent cleared, the dump started (R751), then the domains switched. -/
def Chip.enterFenced (c : Chip) (code : Nat) : Chip :=
  let c := ((c.setFaultN false).setSaf 3).setFld 0x40070040 20 12 code
  let c := (c.setBit 0x40010008 0 false).gatesLow.faultMessage
  let (c, started) := c.dumpTrigger 3 code
  if started || c.dump.busy then { c with dump.fenceAfter := true }.setMode .fenced else c.powerFenced

/-- Registers that survive a system reset: AON-resident ones, the log, the supply block's and those that count since power-on
(R81, R83, R749). -/
def keptSys (a : Nat) : Bool :=
  keptExt a || decide (a = 0x40000008 ∨ a = 0x4000000C ∨ a = 0x40000010 ∨ a = 0x40000014 ∨ (0x40000050 ≤ a ∧ a < 0x40000060))
where
  /-- Registers that survive an external reset too. -/
  keptExt (a : Nat) : Bool :=
    decide (a = 0x40000040 ∨ a = 0x40000044 ∨ a = 0x40000048 ∨ a = 0x4009000C ∨ a = 0x40090010 ∨ a = 0x40090024 ∨
      (0x40090100 ≤ a ∧ a < 0x40090200) ∨ a = 0x40060300)

/-- Bits of otherwise reset registers that a reset keeps: RTC_ON_RC and REST_UNKNOWN, TOKEN_BLOCK (R738), and, at a system reset,
SCAN_OVERRUN and DBG_SESSION (R81, R741). -/
def Chip.carryBits (c d : Chip) (sys : Bool) : Chip :=
  let d := (d.setBit 0x40000100 3 (Machine.bit (c.reg 0x40000100) 3)).setBit 0x40000100 5 (Machine.bit (c.reg 0x40000100) 5)
  let d := d.setBit 0x40060004 6 (Machine.bit (c.reg 0x40060004) 6)
  if sys then (d.setBit 0x40000004 5 (Machine.bit (c.reg 0x40000004) 5)).setBit 0x40060004 3 (Machine.bit (c.reg 0x40060004) 3)
  else d

/-- A fresh challenge nonce (R736). -/
def Chip.newChallenge (c : Chip) : Chip :=
  let (n, c) := c.drawRng 16
  { c with sec.chal := n }

/-- What both an external and a system reset leave (Table 03-1): `keep` names the registers kept; shared SRAM groups that are
powered are retained (R302), and every other memory is zero (R795, R305). -/
def Chip.coreReset (c : Chip) (sys : Bool) : Chip :=
  let keep := if sys then keptSys else keptSys.keptExt
  let groups := c.power.grp.map fun g => if g = GrpState.off then GrpState.off else GrpState.retained
  let r := Chip.reset
  let d : Chip :=
    { r with
      regs := c.regs.filter fun x => keep x.1
      acts := c.acts.filter fun x => keep x.1
      mem := c.mem.filter fun x => decide (x.1 < 0x800000)
      ecc := c.ecc.filter fun x => decide (x.1 < 0x800000)
      power :=
        { r.power with
          grp := groups, qsup := c.power.qsup, watchRtc := c.power.watchRtc, restAt := c.power.restAt
          lpc := if sys then c.power.lpc else r.power.lpc }
      clocks := { r.clocks with rtc := c.clocks.rtc, rtcPhase := c.clocks.rtcPhase }
      pins := { r.pins with wakeOut := c.pins.wakeOut }
      log := c.log
      sec := { r.sec with rejects := c.sec.rejects, perm := if sys then c.sec.perm else 0 }
      fresh := c.fresh }
  (c.carryBits d sys).newChallenge

/-- Entry to Dark (R707): EN_CORE and PULSE low, FAULT_N asserted, only AON and the supply block stay powered, so that every
memory and every register outside AON is lost (Table 02-5, R713, R714). -/
def Chip.enterDark (c : Chip) : Chip :=
  let r := Chip.reset
  let d : Chip :=
    { r with
      regs := c.regs.filter fun x => keptSys x.1
      power :=
        { r.power with
          qsup := c.power.qsup, watchRtc := c.power.watchRtc, restAt := c.power.restAt, lpc := c.power.lpc }
      clocks := { r.clocks with rtc := c.clocks.rtc, rtcPhase := c.clocks.rtcPhase }
      pins := { r.pins with enCore := false }
      log := c.log
      sec := { r.sec with rejects := c.sec.rejects, perm := c.sec.perm, chal := c.sec.chal }
      fresh := c.fresh }
  (c.carryBits d true).setMode .dark

/-- The reactions of Table 19-3. -/
inductive Reaction | dark | fenced | marked | logged
  deriving DecidableEq, Repr

/-- Causes 8 to 10 are conditions, which count once each time they become active; the others are events (R697). -/
def isCondition (code : Nat) : Bool := decide (code = 8 ∨ code = 9 ∨ code = 10)

/-- SAF_REACT shows codes 5 to 16 while they are active. -/
def Chip.setActive (c : Chip) (code : Nat) (b : Bool) : Chip :=
  if 5 ≤ code ∧ code ≤ 16 then c.setBit 0x40070040 code b else c

/-- The log entries of a cause: the AON log's with the state entered, and Belfry's own (R696, R750). -/
def Chip.logCause (c : Chip) (code entered detail : Nat) : Chip :=
  (c.logFrom 1 code (entered + 256 * (detail % 65536))).blog 1 code (entered + 256 * (detail % 65536))

/-- How often a code was signalled within the last 10 s of RTC time (R697). -/
def Chip.recent (c : Chip) (code : Nat) : Nat :=
  (c.safe.hist.filter fun h => decide (h.1 = code ∧ c.clocks.rtc ≤ h.2 + 327680)).length

/-- A Fenced cause: no effect but the log while Fenced or Dark is in force (R698). -/
def Chip.fenceCause (c : Chip) (code detail : Nat) : Chip :=
  let c := c.setActive code true
  if c.power.mode = .fenced ∨ c.saf = 3 ∨ c.power.mode = .dark then c.logCause code 0 detail
  else (c.logCause code 3 detail).enterFenced code

/-- A marking cause: it counts, and it marks Belfry once READY (R699); the eighth within 10 s fences (R697). -/
def Chip.markCause (c : Chip) (code detail : Nat) : Chip :=
  let isNew := !Machine.bit (c.reg 0x40070040) code
  let counts := isNew || !isCondition code
  let c := c.setActive code true
  let c := if counts then { c with safe.hist := (code, c.clocks.rtc) :: c.safe.hist } else c
  let c := if c.saf = 1 then (c.enterMarked code).logCause code 2 detail else c.logCause code 0 detail
  if counts && decide (8 ≤ c.recent code) then c.fenceCause 14 0 else c

/-- A cause of Table 19-3 with its reaction (R696, R698). Belfry is off in Watch and in Dark, where nothing reacts. -/
def Chip.cause (c : Chip) (kind : Reaction) (code detail : Nat) : Chip :=
  if c.power.mode = .dark ∨ c.power.mode = .watch then c
  else
    match kind with
    | .dark => (c.logCause code 4 detail).enterDark
    | .fenced => c.fenceCause code detail
    | .marked => c.markCause code detail
    | .logged => c.logCause code 0 detail

/-- A marking cause ends (R701): with the last one gone Belfry returns to READY and says so once. -/
def Chip.endMark (c : Chip) (code : Nat) : Chip :=
  let c := c.setActive code false
  if c.saf = 2 ∧ c.marks = 0 ∧ ¬ Machine.bit (c.reg 0x40070040) 16 then
    ((c.setSaf 1).setFld 0x40070040 20 12 0).faultMessage
  else c

end Sys2Proof.Machine
end

