-- ==== Sys2Proof/Machine/Operands.lean ====
section
/-! DEFINITION. The operand forms of an access: how the fabric decodes an address, which port carries which class, the partition
checks, power, and the data itself with its error correction (R796 fixes the order of the checks). -/
namespace Sys2Proof.Machine

/-- The first address and size of the mapped area of Table 08-1 that holds `a` (R290, R304). -/
def areaOf (a : Nat) : Option (Nat × Nat) :=
  if a < 0x800000 then some (0, 0x800000)
  else if 0x08000000 ≤ a ∧ a < 0x08800000 then some (0x08000000, 0x800000)
  else if 0x10000000 ≤ a ∧ a < 0x10480000 then
    let e := (a - 0x10000000) / 0x20000
    if a < bufBase e + bufSize e then some (bufBase e, bufSize e) else none
  else if 0x20000000 ≤ a ∧ a < 0x20040000 then some (0x20000000, 0x40000)
  else if 0x30000000 ≤ a ∧ a < 0x30040000 then some (0x30000000, 0x40000)
  else if 0x40000000 ≤ a ∧ a < 0x400A0000 then some (a / 0x10000 * 0x10000, 0x10000)
  else none

/-- The access lies wholly within one mapped area (R291). -/
def inArea (a len : Nat) : Bool :=
  match areaOf a with
  | some (b, n) => decide (0 < len ∧ a + len ≤ b + n)
  | none => false

/-- The address lies in a register block. -/
def isReg (a : Nat) : Bool := decide (0x40000000 ≤ a)

/-- A filter path's output buffer, which is storage of the sense bridge (R281): 256 records of 16 bytes for each path. -/
def isOutBuf (a : Nat) : Bool := decide (0x40018000 ≤ a ∧ a < 0x40020000)

/-- The areas that take accesses of several aligned words: a link key window (R728), a mailbox's data window, which a DME may fill
(14, "Transmit mailboxes"), and the routing table, which stage 2 writes in WRs of 256 bytes (R570; DEDUCED, log entry 19). -/
def inWindow (a len : Nat) : Bool :=
  decide (a % 4 = 0 ∧ len % 4 = 0 ∧ 0 < len) &&
    (decide (0x40060200 ≤ a ∧ a + len ≤ 0x40060300 ∧ a / 64 = (a + len - 1) / 64) ||
      decide (0x40041000 ≤ a ∧ a + len ≤ 0x40042000 ∧ len ≤ 256) ||
      decide (0x40040400 ≤ a ∧ a + len ≤ 0x40040C00 ∧ 0x100 ≤ a % 0x200 ∧ a / 0x200 = (a + len - 1) / 0x200))

/-- A register access the spec performs: aligned and 32 bits wide, or within one of those windows (R4, R5). -/
def regShape (a len : Nat) : Bool := isOutBuf a || decide (a % 4 = 0 ∧ len = 4) || inWindow a len

/-- Every word of a register access is named by a card (R291). -/
def regNamed (a len : Nat) : Bool := (List.range ((len + 3) / 4)).all fun i => (cardOf (a + 4 * i)).isSome

/-- The class of a port's accesses (Table 08-3): 0 A, 1 B, 2 C. -/
def Chip.portCls (c : Chip) (port : Nat) : Nat :=
  if port < 36 then match (c.engine port).run with | some r => r.d.cls | none => 2
  else if port < 40 then c.fld 0x40020010 (2 * (port - 36)) 2
  else if port = 40 then 0
  else if port = 41 then c.fld 0x40020010 8 2
  else if port = 42 then c.fld 0x40020010 10 2
  else if port = 48 then c.fld 0x40020010 12 2
  else 2

/-- Register `i` of region `r`: 0 BASE, 1 LIMIT, 2 MASKLO, 3 MASKHI, 4 ATTR. -/
def Chip.partReg (c : Chip) (r i : Nat) : Word := c.act (0x40020900 + 0x20 * r + 4 * i)

/-- The lowest-numbered valid region that holds a line (R313 to R315). -/
def Chip.regionOf (c : Chip) (a : Nat) : Option Nat :=
  let l := canon a / 64
  (List.range 16).find? fun r =>
    Machine.bit (c.partReg r 4) 0 && decide ((c.partReg r 0).toNat / 64 ≤ l) && decide (l ≤ (c.partReg r 1).toNat / 64)

/-- A port's bit in a region's mask (R316). -/
def Chip.inMask (c : Chip) (r port : Nat) : Bool :=
  if port < 32 then Machine.bit (c.partReg r 2) port else Machine.bit (c.partReg r 3) (port - 32)

/-- The region that refuses an access to one line, or none where it is permitted (R316 to R318). -/
def Chip.lineRefused (c : Chip) (port cls a : Nat) (wr : Bool) : Option Nat :=
  if port = 40 then none
  else if !Machine.bit (c.reg 0x40020800) 0 then if port = 36 ∨ port = 42 then none else some 16
  else match c.regionOf a with
    | none => some 16
    | some r =>
      let attr := c.partReg r 4
      if c.inMask r port && (!wr || (Machine.bit attr 3 && decide (cls ≤ Machine.fld attr 1 2))) then none else some r

/-- The lines an access touches (R315). -/
def linesOf (a len : Nat) : List Nat := (List.range ((a + len - 1) / 64 + 1 - a / 64)).map fun i => (a / 64 + i) * 64

/-- What the checks of R796 make of an access. -/
inductive Gate
  /-- Every check passed. -/
  | open
  /-- R291, and R306 for a local buffer whose engine is off. -/
  | unmapped
  /-- R5. -/
  | narrow
  /-- Refused at a line by a region; 16 no region, 17 Belfry's area (R309, R315 to R318). -/
  | refused (region line : Nat)
  /-- R62. -/
  | groupOff
  deriving DecidableEq, Repr

/-- The Belfry-only areas of R309. -/
def belfryOnly (a len : Nat) (wr : Bool) : Bool :=
  decide ((0x20000000 ≤ a ∧ a < 0x20040000) ∨ (wr = true ∧ 0x40070000 ≤ a ∧ a < 0x40080000) ∨
    (wr = true ∧ 0x40090400 ≤ a ∧ a < 0x40090800)) && decide (0 < len)

/-- The checks of R796 in their order. -/
def Chip.gate (c : Chip) (port cls a len : Nat) (wr : Bool) : Gate :=
  if !inArea a len then .unmapped
  else if isReg a && !isOutBuf a && !regShape a len then .narrow
  else if isReg a && !isOutBuf a && !regNamed a len then .unmapped
  else if port ≠ 40 ∧ belfryOnly a len wr then .refused 17 a
  else
    match (linesOf a len).findSome? fun l => (c.lineRefused port cls l wr).map fun r => (r, l) with
    | some (r, l) => .refused r (max a l)
    | none =>
      if (decide (a < 0x800000) || decide (0x08000000 ≤ a ∧ a < 0x08800000)) &&
          (linesOf a len).any fun l => decide (nth c.power.grp (grpOf l) .off = GrpState.off) then .groupOff
      else if 0x10000000 ≤ a ∧ a < 0x10480000 ∧ (c.engine ((a - 0x10000000) / 0x20000)).pw ≠ .up then .unmapped
      else .open

/-- A refused access (R321): counted, captured if it is the first, and signalled to Belfry as PART_VIOL or PART_VIOL_BC. -/
def Chip.violation (c : Chip) (port cls addr region srcId : Nat) (wr : Bool) : Chip :=
  let c := if Machine.bit (c.reg 0x40020804) 1 then c
    else ((c.setBit 0x40020804 1 true).setReg 0x40020808 (BitVec.ofNat 32 addr)).setReg 0x4002080C
      (BitVec.ofNat 32 (port + 64 * cls + (if wr then 256 else 0) + 512 * region +
        (if 43 ≤ port ∧ port ≤ 46 then 65536 * (srcId % 1024) else 0)))
  let c := c.incFld 0x40020804 16 16 1
  if region = 16 ∨ region = 17 ∨ Machine.fld (c.partReg region 4) 1 2 = 0 then c.cause .marked 13 (port + 256 * region)
  else c.cause .logged 17 (port + 256 * region)

/-- The status a refused access leaves, by the check that refused it (R5, R62, R291, R321, R796). -/
def Chip.gateFail (c : Chip) (g : Gate) (port cls a srcId : Nat) (wr : Bool) : Chip :=
  match g with
  | .open => c
  | .unmapped => c.misuse 0x40020000
  | .narrow => c.misuse a
  | .refused r l => c.violation port cls l r srcId wr
  | .groupOff => c.misuse 0x40000000

/-- An access to a retained group of AUTO wakes it (R61). -/
def Chip.touchGrp (c : Chip) (g : Nat) : Chip :=
  if nth c.power.grp g .off = GrpState.retained ∧ !c.power.grpHold ∧ c.fld 0x40000024 (2 * g) 2 = 1 then c.setGrp g .awake else c

/-- An uncorrectable error found in the word at canonical address `w` (R299, R654, 09): counted, captured, signalled. -/
def Chip.eccUe (c : Chip) (w : Nat) : Chip :=
  if w < 0x800000 ∨ 0x30000000 ≤ w then
    let cap := if w < 0x800000 then w else 0x80000000 + (w - 0x30000000)
    let c := if Machine.bit (c.reg 0x40020000) 2 then c else c.setReg 0x40020004 (BitVec.ofNat 32 cap)
    (((c.setBit 0x40020000 2 true).incFld 0x40020008 16 16 1)).cause .marked 11 0
  else if w < 0x20000000 then ((c.setBit 0x40030000 4 true).incFld 0x40030020 16 16 1).cause .marked 12 0
  else c.cause .dark 4 0

/-- A corrected error: the word is written back right, and counted by its owner (R298, R654, 09). -/
def Chip.eccCe (c : Chip) (w : Nat) : Chip :=
  let c := { c with ecc := Sparse.del w c.ecc }
  if w < 0x800000 ∨ 0x30000000 ≤ w then (c.setBit 0x40020000 1 true).incFld 0x40020008 0 16 1
  else if w < 0x20000000 then (c.setBit 0x40030000 3 true).incFld 0x40030020 0 16 1
  else c.incFld 0x40070034 0 16 1

/-- The word read with its error correction; the Boolean says uncorrectable. An error of three or more bits is reported,
miscorrected or unseen, as a free choice (R794); wrong data are free bytes. -/
def Chip.eccRead (c : Chip) (w : Nat) : Bool × Chip :=
  match Sparse.find w c.ecc with
  | none => (false, c)
  | some .single => (false, c.eccCe w)
  | some .double => (true, c.eccUe w)
  | some .many =>
    let k := Config.freeChoice c.fresh % 3
    if k = 0 then (true, { c with fresh := c.fresh + 1 }.eccUe w)
    else
      let (bs, c) := c.drawBytes 8
      let c := c.pokeN w bs
      (false, if k = 1 then c.eccCe w else { c with ecc := Sparse.del w c.ecc })

/-- The 64-bit words an access touches, by canonical address. -/
def wordsOf (a len : Nat) : List Nat := (List.range ((a + len - 1) / 8 + 1 - a / 8)).map fun i => canon ((a / 8 + i) * 8)

/-- `len` bytes read from memory (R298, R299): none when a word is uncorrectable. -/
def Chip.memRead (c : Chip) (a len : Nat) : Option (List Byte) × Chip :=
  let c := if canon a < 0x800000 then (linesOf a len).foldl (fun c l => c.touchGrp (grpOf l)) c else c
  let (bad, c) := (wordsOf a len).foldl (fun (p : Bool × Chip) w => let (b, d) := p.2.eccRead w; (p.1 || b, d)) (false, c)
  (if bad then none else some (c.peekN a len), c)

/-- Bytes written to memory: a word written whole loses its error; a word written in part is read first, and where that read is
uncorrectable the write to that word is not performed (R296, R300). The Boolean says every word was written. -/
def Chip.memWrite (c : Chip) (a : Nat) (d : List Byte) : Bool × Chip :=
  let len := d.length
  let c := if canon a < 0x800000 then (linesOf a len).foldl (fun c l => c.touchGrp (grpOf l)) c else c
  let (bad, c) := (wordsOf a len).foldl (fun (p : List Nat × Chip) w =>
    let whole := (List.range 8).all fun i => (List.range len).any fun j => decide (canon (a + j) = w + i)
    if whole then (p.1, { p.2 with ecc := Sparse.del w p.2.ecc })
    else let (b, e) := p.2.eccRead w; (if b then w :: p.1 else p.1, e)) ([], c)
  let c := { c with resv := c.resv.filter fun r => !(wordsOf a len).contains r.2 }
  let c := (d.zipIdx).foldl (fun c (x : Byte × Nat) =>
    if bad.contains (canon (a + x.2) / 8 * 8) then c else c.poke (a + x.2) x.1) c
  (bad.isEmpty, c)

/-- How an access of a master inside the block ended: data, or why not. -/
inductive AccRes
  | ok (data : List Byte)
  | refused (line : Nat)
  | uncorrectable
  | busError
  deriving DecidableEq, Repr

/-- A read by an internal master through port `port` at class `cls`, checked as R796 states. -/
def Chip.read (c : Chip) (port cls a len : Nat) (srcId : Nat := 0) : AccRes × Chip :=
  match c.gate port cls a len false with
  | .open =>
    match c.memRead a len with
    | (some d, c) => (.ok d, c)
    | (none, c) => (.uncorrectable, c)
  | .refused r l => (.refused l, c.gateFail (.refused r l) port cls a srcId false)
  | g => (.busError, c.gateFail g port cls a srcId false)

/-- A write by an internal master, checked as R796 states. -/
def Chip.write (c : Chip) (port cls a : Nat) (d : List Byte) (srcId : Nat := 0) : AccRes × Chip :=
  match c.gate port cls a d.length true with
  | .open =>
    match c.memWrite a d with
    | (true, c) => (.ok [], c)
    | (false, c) => (.uncorrectable, c)
  | .refused r l => (.refused l, c.gateFail (.refused r l) port cls a srcId true)
  | g => (.busError, c.gateFail g port cls a srcId true)

/-- A register store by `port`, carried out by `f` when the fabric lets it through, and otherwise answered with a bus error and
the status its refusing check sets (R796, R320). -/
def Chip.store (c : Chip) (port a : Nat) (f : Chip → Chip) : Chip :=
  let cls := c.portCls port
  match c.gate port cls a 4 true with
  | .open => f { c with bus := ⟨[], false⟩ }
  | g => (c.gateFail g port cls a 0 true).busError 0

/-- The same for a store whose effect reaches the NVM or the OTP. -/
def State.store (s : State) (port a : Nat) (f : State → State) : State :=
  let cls := s.chip.portCls port
  match s.chip.gate port cls a 4 true with
  | .open => f { s with chip.bus := ⟨[], false⟩ }
  | g => { s with chip := (s.chip.gateFail g port cls a 0 true).busError 0 }

/-- A register read by `port`, likewise. -/
def Chip.load (c : Chip) (port a : Nat) (f : Chip → Chip) : Chip :=
  let cls := c.portCls port
  match c.gate port cls a 4 false with
  | .open => f c
  | g => (c.gateFail g port cls a 0 false).busError 4

end Sys2Proof.Machine
end

