-- ==== Sys2Proof/Machine/SenseOps.lean ====
section
/-! DEFINITION. The shared operations of the sense die and its bridge: sequencer flow, Pendants, staging and frames, destination
rings, and what Watch does to them (05_sense_front_end.md, 06_converters_and_sequencing.md, 07_sample_processing.md). Times are
640 MHz clocks, of which one SD_CTL clock has eight. -/
namespace Sys2Proof.Machine

/-- The 640 MHz clock as the SD_CTL count gives it. -/
def Chip.now640 (c : Chip) : Nat := c.clocks.sd * 8 + (if c.clocks.sdHalf then 4 else 0)

/-- Sequencer `n` (0 or 1). -/
def Chip.seq (c : Chip) (n : Nat) : Seq := nth c.sense.seqs n Seq.fresh

/-- Sequencer `n` changed. -/
def Chip.onSeq (c : Chip) (n : Nat) (f : Seq → Seq) : Chip := { c with sense.seqs := upd c.sense.seqs n f }

/-- Address of a register of sequencer `n`. -/
def seqReg (n o : Nat) : Nat := 0x40011000 + 0x1000 * n + o

/-- The divider of pair `n` (R199). -/
def Chip.pairDiv (c : Chip) (n : Nat) : Nat := c.fld 0x40000104 (16 * n) 10

/-- Pair `n` is powered. -/
def Chip.pairUp (c : Chip) (n : Nat) : Bool := c.dom (54 + 2 * n)

/-- The bead word at index `i` of a bank: 0 and 1 the Strand banks, 2 the Pendant memory (R209). -/
def Chip.beadAt (c : Chip) (n bank i : Nat) : Nat :=
  let a := seqReg n (0x400 + 0x400 * bank + 8 * i)
  (c.reg a).toNat + 2 ^ 32 * (c.reg (a + 4)).toNat

/-- The active Strand bank. -/
def Chip.abank (c : Chip) (n : Nat) : Nat := Machine.fld (c.reg (seqReg n 0)) 2 1

/-- The bead word in progress. -/
def Chip.curBead (c : Chip) (n : Nat) : Nat :=
  let q := c.seq n
  c.beadAt n (if q.inPend then 2 else c.abank n) q.bead

/-- SEQn_STATE.PHASE's code. -/
def phaseCode : SeqPhase → Nat
  | .stopped => 0
  | .wait => 1
  | .settle => 2
  | .convert => 3

/-- SEQn_STATE made to show the sequencer. -/
def Chip.seqShow (c : Chip) (n : Nat) : Chip :=
  let q := c.seq n
  c.setReg (seqReg n 4) (BitVec.ofNat 32 (q.bead % 128 + (if q.inPend then 128 else 0) + 256 * phaseCode q.phase +
    1024 * min 4 q.queue.length + (if q.calHold then 8192 else 0)))

/-- The cell a bead of CELLk or OWk measures (Table 05-1). -/
def beadCell (w : Nat) : Option Nat :=
  let ch := nfld w 0 6
  if ch < 20 then some (ch + 1) else if 0x28 ≤ ch ∧ ch < 0x3C then some (ch - 0x27) else none

/-- PWM-mode channel `k` is held low by a running bead (R185). -/
def Chip.balPaused (c : Chip) (k : Nat) : Bool :=
  c.bit 0x40010004 2 && (List.range 2).any fun n =>
    let q := c.seq n
    (decide (q.phase = .settle) || decide (q.phase = .convert)) &&
      match beadCell (c.curBead n) with
      | some m => decide (m ≤ k + 1 ∧ k ≤ m + 1)
      | none => false

/-- SFE_BAL_MODE of cell `k` (R184). -/
def Chip.balMode (c : Chip) (k : Nat) : Nat :=
  if k ≤ 16 then c.fld 0x40010010 (2 * (k - 1)) 2 else c.fld 0x40010014 (2 * (k - 17)) 2

/-- The conditions of R179 for cell `k`. -/
def Chip.balAllowed (c : Chip) (k : Nat) : Bool :=
  c.bit 0x40010004 0 && c.bit 0x40010008 0 && c.dom 61 && decide (k ≤ c.fld 0x40010004 8 5) &&
    decide (c.power.mode ≠ .watch)

/-- The gates as the PWM, the bars of R180 and the pauses of R185 leave them. -/
def Chip.balDrive (c : Chip) : Chip :=
  let g := (List.range 20).map fun i =>
      nth c.sense.bal.on i false && !nth c.sense.bal.barred i false && !(decide (c.balMode (i + 1) = 0) && c.balPaused (i + 1))
  { c with pins.bal := g }

/-- SFE_STATUS.BAL_LIVE (R179). -/
def Chip.balLive (c : Chip) : Chip := c.setBit 0x40010000 4 (c.bit 0x40010004 0 && c.bit 0x40010008 0 && c.dom 61)

/-- The channels whose conditions fail go low and stay low for the rest of the period (R180). -/
def Chip.balCheck (c : Chip) : Chip :=
  let d : Chip := { c with sense.bal.barred := (List.range 20).map fun i => nth c.sense.bal.barred i false || !c.balAllowed (i + 1) }
  d.balLive.balDrive

/-- The channel of a bead selects the PGA (R164). -/
def usesPga (w : Nat) : Bool := decide (nfld w 0 6 = 0x14 ∨ nfld w 0 6 = 0x26)

/-- The open-wire sink of a sequencer stopped (R161), and sinks and gain changes too old to matter forgotten. -/
def Seq.stopSink (q : Seq) (t : Nat) : Seq :=
  let ow := q.ow.filterMap fun x =>
    match x with
    | (k, f, none) => some (k, f, some t)
    | (k, f, some e) => if t ≤ e + 40000 then some (k, f, some e) else none
  { q with ow := ow, gainAt := q.gainAt.filter fun g => decide (t ≤ g + 40000) }

/-- The settling delay of a bead begins at clock `t` (R216, R217, R161, R164). -/
def Chip.beginBead (c : Chip) (n bead : Nat) (pend : Bool) (t : Nat) : Chip :=
  let w := c.beadAt n (if pend then 2 else c.abank n) bead
  let ch := nfld w 0 6
  let g := nfld w 48 2
  let c := c.onSeq n fun q =>
    let q := q.stopSink t
    let q := if 0x28 ≤ ch ∧ ch < 0x3C then { q with ow := (ch - 0x27, t, none) :: q.ow } else q
    let q := if usesPga w && decide (g ≠ q.gain) then { q with gain := g, gainAt := t :: q.gainAt } else q
    { q with phase := .settle, bead := bead, inPend := pend, start := t, due := none }
  (c.seqShow n).balDrive

/-- A Strand bead is reached: a CONT bead begins to settle, another waits for its start event (R213 to R215). -/
def Chip.arriveBead (c : Chip) (n bead : Nat) : Chip :=
  if nfld (c.beadAt n (c.abank n) bead) 52 2 = 0 then c.beginBead n bead false c.now640
  else (c.onSeq n fun q => { q with phase := .wait, bead := bead, inPend := false, due := none }).seqShow n

/-- The sequencer stops (R220, R221): the Pendant queue is emptied; words in the pipeline are lost if `lose`. -/
def Chip.seqStop (c : Chip) (n : Nat) (lose : Bool) : Chip :=
  let t := c.now640
  let c := c.onSeq n fun q =>
    { q.stopSink t with
      phase := .stopped, inPend := false, due := none, launching := none, queue := [], resume := .none, stopping := false
      calHold := false, runs := if lose then [] else q.runs }
  ((c.setBit (seqReg n 0) 0 false).seqShow n).balDrive

/-- An event record enters the FIFO, or is dropped and counted (R233). -/
def Chip.pushEvt (c : Chip) (n : Nat) (r : Nat) : Chip :=
  if 16 ≤ (c.seq n).evt.length then c.incFld (seqReg n 0x2C) 0 16 1
  else c.onSeq n fun q => { q with evt := q.evt ++ [r] }

/-- An event record's bits (Table 06-6); the time is in 640 MHz clocks. -/
def evtRec (t idx : Nat) (pend : Bool) (kind : Nat) (queued held : Bool) (count : Nat) : Nat :=
  t / 8 % 2 ^ 32 + 2 ^ 32 * (idx % 128) + (if pend then 2 ^ 39 else 0) + 2 ^ 40 * kind + (if queued then 2 ^ 42 else 0) +
    (if held then 2 ^ 43 else 0) + 2 ^ 47 + 2 ^ 48 * sat 16 count

/-- The entry bead of trigger `t` (06, SEQn_PENTRY). -/
def Chip.pentry (c : Chip) (n t : Nat) : Nat := c.fld (seqReg n (0xC + 4 * (t / 8))) (4 * (t % 8)) 4

/-- A Pendant launches: its first bead's settling begins (R226, R227, R233). -/
def Chip.launchPendant (c : Chip) (n t : Nat) (queued held : Bool) (edges : Nat) : Chip :=
  let now := c.now640
  let c := (c.onSeq n fun q => { q with launching := none }).beginBead n (c.pentry n t) true now
  c.pushEvt n (evtRec now t false 1 queued held edges)

/-- Samples of a run whose tracking started before clock `t` (R216): conversion i tracks SETTLE + i periods, or SETTLE + i/2
periods with ILV, after the start. -/
def BeadRun.trackedBefore (r : BeadRun) (t : Nat) : Nat :=
  let first := r.start + nfld r.word 18 16 * r.div
  let k := if nbit r.word 47 then 2 else 1
  min r.total ((k * (t - first) + r.div - 1) / r.div)

/-- The run in progress is cut at E (R227): the last sample tracked before E carries ABORTED; the ABORT record and the count. -/
def Chip.abortRun (c : Chip) (n : Nat) : Chip :=
  let q := c.seq n
  let now := c.now640
  let (runs, k) :=
    if q.phase = .convert then
      match q.runs.getLast? with
      | some r =>
        let k := max r.out (r.trackedBefore now)
        let keep : List BeadRun := if r.out < k then [{ r with total := k, aborted := true }] else []
        (q.runs.dropLast ++ keep, k)
      | none => (q.runs, 0)
    else (q.runs, 0)
  let c := c.onSeq n fun q => { q.stopSink now with runs := runs, resume := .restart q.bead }
  (c.pushEvt n (evtRec now q.bead false 2 false false k)).incFld (seqReg n 0x24) 0 16 1

/-- A start event lost while a Pendant or a CAL runs counts as MISSED (R218). -/
def Chip.missed (c : Chip) (n : Nat) : Chip := c.incFld (seqReg n 0x28) 0 16 1

/-- The Strand gives way at E to a Pendant or a CAL (R227, R229, R241): a bead in its settling or conversions is aborted, a waiting
one stays to be begun, and a start event already taken is lost. -/
def Chip.strandYield (c : Chip) (n : Nat) : Chip :=
  let q := c.seq n
  match q.phase with
  | .stopped => c
  | .wait =>
    if q.inPend || decide (q.resume ≠ .none) then c
    else
      let c := if q.due.isSome && decide (nfld (c.beadAt n (c.abank n) q.bead) 52 2 ≠ 0) then c.missed n else c
      c.onSeq n fun q => { q with resume := .begin q.bead, due := none }
  | _ => c.abortRun n

/-- The Strand goes on when no Pendant is left (R228, R230). -/
def Chip.strandResume (c : Chip) (n : Nat) : Chip :=
  match (c.seq n).resume with
  | .restart b => (c.onSeq n fun q => { q with resume := .none }).beginBead n b false c.now640
  | .begin b => (c.onSeq n fun q => { q with resume := .none }).arriveBead n b
  | .none => c

/-- Conversion clock edges from a trigger's arrival to a launch now (Table 06-6, COUNT). -/
def Chip.edgesFrom (c : Chip) (n at640 : Nat) : Nat := (c.now640 - at640 + c.pairDiv n - 1) / c.pairDiv n

/-- The next queued Pendant launches at once, or the Strand goes on (R230, R242). -/
def Chip.nextPendant (c : Chip) (n : Nat) : Chip :=
  match (c.seq n).queue with
  | x :: r => (c.onSeq n fun q => { q with queue := r }).launchPendant n x.trig true x.held (c.edgesFrom n x.at640)
  | [] => c.strandResume n

/-- A trigger is raised on sequencer `n` where TRIGEN admits it (R226). -/
def Chip.raiseTrig (c : Chip) (n t : Nat) : Chip :=
  if c.bit (seqReg n 8) t then c.onSeq n fun q => { q with raised := q.raised ++ [t] } else c

/-- A PWM event of source `src` is on its way to both sequencers (R215). -/
def Chip.raisePwm (c : Chip) (src : Nat) : Chip :=
  (List.range 2).foldl (fun c n => c.onSeq n fun q => if q.pwm.contains src then q else { q with pwm := q.pwm ++ [src] }) c

/-- A trigger is raised on both sequencers. -/
def Chip.raiseBoth (c : Chip) (t : Nat) : Chip := (c.raiseTrig 0 t).raiseTrig 1 t

/-- The bead the Strand is at or will go back to. -/
def Seq.strandBead (q : Seq) : Nat :=
  match q.resume with
  | .restart b => b
  | .begin b => b
  | .none => q.bead

/-- A start event of the given START kind and source reaches sequencer `n` (R214, R215, R218): a Strand bead that waits for it takes
it and will settle `delay` clocks after the second edge; one to be resumed after a Pendant or CAL loses it. -/
def Chip.startEvent (c : Chip) (n kind src delay : Nat) : Chip :=
  let q := c.seq n
  let w := c.beadAt n (c.abank n) q.strandBead
  let mine := decide (nfld w 52 2 = kind ∧ nfld w 54 2 = src)
  if !c.bit (seqReg n 0) 0 then c
  else if q.inPend || q.calHold then (if mine then c.missed n else c)
  else if mine && decide (q.phase = .wait) && q.due.isNone then
    c.onSeq n fun q => { q with due := some (c.now640 + (2 + delay) * c.pairDiv n) }
  else c

/-- Waiting beads whose settling instant has come begin to settle. -/
def Chip.seqDue (c : Chip) : Chip :=
  (List.range 2).foldl (fun c n =>
    match (c.seq n).due with
    | some t => if t ≤ c.now640 ∧ (c.seq n).launching = none then c.beginBead n (c.seq n).bead false t else c
    | none => c) c

/-- Pair `n` switched on: its PGA starts at gain 1, and a Strand whose RUN was kept restarts (R164, R801). -/
def Chip.pairOn (c : Chip) (n : Nat) : Chip :=
  let c := (c.setDoms [54 + 2 * n, 55 + 2 * n] true).onSeq n fun q => { q with gain := 0, gainAt := [] }
  if c.bit (seqReg n 0) 0 then c.arriveBead n 0 else c

/-- REF_A's settled flag set or cleared, with the clock of the change (R170 to R172). -/
def Chip.setRefA (c : Chip) (b : Bool) : Chip :=
  let t := c.now640
  (if b then { c with sense.refaSet := t } else { c with sense.refaClr := t }).setBit 0x40010000 1 b

/-- REF_B's settled flag likewise (R174). -/
def Chip.setRefB (c : Chip) (b : Bool) : Chip :=
  let t := c.now640
  (if b then { c with sense.refbSet := t } else { c with sense.refbClr := t }).setBit 0x40010000 2 b

/-- A reference was settled at clock `t`, from its flag now and the clocks of its last changes. -/
def settledAt (now : Bool) (setAt clrAt t : Nat) : Bool :=
  if now then decide (setAt ≤ t) else decide (setAt ≤ t ∧ t < clrAt ∧ setAt < clrAt)

/-- The TDAC ball (R173, R176, R177, R250): driven by SFE_TDAC unless Belfry holds the DAC, an interleave phase runs or REF_A is off. -/
def Chip.tdacDrive (c : Chip) : Chip :=
  let ilv := c.sense.cal.started && (match c.sense.cal.req with | p :: _ => decide (p = 1 ∨ p = 2) | [] => false)
  let t := c.sense.tdac
  { c with pins.tdac :=
      if Machine.bit t 12 && !Machine.bit (c.reg 0x40010000) 5 && !ilv && c.dom 59 then some (Machine.fld t 0 12) else none }

/-- An ADC_CALSTAT field (Table 06-8). -/
def Chip.calStat (c : Chip) (phase code : Nat) : Chip := c.setFld 0x4001010C (4 * phase) 4 code

/-- A CAL ends: CAL_BUSY clears and CAL_DONE sets, the held Pendants launch and the Strands go on (R242). -/
def Chip.calFinish (c : Chip) : Chip :=
  let c : Chip := { c with sense.cal := ⟨[], false, false⟩ }
  let c := (((c.setBit 0x40010100 1 false).setBit 0x40010100 3 false).setBit 0x40010100 2 true)
  let c := { c with sense.tdac := c.act 0x40010018 }.tdacDrive
  (List.range 2).foldl (fun c n =>
    if (c.seq n).calHold then (c.onSeq n fun q => { q with calHold := false }).nextPendant n |>.seqShow n else c) c

/-- The pairs a phase needs are powered (R246). -/
def Chip.calPowered (c : Chip) (p : Nat) : Bool :=
  match p with
  | 0 => c.pairUp 0 && c.pairUp 1
  | 1 => c.pairUp 0
  | 2 => c.pairUp 1
  | 3 => c.pairUp 0
  | _ => c.pairUp 1

/-- The phase in progress shows RUNNING, and ZERO_B with ZERO_A (R239); one whose pair is unpowered when it is reached ends at
once (R246), and an interleave phase reached while Belfry holds the test DAC shows its wait (R250). -/
def Chip.calReach : Nat → Chip → Chip
  | 0, c => c
  | k + 1, c =>
    match c.sense.cal.req with
    | p :: r =>
      if !c.calPowered p then ({ c with sense.cal.req := r }.calStat p 5).calReach k
      else
        let c := c.calStat p 1
        let c := if p = 3 ∧ r = [4] then
            if c.calPowered 4 then c.calStat 4 1 else { c with sense.cal.req := [3] }.calStat 4 5
          else c
        c.setBit 0x40010100 3 (decide (p = 1 ∨ p = 2) && Machine.bit (c.reg 0x40010000) 5)
    | [] => c.setBit 0x40010100 3 false

/-- The next phase of a started CAL is reached. -/
def Chip.calNext (c : Chip) : Chip := if c.sense.cal.started then Chip.calReach 6 c else c

/-- One phase ends with a status, and the next one is in progress. ZERO_A and ZERO_B run together (R239). -/
def Chip.calPhase (c : Chip) (phase code : Nat) : Chip :=
  let c : Chip := { c with sense.cal.req := c.sense.cal.req.filter fun p => decide (p ≠ phase), sense.tdac := c.act 0x40010018 }
  (c.calStat phase code).calNext.tdacDrive

/-- Pair `n` is switched off while a phase that needs it runs: that phase ends with NOT_POWERED (R246). -/
def Chip.calPowerLost (c : Chip) : Chip :=
  if !c.sense.cal.started then c
  else
    match c.sense.cal.req with
    | [3, 4] =>
      let c := if c.calPowered 3 then c else c.calPhase 3 5
      if c.calPowered 4 || !c.sense.cal.req.contains 4 then c else c.calPhase 4 5
    | p :: _ => if c.calPowered p then c else c.calPhase p 5
    | [] => c

/-- Pair `n` switched off: its sequencer stops at once and RUN reads 0 (R221). -/
def Chip.pairOff (c : Chip) (n : Nat) : Chip :=
  let c := (c.setDoms [54 + 2 * n, 55 + 2 * n] false).calPowerLost
  if (c.seq n).phase = .stopped then c.setBit (seqReg n 0) 0 false else c.seqStop n true

/-- REF_A clears during a CAL: the phase in progress ends with REF_NOT_SETTLED, those after it with NOT_RUN, and CAL ends (R244). -/
def Chip.calRefLost (c : Chip) : Chip :=
  if c.sense.cal.started then
    match c.sense.cal.req with
    | p :: r =>
      let c := c.calStat p 3
      let c := r.foldl (fun c x => c.calStat x (if p = 3 ∧ x = 4 then 3 else 0)) c
      c.calFinish
    | [] => c
  else c

/-- A Watch entry ends a CAL (R247). -/
def Chip.calInterrupt (c : Chip) : Chip :=
  match c.sense.cal.req with
  | [] => if c.sense.cal.started then { c with sense.cal := ⟨[], false, false⟩ }.setBit 0x40010100 1 false |>.setBit 0x40010100 2 true else c
  | p :: r =>
    let c := if c.sense.cal.started then c.calStat p 7 else c.calStat p 0
    let c := r.foldl (fun c x => c.calStat x (if c.sense.cal.started ∧ p = 3 ∧ x = 4 then 7 else 0)) c
    let c : Chip := { c with sense.cal := ⟨[], false, false⟩ }
    ((c.setBit 0x40010100 1 false).setBit 0x40010100 3 false).setBit 0x40010100 2 true

/-- A filter path as at a setting of EN to 1 (R267): no channel states, no outputs in process, indices and counts 0. -/
def Chip.fltRestart (c : Chip) (p : Nat) : Chip :=
  let a := 0x40013000 + 0x200 * p
  let c : Chip := { c with sense.flts := upd c.sense.flts p fun _ => ⟨[], []⟩ }
  ((c.setReg (a + 0x1C) 0).setReg (a + 0x20) 0).setReg (a + 0x24) 0

/-- A destination ring as at a setting of EN to 1 (R265). -/
def Chip.ringRestart (c : Chip) (n : Nat) : Chip :=
  let a := 0x40014800 + 0x10 * n
  ((c.setReg (a + 8) 0).setReg (a + 0xC) 0).setFld (a + 4) 16 16 0

/-- A comparator back at INERT with its counts cleared (R289). -/
def Chip.winInert (c : Chip) (k : Nat) : Chip :=
  { c with sense.wins := upd c.sense.wins k fun _ => ⟨0, 0, 0⟩ }.setFld (0x40014010 + 0x20 * k) 0 2 0

/-- What a Watch entry does to the sense die (R67, R247, R801): registers stay, live bits clear, balancing stops, rings, paths and
comparators restart, and the sequencers keep RUN and nothing else. -/
def Chip.senseWatch (c : Chip) : Chip :=
  let c := c.calInterrupt
  let c := (c.setBit 0x40010004 0 false).setBit 0x40010008 0 false
  let c := [1, 2, 4, 5, 6].foldl (fun c i => c.setBit 0x40010000 i false) c
  let r := Sense.fresh
  let c : Chip := { c with
    sense := { r with tdac := c.sense.tdac, refaClr := c.now640, refbClr := c.now640, refaSet := c.now640, refbSet := c.now640 }
    pins.bal := List.replicate 20 false, pins.tdac := none }
  let c := (List.range 2).foldl (fun c n => c.setReg (seqReg n 4) 0) c
  let c := (List.range 8).foldl (fun c p => c.fltRestart p) c
  let c := (List.range 16).foldl (fun c n => c.ringRestart n) c
  (List.range 16).foldl (fun c k => c.winInert k) c

/-- A frame's entries: the longest leading part of a staging buffer that one frame may carry (R223, R224). -/
def frameTake : Nat → List Staged → List Staged
  | 0, _ => []
  | _, [] => []
  | k + 1, e :: r =>
    match r with
    | e' :: _ => if e'.run = e.run ∧ e'.fresh = false then e :: frameTake k r else [e]
    | [] => [e]

/-- A main-link frame (Table 05-6). -/
def mainFrame (cnt ring : Nat) (es : List Staged) (status : Nat) : List Byte :=
  let n := es.length
  let ts := match es with | e :: _ => e.at640 / 8 % 2 ^ 32 | [] => 0
  let b := leBytes 2 cnt ++ leBytes 1 ((if n = 0 then 1 else 0) + 16 * ring) ++ leBytes 1 n ++ leBytes 4 ts ++
    padTo 52 (es.flatMap fun e => leBytes 4 e.word.toNat) ++ leBytes 2 status
  b ++ leBytes 2 (crc16From 0xFFFF b)

/-- A check-lane frame (Table 05-7). -/
def checkFrame (cnt flags : Nat) (es : List (Word × Nat)) : List Byte :=
  let ts := match es with | e :: _ => e.2 % 65536 | [] => 0
  let b := leBytes 2 cnt ++ leBytes 1 es.length ++ leBytes 1 flags ++ padTo 8 (es.flatMap fun e => leBytes 4 e.1.toNat) ++ leBytes 2 ts
  b ++ leBytes 2 (crc16From 0xFFFF b)

/-- One channel's code history after an accepted frame that carried these codes of it (R686). -/
def codeTrack (old : Option (Nat × Nat)) (codes : List Nat) : Nat × Nat :=
  match old, codes.getLast? with
  | some (l, k), some e => if codes.all (fun x => decide (x = l)) then (l, k + 1) else (e, 0)
  | none, some e => (e, 0)
  | some o, none => o
  | none, none => (0, 0)

/-- The channel histories after an accepted frame; entries with OR or RC take no part (R686). -/
def D2d.trackCodes (l : D2d) (es : List Nat) : D2d :=
  let es := es.filter fun e => !e.testBit 14 && !e.testBit 15
  let chans := (es.map fun e => nfld e 16 6).eraseDups
  { l with codes := chans.foldl (fun m ch =>
      let new := codeTrack (Sparse.find ch m) ((es.filter fun e => decide (nfld e 16 6 = ch)).map fun e => nfld e 0 14)
      Sparse.put ch new m) l.codes }

/-- A frame is accepted: the gap it shows and the link's bookkeeping (R193, R686, R688). -/
def D2d.accept (l : D2d) (cnt : Nat) (es : List Nat) : Nat × D2d :=
  let gap := match l.lastCnt with
    | some p => if p = cnt then 0 else (cnt + 65536 - p - 1) % 65536
    | none => 0
  let next := match l.lastCnt with | some p => decide (cnt = (p + 1) % 65536) | none => false
  let rep := match l.lastCnt with | some p => decide (cnt = p) | none => false
  (gap, { l.trackCodes es with
    lastCnt := some cnt, accepted := l.accepted + 1, repeated := l.repeated || rep
    consec := if next then l.consec + 1 else 1 })

/-- SAF_FRZ.ARMED: both links' detectors are armed (R688). -/
def Chip.armShow (c : Chip) : Chip :=
  c.setBit 0x40070044 2 (decide (3 ≤ c.sense.main.accepted) && decide (3 ≤ c.sense.check.accepted))

/-- The last 256 frames of a link, with the newest (Table 21-6, record 7). -/
def Chip.frameSeen (c : Chip) (link cnt : Nat) (dropped gap : Bool) : Chip :=
  let w : Word := BitVec.ofNat 32 (cnt % 65536 + (if dropped then 65536 else 0) + (if gap then 131072 else 0) + 2 ^ 18 * (c.clocks.sd % 16384))
  { c with dump.d2d := upd c.dump.d2d link fun l => (l ++ [w]).drop (l.length + 1 - 256) }

end Sys2Proof.Machine
end

