-- ==== Sys2Proof/Machine/Filter.lean ====
section
/-! DEFINITION. Filter paths, window comparators and destination rings (07_sample_processing.md): the shared operations and the
meanings of the family. -/
namespace Sys2Proof.Machine

/-- Address of a register of filter path `p`. -/
def fltReg (p o : Nat) : Nat := 0x40013000 + 0x200 * p + o

/-- Address of a register of comparator `k`. -/
def winReg (k o : Nat) : Nat := 0x40014000 + 0x20 * k + o

/-- Channels a path's mask names. -/
def Chip.maskCount (c : Chip) (p : Nat) : Nat :=
  ((List.range 64).filter fun i => c.bit (fltReg p (4 + 4 * (i / 32))) (i % 32)).length

/-- f0 of a path's notch in 1/64 Hz (R275). -/
def Chip.notchF (c : Chip) (p : Nat) : Nat :=
  let a := fltReg p 0xC
  match c.fld a 16 2 with
  | 1 => c.fld a 18 4 * 3200
  | 2 => c.fld a 18 4 * 3840
  | _ => c.fld a 0 16

/-- FS of a path in 1/16 Hz. -/
def Chip.fltFs (c : Chip) (p : Nat) : Nat := c.fld (fltReg p 0x10) 0 28

/-- Q of a path in 1/8. -/
def Chip.notchQ (c : Chip) (p : Nat) : Nat := c.fld (fltReg p 0xC) 22 10

/-- R276: f0 ≥ FS / 2 or r ≤ 0. -/
def Chip.notchBad (c : Chip) (p : Nat) : Bool :=
  decide (2 * c.fltFs p ≤ c.notchF p) || decide ((c.notchQ p * c.fltFs p : Nat) * fxOne ≤ 2 * fxPi * (c.notchF p : Int))

/-- The notch's decay count K (R278): ceil(9.704 × Q × FS ÷ (π × f0)); never reached at f0 = 0. -/
def Chip.notchK (c : Chip) (p : Nat) : Nat :=
  if c.notchF p = 0 then 2 ^ 40
  else ((((9704 * c.notchQ p * c.fltFs p : Nat) : Int) * fxOne) / (2000 * fxPi * (c.notchF p : Int))).toNat + 1

/-- The settling count S of a path (R278). -/
def Chip.settleS (c : Chip) (p : Nat) : Nat :=
  let a := fltReg p 0
  c.fld a 2 3 +
    (match c.fld a 18 2 with | 1 => c.fld a 20 5 | 2 => c.fld (fltReg p 0x14) 0 12 | _ => 0) +
    (if c.bit a 25 then c.notchK p else 0)

/-- FLT_STATp made to show S and the number of channels in the mask. -/
def Chip.fltShow (c : Chip) (p : Nat) : Chip :=
  c.setReg (fltReg p 0x18) (BitVec.ofNat 32 (sat 16 (c.settleS p) + 65536 * (c.maskCount p % 64)))

/-- The FIR or IIR coefficient i, in 2^-22 (R274). -/
def Chip.coef (c : Chip) (p i : Nat) : Int := sext 24 (c.fld (fltReg p (0x80 + 4 * i)) 0 24)

/-- A sum of products. -/
def dotI : List Int → List Int → Int
  | a :: as, b :: bs => a * b + dotI as bs
  | _, _ => 0

/-- The compensator's output for input `x`, in 2^-8 LSB (R273, R274). -/
def Chip.compOut (c : Chip) (p : Nat) (x : Int) (xs ys : List Int) : Int :=
  match c.fld (fltReg p 0) 18 2 with
  | 1 => shrEven (dotI ((List.range (c.fld (fltReg p 0) 20 5 + 1)).map fun i => c.coef p i) (x :: xs)) 22
  | 2 => shrEven (dotI [c.coef p 0, c.coef p 1, c.coef p 2] (x :: xs) - dotI [c.coef p 3, c.coef p 4] ys) 22
  | _ => x

/-- The notch's output for input `x` (R273, R275): its transfer function with the rounded outputs fed back (DESIGN CHOICE, log entry 6). -/
def Chip.notchOut (c : Chip) (p : Nat) (x : Int) (xs ys : List Int) : Int :=
  if !c.bit (fltReg p 0) 25 then x
  else
    let cos := fxCosTurn (c.notchF p) (4 * c.fltFs p)
    let r := fxOne - 2 * fxPi * (c.notchF p : Int) / ((c.notchQ p * c.fltFs p : Nat) : Int)
    fxRound (dotI [fxOne, -2 * cos, fxOne] (x :: xs) - dotI [-2 * fxMul r cos, fxMul r r] ys)

/-- The N-fold running sums after one more input (R272). -/
def cicAdd (x : Int) : List Int → List Int
  | [] => []
  | s :: r => (s + x) :: cicAdd (s + x) r

/-- The N-fold differences at an output: the output and the new comb states. -/
def cicComb (v : Int) : List Int → Int × List Int
  | [] => (v, [])
  | k :: r => let (y, ks) := cicComb (v - k) r; (y, v :: ks)

/-- A fresh channel of a path of order `n`. -/
def FltChan.fresh (chan n : Nat) : FltChan :=
  { chan := chan, ints := List.replicate n 0, combs := List.replicate n 0, cnt := 0, save := List.replicate n 0, last := none
    seq := 0, taint := [none, none, none, none], xs := [], ys := [], nx := [], ny := [] }

/-- A property was carried by an input accepted since output `k - s` (R271). -/
def tainted (k s : Nat) (t : Option Nat) : Bool := match t with | some n => decide (k ≤ n + s) | none => false

/-- One channel of a path after an accepted input, and the CIC output it forms if any (R269 to R272). `props` are HELD, OR,
REF_UNSETTLED and CAL_STALE of the input. -/
def FltChan.input (h : FltChan) (d s : Nat) (rewind : Bool) (x : Int) (props : List Bool) (time : Nat) : FltChan × Option CicOut :=
  let taint := (props.zip h.taint).map fun y => if y.1 then some h.seq else y.2
  let h := { h with last := some x, taint := taint }
  if rewind then ({ h with ints := h.save, cnt := 0 }, none)
  else
    let ints := cicAdd x h.ints
    if h.cnt + 1 < d then ({ h with ints := ints, cnt := h.cnt + 1 }, none)
    else
      let (y, combs) := cicComb (ints.getLast?.getD 0) h.combs
      let k := h.seq + 1
      let fl := taint.map (tainted k s)
      ({ h with ints := ints, combs := combs, cnt := 0, save := ints, seq := k },
       some { chan := h.chan, value := divEven (y * 256) (d ^ h.ints.length), time := time, seq := k, settling := decide (k ≤ s)
              held := nth fl 0 false, overBit := nth fl 1 false, refBad := nth fl 2 false, stale := nth fl 3 false })

/-- The state path `p` keeps of channel `ch`. -/
def Chip.fltChan (c : Chip) (p ch : Nat) : FltChan :=
  (((nth c.sense.flts p ⟨[], []⟩).chans.find? fun h => decide (h.chan = ch)).getD (FltChan.fresh ch (c.fld (fltReg p 0) 2 3)))

/-- The state of one channel of path `p` replaced. -/
def Chip.putChan (c : Chip) (p : Nat) (h : FltChan) : Chip :=
  { c with sense.flts := upd c.sense.flts p fun f =>
      { f with chans := h :: f.chans.filter fun x => decide (x.chan ≠ h.chan) } }

/-- A formed CIC output joins the outputs in process, or is lost as OVF (R277). -/
def Chip.fltQueue (c : Chip) (p : Nat) (o : CicOut) : Chip :=
  if 5 ≤ (nth c.sense.flts p ⟨[], []⟩).queue.length then c.incFld (fltReg p 0x1C) 24 8 1
  else { c with sense.flts := upd c.sense.flts p fun f => { f with queue := f.queue ++ [o] } }

/-- A converter word enters its filter path, or counts as FOREIGN (R266, R269, R270). -/
def Chip.fltInput (c : Chip) (n bead entry time : Nat) : Chip :=
  let p := nfld bead 34 3
  let ch := nfld bead 0 6
  let a := fltReg p 0
  let isns := decide (ch = 0x14 ∨ ch = 0x26)
  if !(c.bit a 0 && decide (c.fld a 1 1 = n) && c.bit (fltReg p (4 + 4 * (ch / 32))) (ch % 32) &&
      (!isns || decide (nfld bead 48 2 = c.fld a 27 2))) then c.incFld (fltReg p 0x1C) 0 12 1
  else
    let h := c.fltChan p ch
    let rc := nbit entry 15
    match (if rc then h.last else some (sext 14 entry)) with
    | none => c
    | some x =>
      let c := if rc then c.incFld (fltReg p 0x1C) 12 12 1 else c
      let (h, o) := h.input (c.fld a 5 13) (c.settleS p) (c.bit a 26 && nbit entry 29) x
        [rc, nbit entry 14, nbit entry 30, nbit entry 31] time
      let c := c.putChan p h
      match o with
      | some o => c.fltQueue p o
      | none => c

/-- LO, HI and HYS of comparator `k`. -/
def Chip.winBand (c : Chip) (k : Nat) : Int × Int × Int :=
  ((c.act (winReg k 4)).toInt, (c.act (winReg k 8)).toInt, (c.fld (winReg k 0xC) 0 24 : Nat))

/-- R288: LO + HYS ≤ HI − HYS. -/
def Chip.bandOk (c : Chip) (k : Nat) : Bool := let (lo, hi, hy) := c.winBand k; decide (lo + hy ≤ hi - hy)

/-- Comparator `k` changes state (Table 07-4): its counts clear. -/
def Chip.winTo (c : Chip) (k st : Nat) : Chip :=
  { c with sense.wins := upd c.sense.wins k fun _ => ⟨0, 0, 0⟩ }.setFld (winReg k 0x10) 0 2 st

/-- A trip (R285). -/
def Chip.winTrip (c : Chip) (k st : Nat) (v : Int) (chan time : Nat) : Chip :=
  let c := (c.winTo k st).setFld (winReg k 0x10) 8 6 chan
  let c := (c.incFld (winReg k 0x10) 16 16 1).setBit 0x40014404 k true
  ((c.setReg (winReg k 0x14) (BitVec.ofInt 32 v)).setReg (winReg k 0x18) (BitVec.ofNat 32 time)).raiseBoth k

/-- A re-entry (R286). -/
def Chip.winReenter (c : Chip) (k : Nat) : Chip :=
  let c := c.winTo k 1
  if c.bit (winReg k 0) 11 then c.setBit 0x40014408 k true else c

/-- One eligible value judged in state IN (Table 07-4). -/
def Chip.judgeIn (c : Chip) (k : Nat) (v : Int) (chan time : Nat) : Chip :=
  let (lo, hi, _) := c.winBand k
  let w := nth c.sense.wins k ⟨0, 0, 0⟩
  if v < lo ∨ hi < v then
    if c.fld (winReg k 0) 13 4 + 1 ≤ w.c + 1 then c.winTrip k (if v < lo then 2 else 3) v chan time
    else { c with sense.wins := upd c.sense.wins k fun w => { w with c := w.c + 1 } }
  else { c with sense.wins := upd c.sense.wins k fun w => { w with c := 0 } }

/-- One eligible value judged in OUT_LOW (`low`) or OUT_HIGH (Table 07-4). -/
def Chip.judgeOut (c : Chip) (k : Nat) (low : Bool) (v : Int) (chan time : Nat) : Chip :=
  let (lo, hi, hy) := c.winBand k
  let w := nth c.sense.wins k ⟨0, 0, 0⟩
  let deb := c.fld (winReg k 0) 13 4 + 1
  let r := if lo + hy ≤ v ∧ v ≤ hi - hy then w.r + 1 else 0
  let h := if (if low then hi < v else v < lo) then w.h + 1 else 0
  if deb ≤ r then c.winReenter k
  else if deb ≤ h then c.winTrip k (if low then 3 else 2) v chan time
  else { c with sense.wins := upd c.sense.wins k fun w => { w with r := r, h := h } }

/-- Comparator `k` judges an eligible value (R284). -/
def Chip.judge (c : Chip) (k : Nat) (v : Int) (chan time : Nat) : Chip :=
  match Machine.fld (c.reg (winReg k 0x10)) 0 2 with
  | 0 =>
    let (lo, hi, _) := c.winBand k
    if c.bit (winReg k 0) 12 then (c.winTo k 1).judgeIn k v chan time
    else if lo ≤ v ∧ v ≤ hi then c.winTo k 1 else c
  | 1 => c.judgeIn k v chan time
  | 2 => c.judgeOut k true v chan time
  | _ => c.judgeOut k false v chan time

/-- A raw word reaches the comparator its bead names (R282, R283). -/
def Chip.judgeRaw (c : Chip) (bead entry time : Nat) : Chip :=
  let k := nfld bead 38 4
  if c.bit (winReg k 0) 0 && !c.bit (winReg k 0) 1 && !nbit entry 15 && !nbit entry 30 then
    c.judge k (sext 14 entry * 256) (nfld entry 16 6) time
  else c

/-- A filter output reaches the comparators of its path and channel (R282, R283). -/
def Chip.judgePath (c : Chip) (p chan : Nat) (v : Int) (time : Nat) (settling refBad : Bool) : Chip :=
  (List.range 16).foldl (fun c k =>
    if c.bit (winReg k 0) 0 && c.bit (winReg k 0) 1 && decide (c.fld (winReg k 0) 2 3 = p ∧ c.fld (winReg k 0) 5 6 = chan) &&
        !settling && !refBad then c.judge k v chan time else c) c

/-- The comparators' interrupt (R287). -/
def Chip.winIrq (c : Chip) : Bool :=
  let en := (c.reg 0x4001440C).toNat
  decide (Nat.land (c.reg 0x40014404).toNat (en % 65536) ≠ 0 ∨ Nat.land (c.reg 0x40014408).toNat (en / 65536) ≠ 0)

/-- One entry of a circular array of 2^`lg` slots: its slot, or none where it is discarded; the registers of WR and RD, the place
of DROP and the policy (R259, R262). -/
def Chip.ringSlot (c : Chip) (wr rd dropReg lg : Nat) (overwrite : Bool) : Option Nat × Chip :=
  let w := Machine.fld (c.reg wr) 0 16 % 2 ^ lg
  let r := Machine.fld (c.reg rd) 0 16 % 2 ^ lg
  if (w + 1) % 2 ^ lg = r then
    let c := c.incFld dropReg 16 16 1
    if overwrite then (some w, c.setFld rd 0 16 ((r + 1) % 2 ^ lg)) else (none, c)
  else (some w, c)

/-- FILTER_OUTPUT's record (Table 07-3). -/
def fltRecord (p : Nat) (o : CicOut) (v : Int) : List Byte :=
  let f := fun (b : Bool) (i : Nat) => if b then 2 ^ i else 0
  leBytes 4 (tc 32 v) ++ leBytes 4 o.time ++
    leBytes 4 (o.chan + 64 * p + f o.settling 9 + f o.held 10 + f o.overBit 11 + f o.refBad 12 + f o.stale 13 + 2 ^ 14) ++ leBytes 4 o.seq

/-- FILTER_OUTPUT (R273 to R280, R285): the oldest output in process of path `p` is compensated and notched; its record is written to
the output buffer or dropped, and the comparators of the path judge it. -/
def execFilterOutput (p : Nat) (s : State) : Host.Outcome State Fault Refusal :=
  s.onChip fun c =>
    if 8 ≤ p then c
    else
      match (nth c.sense.flts p ⟨[], []⟩).queue with
      | [] => c
      | o :: rest =>
        let c : Chip := { c with sense.flts := upd c.sense.flts p fun f => { f with queue := rest } }
        let h := c.fltChan p o.chan
        let y := c.compOut p o.value h.xs h.ys
        let z := c.notchOut p y h.nx h.ny
        let v := clampI (-2147483648) 2147483647 z
        let o := { o with overBit := o.overBit || decide (v ≠ z) }
        let c := c.putChan p { h with
          xs := (o.value :: h.xs).take 32, ys := (y :: h.ys).take 2, nx := (y :: h.nx).take 2, ny := (z :: h.ny).take 2 }
        let (slot, c) := c.ringSlot (fltReg p 0x20) (fltReg p 0x24) (fltReg p 0x20) 8 (c.bit (fltReg p 0) 29)
        let c :=
          match slot with
          | some w => (c.pokeN (0x40018000 + 0x1000 * p + 16 * w) (fltRecord p o v)).setFld (fltReg p 0x20) 0 8 ((w + 1) % 256)
          | none => c
        c.judgePath p o.chan v o.time o.settling o.refBad

/-- A store to FLT_CFGp (R265, R267, R276, R289). -/
def Chip.fltStore (c : Chip) (port p : Nat) (v : Word) : Chip :=
  let a := fltReg p 0
  let was := c.bit a 0
  let d := c.storeReg port a v
  let total := ((List.range 8).filter fun q => d.bit (fltReg q 0) 0).foldl (fun m q => m + d.maskCount q) 0
  if !was && d.bit a 0 then
    if 32 < d.maskCount p ∨ 64 < total ∨ (d.bit a 25 = true ∧ d.notchBad p = true) then
      ((d.setBit a 0 false).misuse a).fltShow p
    else (d.fltRestart p).fltShow p
  else if was && !d.bit a 0 then
    (List.range 16).foldl (fun d k =>
      if d.bit (winReg k 0) 1 && decide (d.fld (winReg k 0) 2 3 = p) then d.winInert k else d) (d.fltShow p)
  else d.fltShow p

/-- FILTER_ENABLE (R265, R267, R276, R289). -/
def execFilterEnable (port p : Nat) (v : Word) (s : State) : Host.Outcome State Fault Refusal :=
  s.onChip fun c => if 8 ≤ p then c else c.store port (fltReg p 0) fun c => c.fltStore port p v

/-- A store to WIN_CFGk (`o` = 0), or to WIN_LOk, WIN_HIk or WIN_HYSk (`o` = 4, 8 or 12) (R288, R289). -/
def Chip.winStore (c : Chip) (port k o : Nat) (v : Word) : Chip :=
  let d := c.storeReg port (winReg k o) v
  if o = 0 then
    if !c.bit (winReg k 0) 0 && d.bit (winReg k 0) 0 && !d.bandOk k then
      ((d.setBit (winReg k 0) 0 false).setBit 0x40014400 1 true).misuse (winReg k 0)
    else if c.bit (winReg k 0) 0 && !d.bit (winReg k 0) 0 then d.winInert k
    else d
  else if c.bit (winReg k 0) 0 && !d.bandOk k then (c.setBit 0x40014400 1 true).misuse (winReg k 0)
  else d

/-- WINDOW_ENABLE (R288, R289). -/
def execWindowEnable (port k o : Nat) (v : Word) (s : State) : Host.Outcome State Fault Refusal :=
  s.onChip fun c =>
    if 16 ≤ k ∨ (o ≠ 0 ∧ o ≠ 4 ∧ o ≠ 8 ∧ o ≠ 12) then c else c.store port (winReg k o) fun c => c.winStore port k o v

/-- A line of the range is in a group that is being filled, or in retention that an access does not end (R61, R63). -/
def Chip.grpBlocked (c : Chip) (a len : Nat) : Bool :=
  decide (canon a < 0x800000) && (linesOf a len).any fun l =>
    let g := grpOf l
    let x := nth c.power.grp g .off
    decide (x = .filling) || (decide (x = .retained) && !(!c.power.grpHold && decide (c.fld 0x40000024 (2 * g) 2 = 1)))

/-- RING_ENTRY_WRITE (R260 to R263, R265): the oldest accepted entry goes to its destination ring. -/
def execRingEntryWrite (s : State) : Host.Outcome State Fault Refusal :=
  s.onChip fun c =>
    match c.sense.bridge with
    | [] => c
    | (n, w) :: rest =>
      let a := 0x40014800 + 0x10 * (n % 16)
      let c0 : Chip := { c with sense.bridge := rest }
      if !c.bit (a + 4) 0 then c0.incFld (a + 4) 16 16 1
      else
        let lg := c.fld (a + 4) 4 5
        match c0.ringSlot (a + 8) (a + 0xC) (a + 4) lg (c.bit (a + 4) 1) with
        | (none, c1) => c1
        | (some i, c1) =>
          let dst := (c.act a).toNat + 4 * i
          if c.grpBlocked dst 4 then c
          else
            match c1.write 41 (c1.portCls 41) dst (leBytes 4 w.toNat) with
            | (.ok _, c2) => c2.setReg (a + 8) (BitVec.ofNat 32 ((i + 1) % 2 ^ lg))
            | (_, c2) => c2.incFld (a + 4) 16 16 1

/-- A store to FLT_RINGn_CTL (R265). -/
def Chip.ringStore (c : Chip) (port n : Nat) (v : Word) : Chip :=
  let a := 0x40014804 + 0x10 * n
  let d := c.storeReg port a v
  if !c.bit a 0 && d.bit a 0 then
    if 0x800000 < (d.act (a - 4)).toNat + 4 * 2 ^ d.fld a 4 5 then (d.setBit a 0 false).misuse a else d.ringRestart n
  else d

/-- RING_ENABLE (R265). -/
def execRingEnable (port n : Nat) (v : Word) (s : State) : Host.Outcome State Fault Refusal :=
  s.onChip fun c => if 16 ≤ n then c else c.store port (0x40014804 + 0x10 * n) fun c => c.ringStore port n v

end Sys2Proof.Machine
end

