-- ==== Sys2Proof/Machine/Sequencer.lean ====
section
/-! DEFINITION. Beads, sequencers, Pendants, samples and the check list (06_converters_and_sequencing.md). An event whose
preconditions do not hold in the state leaves the block as it is (DESIGN CHOICE, log entry 5). -/
namespace Sys2Proof.Machine

/-- SFE_STATUS-style status bits of the sequencers: MISUSE 0, BAD_BEAD 1, QOVF 2. -/
def Chip.seqFlag (c : Chip) (i : Nat) : Chip := c.setBit 0x40010200 i true

/-- R210: a reserved channel code, START = 3, or bits [63:56] not zero. -/
def badBead (w : Nat) : Bool :=
  let ch := nfld w 0 6
  decide (ch = 0x27 ∨ 0x3C ≤ ch ∨ nfld w 52 2 = 3 ∨ nfld w 56 8 ≠ 0)

/-- Sequencer `n` counts as running for R211 and R222 (R220). -/
def Chip.seqRunning (c : Chip) (n : Nat) : Bool := c.bit (seqReg n 0) 0 || decide ((c.seq n).phase ≠ .stopped)

/-- A bead word may not be stored now (R211): `bank` 0 and 1 the Strand banks, 2 the Pendant memory. -/
def Chip.beadBusy (c : Chip) (n bank : Nat) : Bool := c.seqRunning n && decide (bank = 2 ∨ bank = c.abank n)

/-- The address of a bead's low word. -/
def beadAddr (n bank i : Nat) : Nat := seqReg n (0x400 + 0x400 * bank + 8 * i)

/-- A store to a bead's low word waits for its high word (R209); R98 and R211 apply to it too. -/
def Chip.beadLowStore (c : Chip) (port n bank i : Nat) (v : Word) : Chip :=
  let a := beadAddr n bank i
  if c.frozenReg port a || c.beadBusy n bank then c.seqFlag 0
  else c.onSeq n fun q => { q with beadLow := Sparse.put a v q.beadLow }

/-- A store to a bead's high word (R98, R209 to R211). -/
def Chip.beadHighStore (c : Chip) (port n bank i : Nat) (v : Word) : Chip :=
  let a := beadAddr n bank i
  if c.frozenReg port a || c.beadBusy n bank then c.seqFlag 0
  else
    let lo := (Sparse.find a (c.seq n).beadLow).getD (c.reg a)
    if badBead (lo.toNat + 2 ^ 32 * v.toNat) then (c.seqFlag 0).seqFlag 1
    else ((c.setReg a lo).setReg (a + 4) v).onSeq n fun q => { q with beadLow := Sparse.del a q.beadLow }

/-- BEAD_COMMIT (R210): a store to the high word of bead `i` of a bank of sequencer `n`. -/
def execBeadCommit (port n bank i : Nat) (v : Word) (s : State) : Host.Outcome State Fault Refusal :=
  s.onChip fun c =>
    if 2 ≤ n ∨ 3 ≤ bank ∨ (if bank = 2 then 16 else 128) ≤ i then c
    else c.store port (beadAddr n bank i + 4) fun c => c.beadHighStore port n bank i v

/-- Table 05-1: a channel code marked for MUXC. -/
def forMuxc (ch : Nat) : Bool := decide (ch ≤ 0x22 ∨ (0x24 ≤ ch ∧ ch ≤ 0x26))

/-- CHECK_BEAD_STORE (R235, R236, R210): Belfry stores both words of check-list bead `i`. -/
def execCheckBeadStore (i : Nat) (lo hi : Word) (s : State) : Host.Outcome State Fault Refusal :=
  s.onChip fun c =>
    if 32 ≤ i ∨ c.dom 1 = false then c
    else
      let w := lo.toNat + 2 ^ 32 * hi.toNat
      if Machine.bit (c.reg 0x22000100) 0 || badBead w || !forMuxc (nfld w 0 6) then c.setBit 0x40070000 9 true
      else (c.setReg (0x22000000 + 8 * i) lo).setReg (0x22000004 + 8 * i) hi

/-- A Strand starts at bead 0 of the active bank: a CONT bead settles from the second edge after the write, another waits (R219). -/
def Chip.seqStart (c : Chip) (n : Nat) : Chip :=
  let c := c.setBit (seqReg n 0) 0 true
  let cont := decide (nfld (c.beadAt n (c.abank n) 0) 52 2 = 0)
  (c.onSeq n fun q =>
    { q with phase := .wait, bead := 0, inPend := false, resume := .none
             due := if cont then some (c.now640 + 2 * c.pairDiv n) else none }).seqShow n

/-- A store to SEQn_CTL (R98, R218 to R222): SWAP acts on the state before the store, then RUN, then CLRCNT. -/
def Chip.seqCtlStore (c : Chip) (port n : Nat) (v : Word) : Chip :=
  let a := seqReg n 0
  if (decide (36 ≤ port ∧ port < 40) || (Machine.bit v 0 && !c.bit a 0)) && !c.phaseCPassed &&
      decide (v &&& 0x13 ≠ c.reg a &&& 1 ∨ v &&& 0xFFFFFFE0 ≠ 0) then c.seqFlag 0
  else
    let q := c.seq n
    let was := c.bit a 0
    let c := if v &&& 0xFFFFFFE0 ≠ 0 then c.seqFlag 0 else c
    let c :=
      if !Machine.bit v 1 then c
      else if was || decide (q.phase ≠ .stopped) then c.setBit a 3 true
      else c.setFld a 2 1 (1 - c.abank n)
    let c :=
      if Machine.bit v 0 = was then c
      else if Machine.bit v 0 then
        if q.stopping then (c.onSeq n fun q => { q with stopping := false }).setBit a 0 true
        else if !c.pairUp n then c.seqFlag 0
        else c.seqStart n
      else
        match q.phase with
        | .settle | .convert => (c.onSeq n fun q => { q with stopping := true }).setBit a 0 false
        | _ => c.seqStop n false
    if Machine.bit v 4 then ((c.setReg (a + 0x24) 0).setReg (a + 0x28) 0).setReg (a + 0x2C) 0 else c

/-- SEQn_CTL stored by `port`, with the bit that names the row set. -/
def State.seqCtl (s : State) (port n : Nat) (v : Word) : Host.Outcome State Fault Refusal :=
  s.onChip fun c => if 2 ≤ n then c else c.store port (seqReg n 0) fun c => c.seqCtlStore port n v

/-- SEQ_RUN_START (R219). -/
def execSeqRunStart (port n : Nat) (v : Word) (s : State) : Host.Outcome State Fault Refusal := s.seqCtl port n (v ||| 1)

/-- SEQ_RUN_STOP (R220). -/
def execSeqRunStop (port n : Nat) (v : Word) (s : State) : Host.Outcome State Fault Refusal :=
  s.seqCtl port n (v &&& 0xFFFFFFFE)

/-- SEQ_SWAP (R222). -/
def execSeqSwap (port n : Nat) (v : Word) (s : State) : Host.Outcome State Fault Refusal := s.seqCtl port n (v ||| 2)

/-- SEQ_CLRCNT (R218). -/
def execSeqClrcnt (port n : Nat) (v : Word) (s : State) : Host.Outcome State Fault Refusal := s.seqCtl port n (v ||| 0x10)

/-- SEQ_TIMER_TICK (R214, Table 06-4): timer `k` ticks, when it is enabled. -/
def execSeqTimerTick (k : Nat) (s : State) : Host.Outcome State Fault Refusal :=
  s.onChip fun c =>
    if 4 ≤ k ∨ c.dom 53 = false ∨ c.bit 0x40010204 k = false then c
    else ((c.startEvent 0 1 k 0).startEvent 1 1 k 0).raiseBoth (16 + k)

/-- PWMSYNC_EDGE (R215, Table 06-4): the edge is on its way to both sequencers as a PWM event and as a trigger. -/
def execPwmsyncEdge (rising : Bool) (s : State) : Host.Outcome State Fault Refusal :=
  s.onChip fun c =>
    if c.dom 53 then (c.raisePwm (if rising then 2 else 3)).raiseBoth (if rising then 22 else 23) else c

/-- PWM_START_EVENT (R215, R218): PWM event `src` arrives at sequencer `n`. -/
def execPwmStartEvent (n src : Nat) (s : State) : Host.Outcome State Fault Refusal :=
  s.onChip fun c =>
    if (c.seq n).pwm.contains src then
      let c := c.onSeq n fun q => { q with pwm := q.pwm.filter fun x => decide (x ≠ src) }
      c.startEvent n 2 src (c.fld (seqReg n 0x1C) 0 16)
    else c

/-- SETTLE_END (R216, R233): the bead's conversions begin; a bead whose settling is due begins it first. -/
def execSettleEnd (n : Nat) (s : State) : Host.Outcome State Fault Refusal :=
  s.onChip fun c =>
    if 2 ≤ n ∨ c.pairUp n = false ∨ c.dom 53 = false then c
    else
      let c :=
        match (c.seq n).phase, (c.seq n).due with
        | .wait, some t => if (c.seq n).launching = none then c.beginBead n (c.seq n).bead false t else c
        | _, _ => c
      let q := c.seq n
      if q.phase ≠ .settle then c
      else
        let w := c.curBead n
        let r : BeadRun :=
          { word := w, idx := q.bead, pend := q.inPend, start := q.start, div := c.pairDiv n, id := q.nextId
            total := nfld w 6 12 + 1, out := 0, aborted := false }
        let c := c.onSeq n fun q => { q with phase := .convert, runs := q.runs ++ [r], nextId := q.nextId + 1 }
        let c := if nbit w 50 then c.pushEvt n (evtRec (q.start + nfld w 18 16 * r.div) q.bead q.inPend 0 false false 0) else c
        c.seqShow n

/-- A conversion of CELLk or CELL(k+1) at clock `t` falls in an open-wire sink of another output, or within 20 µs of it (R162). -/
def nearSink (cell t : Nat) (ow : List (Nat × Nat × Option Nat)) : Bool :=
  ow.any fun x => decide (cell = x.1 ∨ cell = x.1 + 1) && decide (x.2.1 ≤ t) &&
    match x.2.2 with
    | none => true
    | some e => decide (t ≤ e + 12800)

/-- The CELL number of a channel code, for R162. -/
def cellOf (ch : Nat) : Option Nat := if ch < 20 then some (ch + 1) else none

/-- A 16-bit signed field of a register. -/
def Chip.sfld (c : Chip) (a lo : Nat) : Int := sext 16 (c.fld a lo 16)

/-- R240: the corrected result of converter `adc` in LSB, before clamping; `odd` in an ILV = 1 bead, `zoff` in 1/8 LSB. -/
def Chip.correct (c : Chip) (adc : Nat) (odd : Bool) (raw zoff : Int) : Int :=
  let a := 0x40010140 + 0x20 * adc
  let doff := if odd then c.sfld (a + 4) 16 else 0
  let dgain := if odd then c.sfld (a + 8) 0 else 0
  shrEven ((64 * raw - 4 * c.sfld a 0 - doff) * (2 ^ 20 + c.sfld a 16 + dgain) - zoff * 2 ^ 23) 26

/-- A PGA's stored zero offset at a gain code (06, ADC_ZOFF0 to ADC_ZOFF3). -/
def Chip.zoff (c : Chip) (n g : Nat) : Int := c.sfld (0x40010120 + 8 * n + 4 * (g / 2)) (16 * (g % 2))

/-- The ring entry of the next word of run `r` on pair `n` (Table 06-2), with its tracking clock (R205 to R207, R216, R162, R165,
R172). -/
def Chip.ringEntry (c : Chip) (n : Nat) (r : BeadRun) (raw : Int) : Nat × Nat :=
  let w := r.word
  let ch := nfld w 0 6
  let g := nfld w 48 2
  let ilv := nbit w 47
  let odd := ilv && decide (r.out % 2 = 1)
  let adc := 2 * n + (if odd then 1 else 0)
  let t := r.start + nfld w 18 16 * r.div + (if ilv then r.out * r.div / 2 else r.out * r.div)
  let isns := usesPga w
  let v := c.correct adc odd raw (if isns then c.zoff n g else 0)
  let or := decide (raw < -8192 ∨ 8191 < raw ∨ v < -8192 ∨ 8191 < v)
  let code := if 8191 < raw then 8191 else if raw < -8192 then -8192 else clampI (-8192) 8191 v
  let q := c.seq n
  let rc := (match cellOf ch with | some k => nearSink k t (c.seq (1 - n)).ow | none => false) ||
    (isns && q.gainAt.any fun x => decide (x ≤ t ∧ t < x + 1600))
  let refBad := !settledAt (Machine.bit (c.reg 0x40010000) 1) c.sense.refaSet c.sense.refaClr t
  let val := fun i => Machine.bit (c.reg 0x40010110) i
  let stale := !val adc || (odd && !val (4 + n)) || (isns && !val (6 + n))
  let f := fun (b : Bool) (i : Nat) => if b then 2 ^ i else 0
  (tc 14 code + f or 14 + f rc 15 + 65536 * ch + 2 ^ 22 * r.idx + f (r.aborted && decide (r.out + 1 = r.total)) 29 +
    f refBad 30 + f stale 31, t)

/-- An entry joins the transmit staging buffer, or is dropped (R224). -/
def Chip.stagePut (c : Chip) (n entry t ring run : Nat) : Chip :=
  let q := c.seq n
  if 1024 ≤ q.stage.length then (c.onSeq n fun q => { q with cut := true }).incFld (seqReg n 0x28) 16 16 1
  else c.onSeq n fun q => { q with stage := q.stage ++ [⟨BitVec.ofNat 32 entry, t, ring, run, q.cut⟩], cut := false }

/-- SAMPLE_WORD_OUT (R200, R205 to R207, R224, R257, R266, R282): the oldest word of pair `n`'s pipeline leaves it; `raw` is the
converter's raw result in LSB. -/
def execSampleWordOut (n : Nat) (raw : Int) (s : State) : Host.Outcome State Fault Refusal :=
  s.onChip fun c =>
    if 2 ≤ n ∨ c.pairUp n = false ∨ c.dom 53 = false then c
    else
      match (c.seq n).runs with
      | [] => c
      | r :: rest =>
        let (e, t) := c.ringEntry n r raw
        let rest := if r.total ≤ r.out + 1 then rest else { r with out := r.out + 1 } :: rest
        let c := (c.onSeq n fun q => { q with runs := rest }).stagePut n e t (nfld r.word 43 4) r.id
        let c := if nbit r.word 37 then c.fltInput n r.word e (t / 8 % 2 ^ 32) else c
        if nbit r.word 42 then c.judgeRaw r.word e (t / 8 % 2 ^ 32) else c

/-- The Strand bead after bead `i` (R212, R222): at a loop a waiting switch of banks is made. -/
def Chip.strandNext (c : Chip) (n i : Nat) (last : Bool) : Nat × Chip :=
  if last || decide (127 ≤ i) then
    let a := seqReg n 0
    (0, if Machine.bit (c.reg a) 3 then (c.setFld a 2 1 (1 - c.abank n)).setBit a 3 false else c)
  else (i + 1, c)

/-- BEAD_RUN_END (R213, R216, R220, R226, R230): the run of sequencer `n` ends; `atLaunch` says that this edge is the edge E of a
trigger that launches. -/
def execBeadRunEnd (n : Nat) (atLaunch : Bool) (s : State) : Host.Outcome State Fault Refusal :=
  s.onChip fun c =>
    let q := c.seq n
    if 2 ≤ n ∨ q.phase ≠ .convert then c
    else
      let last := nbit (c.curBead n) 51
      let c := c.onSeq n fun q => q.stopSink c.now640
      if q.stopping then c.seqStop n false
      else if q.inPend then
        if last || decide (15 ≤ q.bead) then ((c.onSeq n fun q => { q with phase := .wait }).seqShow n).balDrive
        else c.beginBead n (q.bead + 1) true c.now640
      else
        let (i, c) := c.strandNext n q.bead last
        if atLaunch && q.launching.isSome then
          ((c.onSeq n fun q => { q with phase := .wait, bead := i, due := none }).seqShow n).balDrive
        else (c.arriveBead n i).balDrive

/-- PENDANT_TRIGGER (R220, R226, R231, R232, R241): raised trigger `t` arrives at sequencer `n`. -/
def execPendantTrigger (n t : Nat) (s : State) : Host.Outcome State Fault Refusal :=
  s.onChip fun c =>
    if !(c.seq n).raised.contains t then c
    else
      let c := c.onSeq n fun q => { q with raised := q.raised.erase t }
      let q := c.seq n
      let cal := Machine.bit (c.reg 0x40010100) 1
      if !c.bit (seqReg n 0) 0 || decide (q.phase = .stopped) then c
      else if q.inPend || q.launching.isSome || cal || !q.queue.isEmpty then
        if 4 ≤ q.queue.length then (c.incFld (seqReg n 0x24) 16 16 1).seqFlag 2
        else
          let c := (c.onSeq n fun q => { q with queue := q.queue ++ [⟨t, cal, c.now640⟩] }).seqShow n
          if cal then c.incFld (seqReg n 0x2C) 16 16 1 else c
      else c.onSeq n fun q => { q with launching := some t }

/-- A store to SEQn_SWTRIG (R226). -/
def Chip.swtrigStore (c : Chip) (port n : Nat) (v : Word) : Chip :=
  let a := seqReg n 0x20
  let d := c.storeReg port a v
  if Machine.bit v 0 && !c.frozenReg port a then d.raiseTrig n 24 else d

/-- SEQ_SWTRIG (R226). -/
def execSeqSwtrig (port n : Nat) (v : Word) (s : State) : Host.Outcome State Fault Refusal :=
  s.onChip fun c => if 2 ≤ n then c else c.store port (seqReg n 0x20) fun c => c.swtrigStore port n v

/-- PENDANT_LAUNCH (R227, R229, R233): the edge E of the trigger that sequencer `n` is to launch. -/
def execPendantLaunch (n : Nat) (s : State) : Host.Outcome State Fault Refusal :=
  s.onChip fun c =>
    match (c.seq n).launching with
    | none => c
    | some t =>
      if c.bit (seqReg n 0) 0 then (c.strandYield n).launchPendant n t false false 2
      else c.onSeq n fun q => { q with launching := none }

/-- PENDANT_END (R230): after the last run of a Pendant a waiting CAL, the next queued Pendant or the Strand follows. -/
def execPendantEnd (n : Nat) (s : State) : Host.Outcome State Fault Refusal :=
  s.onChip fun c =>
    let q := c.seq n
    if q.phase = .wait ∧ q.inPend = true then
      let c := c.onSeq n fun q => { q with inPend := false, bead := q.strandBead }
      if Machine.bit (c.reg 0x40010100) 1 then c.seqShow n else (c.nextPendant n).seqShow n
    else c

/-- What a read of SEQn_EVT_LO returns and does (R234). -/
def Chip.evtLoad (c : Chip) (n : Nat) : Nat × Chip :=
  let e := (c.seq n).evt.headD 0
  let c := c.onSeq n fun q => { q with evt := q.evt.drop 1 }
  (e % 2 ^ 32, c.setReg (seqReg n 0x34) (BitVec.ofNat 32 (e / 2 ^ 32)))

/-- EVT_LO_READ (R234). -/
def execEvtLoRead (port n : Nat) (s : State) : Host.Outcome State Fault Refusal :=
  s.onChip fun c =>
    if 2 ≤ n then c
    else c.load port (seqReg n 0x30) fun c => let (x, c) := c.evtLoad n; c.respond (leBytes 4 x)

/-- The check-list bead word at index `i`. -/
def Chip.chkBead (c : Chip) (i : Nat) : Nat := (c.reg (0x22000000 + 8 * i)).toNat + 2 ^ 32 * (c.reg (0x22000004 + 8 * i)).toNat

/-- CHECK_LIST_RUN (R235): Belfry sets BPR_CHKCTL.RUN. -/
def execCheckListRun (s : State) : Host.Outcome State Fault Refusal :=
  s.onChip fun c =>
    if c.dom 1 = false ∨ Machine.bit (c.reg 0x22000100) 0 = true then c
    else
      { c with sense.chk := { c.sense.chk with bead := 0, conv := 0, clk := c.sense.chk.clk + 2 + nfld (c.chkBead 0) 18 16 } }.setBit
        0x22000100 0 true

/-- The ADC4 ring entry (Table 06-2, R203, R206, R207, R237, R254) of raw 12-bit result `raw`, tracked 3.5 µs ago. -/
def Chip.adc4Entry (c : Chip) (raw : Int) : Nat :=
  let k := c.sense.chk
  let ch := nfld (c.chkBead k.bead) 0 6
  let t := c.now640 - 2240
  let v := shrEven ((16 * raw - c.sfld 0x400101E0 0) * (2 ^ 20 + c.sfld 0x400101E0 16)) 24
  let or := decide (raw < -2048 ∨ 2047 < raw ∨ v < -2048 ∨ 2047 < v)
  let code := if 2047 < raw then 2047 else if raw < -2048 then -2048 else clampI (-2048) 2047 v
  let rc := match cellOf ch with
    | some n => nearSink n t ((c.seq 0).ow ++ (c.seq 1).ow)
    | none => false
  let refBad := !settledAt (Machine.bit (c.reg 0x40010000) 2) c.sense.refbSet c.sense.refbClr t
  let f := fun (b : Bool) (i : Nat) => if b then 2 ^ i else 0
  4 * tc 12 code + f or 14 + f rc 15 + 65536 * ch + 2 ^ 22 * k.bead + f refBad 30 + f (!Machine.bit (c.reg 0x40010110) 8) 31

/-- ADC4_WORD_OUT (R203, R212, R216, R235): a word leaves the check converter, and the list advances. -/
def execAdc4WordOut (raw : Int) (s : State) : Host.Outcome State Fault Refusal :=
  s.onChip fun c =>
    if c.dom 58 = false ∨ Machine.bit (c.reg 0x22000100) 0 = false then c
    else
      let k := c.sense.chk
      let w := c.chkBead k.bead
      let out := k.out ++ [(BitVec.ofNat 32 (c.adc4Entry raw), k.clk)]
      let k' : Chk :=
        if k.conv < nfld w 6 12 then { k with conv := k.conv + 1, out := out, clk := k.clk + 1 }
        else
          let i := if nbit w 51 || decide (31 ≤ k.bead) then 0 else k.bead + 1
          { bead := i, conv := 0, out := out, clk := k.clk + 1 + nfld (c.chkBead i) 18 16 }
      { c with sense.chk := k' }

end Sys2Proof.Machine
end

