-- ==== Sys2Proof/Machine/Calibration.lean ====
section
/-! DEFINITION. The CAL command and its phases, and the calibration of ADC4 (06_converters_and_sequencing.md, "Calibration"). The
measured factors and codes come with the command (DESIGN CHOICE, log entry 2). -/
namespace Sys2Proof.Machine

/-- A store to ADC_CALCMD (R238, R239). -/
def Chip.calStore (c : Chip) (v : Word) : Chip :=
  let phases := (List.range 5).filter fun i => Machine.bit v i
  if Machine.bit (c.reg 0x40010100) 1 || !c.phaseCPassed || phases.isEmpty then c.setBit 0x40010100 0 true
  else
    let c := if v &&& 0xFFFFFFC0 ≠ 0 then c.setBit 0x40010100 0 true else c
    ({ c with sense.cal := ⟨phases, Machine.bit v 5, false⟩ }.setReg 0x4001010C 0).setBit 0x40010100 1 true

/-- CAL_COMMAND (R238, R239). -/
def execCalCommand (port : Nat) (v : Word) (s : State) : Host.Outcome State Fault Refusal :=
  s.onChip fun c => c.store port 0x40010104 fun c => c.calStore v

/-- A sequencer is taken by the CAL (R227, R229, R232, R241). -/
def Chip.calTake (c : Chip) (n : Nat) : Chip :=
  let q := c.seq n
  if q.phase = .stopped then c
  else
    let c :=
      match q.launching with
      | some t =>
        let x : Queued := ⟨t, true, c.now640⟩
        let c := (c.onSeq n fun q => { q with launching := none, queue := (x :: q.queue).take 4 }).incFld (seqReg n 0x2C) 16 16 1
        if 4 ≤ q.queue.length then (c.incFld (seqReg n 0x24) 16 16 1).seqFlag 2 else c
      | none => c
    let c := c.strandYield n
    let hold := fun (x : Queued) => { x with held := true }
    let c := c.onSeq n fun q => { q with phase := .wait, calHold := true, due := none, queue := q.queue.map hold }
    (c.seqShow n).balDrive

/-- Pendants that waited for a CAL which never took the sequencer are launched, or the Strand goes on (R242, R243). -/
def Chip.calPass (c : Chip) (n : Nat) : Chip :=
  let q := c.seq n
  if q.phase = .stopped then c
  else if !q.queue.isEmpty then ((c.strandYield n).nextPendant n).seqShow n
  else if q.phase = .wait ∧ q.resume ≠ .none then (c.strandResume n).seqShow n
  else c

/-- CAL_START (R241, R243): with REF_A settled CAL takes both sequencers, once no Pendant runs on either. -/
def execCalStart (s : State) : Host.Outcome State Fault Refusal :=
  s.onChip fun c =>
    let k := c.sense.cal
    if k.started || k.req.isEmpty || (c.seq 0).inPend || (c.seq 1).inPend then c
    else if Machine.bit (c.reg 0x40010000) 1 then
      ({ (c.calTake 0).calTake 1 with sense.cal.started := true }.calNext).tdacDrive
    else
      let c := k.req.foldl (fun c p => c.calStat p 3) c
      let c : Chip := { c with sense.cal := ⟨[], false, false⟩ }
      (((c.setBit 0x40010100 1 false).setBit 0x40010100 2 true).calPass 0).calPass 1

/-- The phase in progress is `p`. -/
def Chip.calAt (c : Chip) (p : Nat) : Bool :=
  c.sense.cal.started && match c.sense.cal.req with | x :: r => decide (x = p ∨ (x = 3 ∧ p = 4 ∧ r = [4])) | [] => false

/-- A signed 16-bit factor fits its field (R246). -/
def fits16 (x : Int) : Bool := decide (-32768 ≤ x ∧ x ≤ 32767)

/-- CAL_CONV (R245, R246): for each of ADC0 to ADC3 the measured OFFSET, GAIN and STAGE0 to STAGE4. -/
def execCalConv (m : List (List Int)) (s : State) : Host.Outcome State Fault Refusal :=
  s.onChip fun c =>
    if !c.calAt 0 then c
    else if (List.range 4).any fun n => let r := nth m n []; !fits16 (nth r 0 0) || !fits16 (nth r 1 0) then c.calPhase 0 6
    else
      let c := (List.range 4).foldl (fun c n =>
        let r := nth m n []
        let a := 0x40010140 + 0x20 * n
        let c := c.setReg a (BitVec.ofNat 32 (tc 16 (nth r 0 0) + 65536 * tc 16 (nth r 1 0)))
        (List.range 5).foldl (fun c i => c.setReg (a + 12 + 4 * i) (BitVec.ofInt 32 (nth r (2 + i) 0))) c) c
      (c.setFld 0x40010110 0 4 15).calPhase 0 2

/-- An interleave phase of pair `n` ends with the measured SKEW, DOFF and DGAIN (R249, R250): not while it waits for the test DAC. -/
def Chip.calIlv (c : Chip) (n : Nat) (m : List Int) : Chip :=
  if !c.calAt (1 + n) || Machine.bit (c.reg 0x40010100) 3 then c
  else if !fits16 (nth m 0 0) || !fits16 (nth m 1 0) || !fits16 (nth m 2 0) then c.calPhase (1 + n) 6
  else
    let a := 0x40010160 + 0x40 * n
    let c := (c.setReg (a + 4) (BitVec.ofNat 32 (tc 16 (nth m 0 0) + 65536 * tc 16 (nth m 1 0)))).setFld (a + 8) 0 16 (tc 16 (nth m 2 0))
    (c.setBit 0x40010110 (4 + n) true).calPhase (1 + n) 2

/-- CAL_ILV01 (R249, R250). -/
def execCalIlv01 (m : List Int) (s : State) : Host.Outcome State Fault Refusal := s.onChip fun c => c.calIlv 0 m

/-- CAL_ILV23 (R249, R250). -/
def execCalIlv23 (m : List Int) (s : State) : Host.Outcome State Fault Refusal := s.onChip fun c => c.calIlv 1 m

/-- The noise figure of Table 05-5 at a gain code, in 0.1 µV. -/
def gainNoise (g : Nat) : Nat := nth [600, 150, 40, 12] g 0

/-- The samples of one gain as the zero phase corrects them, and whether one carries OR (R206, R240); no zero offset is applied. -/
def Chip.zeroSamples (c : Chip) (n : Nat) (raw : List Int) : List Int × Bool :=
  let v := raw.map fun r => c.correct (2 * n) false r 0
  (v.map (clampI (-8192) 8191),
   (raw.zip v).any fun x => decide (x.1 < -8192 ∨ 8191 < x.1 ∨ x.2 < -8192 ∨ 8191 < x.2))

/-- R252's limits broken at gain code `g`: the mean beyond 2 mV, the rms deviation beyond ZNOISE / 4 times the noise, or OR. One
LSB is 39.0625 µV ÷ 4^g. -/
def zeroBreach (znoise g : Nat) (v : List Int) (or : Bool) : Bool :=
  let n : Int := v.length
  let sum := v.foldl (· + ·) 0
  let sq := v.foldl (fun a x => a + x * x) 0
  let k : Int := (10000 * 4 ^ g : Nat)
  or || v.isEmpty || decide (2000 * k * n < 390625 * sum.natAbs) ||
    decide (((znoise * gainNoise g : Nat) : Int) ^ 2 * k ^ 2 * n ^ 2 < (n * sq - sum * sum) * 390625 ^ 2 * 1600)

/-- The mean in 1/8 LSB, rounded to nearest with ties to even. -/
def zeroMean (v : List Int) : Int := divEven (8 * v.foldl (· + ·) 0) v.length

/-- A zero phase of PGA `n` ends, from the raw codes of its four gains (R251 to R253). -/
def Chip.calZero (c : Chip) (n : Nat) (codes : List (List Int)) : Chip :=
  if !c.calAt (3 + n) then c
  else
    let vs := (List.range 4).map fun g => c.zeroSamples n (nth codes g [])
    let z := c.fld 0x40010108 0 6
    if (List.range 4).any fun g => zeroBreach z g (nth vs g ([], true)).1 (nth vs g ([], true)).2 then
      c.calPhase (3 + n) (if c.sense.cal.zint then 6 else 4)
    else
      let off := fun g => tc 16 (zeroMean (nth vs g ([], true)).1)
      let a := 0x40010120 + 8 * n
      let c := (c.setReg a (BitVec.ofNat 32 (off 0 + 65536 * off 1))).setReg (a + 4) (BitVec.ofNat 32 (off 2 + 65536 * off 3))
      (c.setBit 0x40010110 (6 + n) true).calPhase (3 + n) 2

/-- CAL_ZERO_A (R251 to R253). -/
def execCalZeroA (codes : List (List Int)) (s : State) : Host.Outcome State Fault Refusal := s.onChip fun c => c.calZero 0 codes

/-- CAL_ZERO_B (R251 to R253). -/
def execCalZeroB (codes : List (List Int)) (s : State) : Host.Outcome State Fault Refusal := s.onChip fun c => c.calZero 1 codes

/-- ADC4_CAL (R254): the measured OFFSET, GAIN and STAGE0 to STAGE4. Until REF_B has settled Belfry waits; a factor beyond its field
ends the calibration other than OK, which at start-up leaves SECTION = CAL4. -/
def execAdc4Cal (m : List Int) (s : State) : Host.Outcome State Fault Refusal :=
  s.onChip fun c =>
    if c.dom 1 = false ∨ c.dom 58 = false ∨ Machine.bit (c.reg 0x40010000) 2 = false then c
    else if !fits16 (nth m 0 0) || !fits16 (nth m 1 0) then
      if c.saf = 0 ∧ Machine.fld (c.reg 0x40070004) 8 4 = 0 then c.setFld 0x40070004 8 4 7 else c
    else
      let a := 0x400101E0
      let c := c.setReg a (BitVec.ofNat 32 (tc 16 (nth m 0 0) + 65536 * tc 16 (nth m 1 0)))
      let c := (List.range 5).foldl (fun c i => c.setReg (a + 12 + 4 * i) (BitVec.ofInt 32 (nth m (2 + i) 0))) c
      c.setBit 0x40010110 8 true

end Sys2Proof.Machine
end

