-- ==== Sys2Proof/Machine/SenseDie.lean ====
section
/-! DEFINITION. References, the test DAC, balancing gates and the die-to-die link (05_sense_front_end.md). -/
namespace Sys2Proof.Machine

/-- REFA_SETTLED (R170, R171): the monitor counts only while REF_B is settled. A REFA_FAULT marking ends (Table 19-3). -/
def execRefaSettled (s : State) : Host.Outcome State Fault Refusal :=
  s.onChip fun c =>
    if c.dom 59 = false ∨ Machine.bit (c.reg 0x40010000) 2 = false ∨ Machine.bit (c.reg 0x40010000) 1 = true then c
    else
      let c := c.setRefA true
      if Machine.bit (c.reg 0x40070040) 10 then c.endMark 10 else c

/-- REFA_FAULT (R171, R244, Table 19-3 code 10). -/
def execRefaFault (s : State) : Host.Outcome State Fault Refusal :=
  s.onChip fun c =>
    if Machine.bit (c.reg 0x40010000) 1 then ((c.setRefA false).setBit 0x40010000 3 true).calRefLost.cause .marked 10 0 else c

/-- REFB_SETTLED (R174). -/
def execRefbSettled (s : State) : Host.Outcome State Fault Refusal :=
  s.onChip fun c => if c.dom 60 && !Machine.bit (c.reg 0x40010000) 2 then c.setRefB true else c

/-- A store to SFE_TDAC: an interleave phase only delays what it applies (R176, R177, R250). -/
def Chip.tdacStore (c : Chip) (port : Nat) (v : Word) : Chip :=
  let c := c.storeReg port 0x40010018 v
  if c.calAt 1 || c.calAt 2 then c else { c with sense.tdac := c.act 0x40010018 }.tdacDrive

/-- SFE_TDAC_WRITE (R176, R177, R250). -/
def execSfeTdacWrite (port : Nat) (v : Word) (s : State) : Host.Outcome State Fault Refusal :=
  s.onChip fun c => c.store port 0x40010018 fun c => c.tdacStore port v

/-- TDAC_HOLD (R177, R250): Belfry takes the test DAC, but not from an interleave phase that drives it. -/
def execTdacHold (s : State) : Host.Outcome State Fault Refusal :=
  s.onChip fun c =>
    if c.dom 1 = false ∨ ((c.calAt 1 || c.calAt 2) = true ∧ Machine.bit (c.reg 0x40010100) 3 = false) then c
    else (c.setBit 0x40010000 5 true).tdacDrive

/-- TDAC_RELEASE (R177, R250): the earlier SFE_TDAC value is applied again, and a waiting interleave phase goes on. -/
def execTdacRelease (s : State) : Host.Outcome State Fault Refusal :=
  s.onChip fun c =>
    if Machine.bit (c.reg 0x40010000) 5 then
      { (c.setBit 0x40010000 5 false).setBit 0x40010100 3 false with sense.tdac := c.act 0x40010018 }.tdacDrive
    else c

/-- BAL_HALF_PERIOD (R182, Table 06-4): staggered even channels with an on-count switch on, and the half-period event is raised. -/
def execBalHalfPeriod (s : State) : Host.Outcome State Fault Refusal :=
  s.onChip fun c =>
    if c.dom 53 = false then c
    else
      let b := c.sense.bal
      let even := fun i => b.stagger && decide (i % 2 = 1) && decide (4096 ≤ nth b.duty i 0 * b.period)
      let on := (List.range 20).map fun i => nth b.on i false || even i
      (({ c with sense.bal.on := on }.balDrive).raiseBoth 21).raisePwm 1

/-- BAL_CHANNEL_OFF (R182): channel `k`'s on-count ends. -/
def execBalChannelOff (k : Nat) (s : State) : Host.Outcome State Fault Refusal :=
  s.onChip fun c =>
    if 1 ≤ k ∧ k ≤ 20 then { c with sense.bal.on := upd c.sense.bal.on (k - 1) fun _ => false }.balDrive else c

/-- BAL_CONDITION_LOSS (R180). -/
def execBalConditionLoss (s : State) : Host.Outcome State Fault Refusal := s.onChip Chip.balCheck

/-- A store to SFE_BAL_DUTYk, used from the next period start (R183, R186). -/
def Chip.dutyStore (c : Chip) (port k : Nat) (v : Word) : Chip :=
  let a := 0x40010040 + 4 * (k - 1)
  let c := c.storeReg port a v
  if c.fld 0x40010004 8 5 < k ∧ Machine.fld v 0 12 ≠ 0 then c.misuse a else c

/-- BAL_DUTY_WRITE (R183, R186). -/
def execBalDutyWrite (port k : Nat) (v : Word) (s : State) : Host.Outcome State Fault Refusal :=
  s.onChip fun c => if k = 0 ∨ 20 < k then c else c.store port (0x40010040 + 4 * (k - 1)) fun c => c.dutyStore port k v

/-- D2D_FRAME_SEND (R187, R190, R191, R223, R224): the next main-link frame leaves the sense die. -/
def execD2dFrameSend (s : State) : Host.Outcome State Fault Refusal :=
  s.onChip fun c =>
    if c.dom 53 = false then c
    else
      let n := if (c.seq (1 - c.sense.turn)).stage.isEmpty then c.sense.turn else 1 - c.sense.turn
      let es := frameTake 13 (c.seq n).stage
      let sink := (List.range 2).any fun n => (c.seq n).ow.any fun x => decide (x.2.2 = none)
      let st := Machine.fld (c.reg 0x40010000) 1 1 + 2 * Machine.fld (c.reg 0x40010000) 4 1 + (if sink then 4 else 0)
      let ring := match es with | e :: _ => e.ring | [] => 0
      let f := mainFrame (c.sense.main.tx % 65536) ring es st
      let c := if es.isEmpty then c else c.onSeq n fun q => { q with stage := q.stage.drop es.length }
      { c with sense.turn := n, sense.main := { c.sense.main with tx := c.sense.main.tx + 1, wire := c.sense.main.wire ++ [f] } }

/-- CHECK_FRAME_SEND (R188, R190, R191): the next check-lane frame leaves the sense die. -/
def execCheckFrameSend (s : State) : Host.Outcome State Fault Refusal :=
  s.onChip fun c =>
    if c.dom 1 = false then c
    else
      let es := c.sense.chk.out.take 2
      let f := checkFrame (c.sense.check.tx % 65536) (Machine.fld (c.reg 0x40010000) 2 1) es
      { c with sense.chk := { c.sense.chk with out := c.sense.chk.out.drop 2 }
               sense.check := { c.sense.check with tx := c.sense.check.tx + 1, wire := c.sense.check.wire ++ [f] } }

/-- What arrives for the oldest frame on the wire: the frame as sent, other bytes, or nothing. -/
def arrived (wire : Option (List Byte)) (sent : List Byte) : List Byte := wire.getD sent

/-- A main-link frame passes R192's checks. -/
def mainFrameOk (f : List Byte) : Bool :=
  let ty := leAt f 2 1 % 16
  let n := leAt f 3 1
  decide (f.length = 64) && decide (crc16From 0xFFFF (f.take 62) = leAt f 62 2) &&
    decide ((ty = 0 ∧ 1 ≤ n ∧ n ≤ 13) ∨ (ty = 1 ∧ n = 0))

/-- A main-link frame is dropped (R192, R194): more than 16 within 1 ms degrade the link. -/
def Chip.mainDrop (c : Chip) (f : List Byte) : Chip :=
  let now := c.now640
  let ds := (now :: c.sense.main.drops).filter fun t => decide (now < t + 640000)
  let c : Chip := { (c.incFld 0x4001001C 0 16 1).frameSeen 0 (leAt f 0 2) true false with
    sense.main := { c.sense.main with drops := ds } }
  if 16 < ds.length then
    let c := (c.setBit 0x40010000 7 true)
    if Machine.bit (c.reg 0x40070040) 9 then c else c.cause .marked 9 0
  else c

/-- D2D_FRAME_RECEIVE (R192 to R194, R260, R686): the oldest main-link frame reaches the receiver, as `wire` says. -/
def execD2dFrameReceive (wire : Option (List Byte)) (s : State) : Host.Outcome State Fault Refusal :=
  s.onChip fun c =>
    match c.sense.main.wire with
    | [] => c
    | sent :: rest =>
      let f := arrived wire sent
      let c : Chip := { c with sense.main := { c.sense.main with wire := rest } }
      if f.isEmpty then c
      else if !mainFrameOk f then c.mainDrop f
      else
        let n := leAt f 3 1
        let es := (List.range n).map fun i => leAt f (8 + 4 * i) 4
        let (gap, l) := c.sense.main.accept (leAt f 0 2) es
        let c : Chip := { c with
          sense.main := { l with lastAt := c.now640 }
          sense.bridge := c.sense.bridge ++ es.map fun e => (leAt f 2 1 / 16, BitVec.ofNat 32 e) }
        ((c.incFld 0x4001001C 16 16 gap).setBit 0x40010000 6 true).armShow.frameSeen 0 (leAt f 0 2) false (decide (0 < gap))

end Sys2Proof.Machine
end

