-- ==== Sys2Proof/Machine/Nvm.lean ====
section
/-! DEFINITION. The xSPI NOR device: its bytes, the commit protocol of its stores, and the XSPI commands
(04_configuration_image.md). An interrupted program or erase leaves free bytes in its range (Table 09 of that chapter, R141). -/
namespace Sys2Proof.Machine

/-- One byte of the NVM; unlisted bytes are erased. -/
def State.nvmByte (s : State) (a : Nat) : Byte := (Sparse.find a s.nvm).getD 0xFF

/-- `n` bytes of the NVM. -/
def State.nvmRead (s : State) (a n : Nat) : List Byte := (List.range n).map fun i => s.nvmByte (a + i)

/-- A little-endian number in the NVM. -/
def State.nvmLe (s : State) (a n : Nat) : Nat := leNat (s.nvmRead a n)

/-- The cells of bytes that are not erased, from address `a` up. -/
def cellsOf (a : Nat) : List Byte → List Host.Cell
  | [] => []
  | b :: r => if b = 0xFF then cellsOf (a + 1) r else (a, b) :: cellsOf (a + 1) r

/-- Bytes put at `a` in the NVM. -/
def State.nvmPut (s : State) (a : Nat) (d : List Byte) : State :=
  { s with nvm := (s.nvm.filter fun x => decide (x.1 < a)) ++ cellsOf a d ++ s.nvm.filter fun x => decide (a + d.length ≤ x.1) }

/-- A range erased. -/
def State.nvmErase (s : State) (a n : Nat) : State :=
  { s with nvm := s.nvm.filter fun x => decide (¬ (a ≤ x.1 ∧ x.1 < a + n)) }

/-- A range whose contents are open. -/
def State.nvmOpen (s : State) (a n : Nat) : State :=
  let (d, c) := s.chip.drawBytes n
  { s with chip := c }.nvmPut a d

/-- What programming `d` over `old` leaves: bits go from 1 to 0. -/
def progOver (old d : List Byte) : List Byte := (old.zip d).map fun x => x.1 &&& x.2

/-- The place of a store's slot (Table 04-2): the slot's base, the commit record's offset and the longest payload. -/
structure SlotAt where
  base : Nat
  commit : Nat
  room : Nat
  deriving DecidableEq, Repr

/-- Image slot A or B. -/
def imageSlot (b : Nat) : SlotAt := ⟨0x1000000 * b, 0xFFF000, 0xFFF000⟩
/-- Calibration slot A or B. -/
def calSlot (b : Nat) : SlotAt := ⟨0x3000000 + 0x1000 * b, 0xF00, 3840⟩
/-- Slot A or B of Locket store entry `i`. -/
def locketSlot (i b : Nat) : SlotAt := ⟨0x2000000 + 8192 * i + 4096 * b, 0xF00, 3840⟩
/-- Dump slot A or B. -/
def dumpSlot (b : Nat) : SlotAt := ⟨0x3002000 + 0x11000 * b, 0x10000, 65536⟩

/-- A commit record (Table 04-8). -/
def commitRec (store entry seq len crc rtc : Nat) : List Byte :=
  let b := leBytes 4 0x544D4D43 ++ leBytes 1 store ++ leBytes 1 1 ++ leBytes 2 entry ++ leBytes 4 seq ++ leBytes 4 len ++
    leBytes 4 crc ++ leBytes 8 rtc ++ List.replicate 32 (0 : Byte)
  b ++ leBytes 4 (crc32 b)

/-- The sequence number of a slot that is valid under R136, when it is; an image's payload CRC is not checked. -/
def State.slotSeq (s : State) (k : SlotAt) (store entry : Nat) : Option Nat :=
  let r := s.nvmRead (k.base + k.commit) 64
  let len := leAt r 12 4
  if leAt r 0 4 = 0x544D4D43 ∧ leAt r 4 1 = store ∧ leAt r 5 1 = 1 ∧ leAt r 6 2 = entry ∧ leAt r 60 4 = crc32 (r.take 60) ∧
      len ≤ k.room ∧ (store = 1 ∨ crc32 (s.nvmRead k.base len) = leAt r 16 4) then some (leAt r 8 4) else none

/-- The payload of a slot. -/
def State.slotData (s : State) (k : SlotAt) : List Byte := s.nvmRead k.base (s.nvmLe (k.base + k.commit + 12) 4)

/-- Which of two valid slots is the newer (R137): `some true` B, `some false` A, none where their difference is 2^31 and the rule
names neither. -/
def newerIsB (a b : Nat) : Option Bool :=
  let d := (b + 2 ^ 32 - a) % 2 ^ 32
  if d = 0 then some false else if d < 2 ^ 31 then some true else if d = 2 ^ 31 then none else some false

/-- The valid slots of a store, newest first (R136, R137), as 0 for A and 1 for B. -/
def State.slotsByAge (s : State) (slot : Nat → SlotAt) (store entry : Nat) : List Nat × State :=
  match s.slotSeq (slot 0) store entry, s.slotSeq (slot 1) store entry with
  | none, none => ([], s)
  | some _, none => ([0], s)
  | none, some _ => ([1], s)
  | some a, some b =>
    if a = b then ([0, 1], { s with chip := s.chip.logStw 36 0x40 (store + 256 * entry) })
    else
      match newerIsB a b with
      | some true => ([1, 0], s)
      | some false => ([0, 1], s)
      | none =>
        let k := Config.freeChoice s.chip.fresh % 2
        ([k, 1 - k], { s with chip.fresh := s.chip.fresh + 1 })

/-- A store written under R138: the target slot erased, its payload programmed and its commit record last. -/
def State.storeWrite (s : State) (slot : Nat → SlotAt) (store entry : Nat) (d : List Byte) : Nat × State :=
  let (age, s) := s.slotsByAge slot store entry
  let t := match age with | 0 :: _ => 1 | _ => 0
  let seq := match age with | n :: _ => ((s.slotSeq (slot n) store entry).getD 0 + 1) % 2 ^ 32 | [] => 1
  let k := slot t
  let span := if store = 4 ∨ store = 1 then k.commit + 4096 else 4096
  let s := (s.nvmErase k.base span).nvmPut k.base d
  (t, s.nvmPut (k.base + k.commit) (commitRec store entry seq d.length (crc32 d) s.chip.clocks.rtc))

/-- The image slot of an NVM range's first byte that XSPI_PROT protects (R153). -/
def Chip.slotProtected (c : Chip) (a : Nat) : Bool := decide (a < 0x2000000) && c.bit 0x40055018 (a / 0x1000000)

/-- R153: a PROGRAM or an erase of `n` bytes at `a` touches a protected payload, or erases a protected commit sector. -/
def Chip.protRefused (c : Chip) (erase : Bool) (a n : Nat) : Bool :=
  (c.slotProtected a && (erase || decide (a % 0x1000000 < 0xFFF000))) ||
    (c.slotProtected (a + n - 1) && (erase || decide ((a + n - 1) % 0x1000000 < 0xFFF000)))

/-- A store of operation `op` to XSPI_CMD (R151 to R153): what a refusal sets, or the command in progress. -/
def State.xspiStore (s : State) (op : Nat) : State :=
  let c := s.chip
  let a := (c.act 0x40055008).toNat
  let n := match op with | 3 => 4096 | 4 => 65536 | _ => c.fld 0x40055010 0 17
  let sram := c.fld 0x4005500C 0 23
  if Machine.bit (c.reg 0x40055000) 1 then { s with chip := c.misuse 0x40055000 }
  else if (op = 2 ∧ (256 < n ∨ a / 256 ≠ (a + n - 1) / 256)) ∨ ((op = 3 ∨ op = 4) ∧ a % n ≠ 0) then
    { s with chip := (c.setBit 0x40055000 3 true).misuse 0x40055000 }
  else if op ≠ 1 ∧ c.protRefused (decide (op ≠ 2)) a n = true then { s with chip := c.setBit 0x40055000 4 true }
  else
    let c := c.setBit 0x40055000 1 true
    match op with
    | 1 => { s with chip := { c with xspi := some ⟨1, a, sram, n, false, []⟩ } }
    | 2 =>
      match c.read 42 (c.portCls 42) sram n with
      | (.ok d, c) =>
        let old := s.nvmRead a n
        { s with chip := { c with xspi := some ⟨2, a, sram, n, false, progOver old d⟩ } }.nvmOpen a n
      | (_, c) => { s with chip := { c with xspi := some ⟨2, a, sram, n, true, []⟩ } }
    | _ => { s with chip := { c with xspi := some ⟨op, a, sram, n, false, []⟩ } }.nvmOpen a n

/-- The same by `port`. -/
def State.xspiCmd (s : State) (port op : Nat) : Host.Outcome State Fault Refusal :=
  .next (s.store port 0x40055014 fun s => s.xspiStore op)

/-- XSPI_READ (R151). -/
def execXspiRead (port : Nat) (s : State) : Host.Outcome State Fault Refusal := s.xspiCmd port 1
/-- XSPI_PROGRAM (R152, R153). -/
def execXspiProgram (port : Nat) (s : State) : Host.Outcome State Fault Refusal := s.xspiCmd port 2
/-- ERASE_4K (R152, R153). -/
def execErase4k (port : Nat) (s : State) : Host.Outcome State Fault Refusal := s.xspiCmd port 3
/-- ERASE_64K (R152, R153). -/
def execErase64k (port : Nat) (s : State) : Host.Outcome State Fault Refusal := s.xspiCmd port 4

/-- XSPI_CMD_COMPLETE (R151): `ok` false stands for an error the NVM reports, or for no completion within 1 s. -/
def execXspiCmdComplete (ok : Bool) (s : State) : Host.Outcome State Fault Refusal :=
  match s.chip.xspi with
  | none => .next s
  | some x =>
    let done := fun (s : State) (good : Bool) =>
      let c := s.chip.setBit 0x40055000 1 false
      { s with chip := { c with xspi := none }.setBit 0x40055000 (if good then 2 else 3) true }
    if !ok || x.bad then .next (done s false)
    else
      match x.op with
      | 1 =>
        let (_, c) := s.chip.write 42 (s.chip.portCls 42) x.sram (s.nvmRead x.addr x.len)
        .next (done { s with chip := c } true)
      | 2 => .next (done (s.nvmPut x.addr x.fin) true)
      | _ => .next (done (s.nvmErase x.addr x.len) true)

end Sys2Proof.Machine
end

