-- ==== Sys2Proof/Machine/Otp.lean ====
section
/-! DEFINITION. What the security block makes of the two OTP copies (R716), what it shows of them, and the start of a debug
session (R740). -/
namespace Sys2Proof.Machine

/-- The OTP as the security block uses it; a field is none where its copies disagree and it is unusable (R716). -/
structure OtpView where
  serial : Option (List Byte)
  secret : Option (List Byte)
  fleet : Option (List Byte)
  root : List (Option (List Byte))
  prog : Nat
  revoked : Nat
  rollback : Nat
  locked : Bool
  secretProg : Bool
  fleetProg : Bool
  fault : Bool
  deriving DecidableEq, Repr

/-- A field both copies hold alike. -/
def agree (a b : List Byte) : Option (List Byte) := if a = b then some a else none

/-- Bits set among bits [62:0] (Table 20-2, ROLLBACK). -/
def countBits (n : Nat) : Nat := ((List.range 63).filter fun i => n.testBit i).length

/-- Both copies read under R716. -/
def otpView (a b : OtpCopy) : OtpView :=
  let rs := (a.rootState ||| b.rootState).toNat
  let lc := (a.lifecycle ||| b.lifecycle).toNat
  { serial := agree a.serial b.serial
    secret := agree a.secret b.secret
    fleet := agree a.fleet b.fleet
    root := (List.range 3).map fun k => agree (nth a.root k []) (nth b.root k [])
    prog := rs % 8
    revoked := rs / 16 % 8
    rollback := max (countBits a.rollback) (countBits b.rollback)
    locked := lc.testBit 0
    secretProg := lc.testBit 1
    fleetProg := lc.testBit 2
    fault := decide (a ≠ b) }

/-- The view of a state's OTP. -/
def State.otp (s : State) : OtpView := otpView s.otpA s.otpB

/-- Root slot `k` is programmed and not revoked (R122, R738). -/
def OtpView.usable (o : OtpView) (k : Nat) : Bool := o.prog.testBit k && !o.revoked.testBit k

/-- The root hash of slot `k`, when the slot is usable. -/
def OtpView.rootHash (o : OtpView) (k : Nat) : Option (List Byte) := if o.usable k then nth o.root k none else none

/-- A debug session is in force (R739, R740). -/
def Chip.dbgSession (c : Chip) : Bool := Machine.bit (c.reg 0x40060004) 3

/-- DEV_SECRET as the key derivation unit may use it (R716, R721, R740). -/
def Chip.kekSecret (c : Chip) (o : OtpView) : Option (List Byte) := if o.locked && !c.dbgSession then o.secret else none

/-- FLEET_KEY likewise. -/
def Chip.kekFleet (c : Chip) (o : OtpView) : Option (List Byte) := if o.locked && !c.dbgSession then o.fleet else none

/-- The SEC_ registers that show the OTP (20_security.md, "Register cards"). The shown value of a serial or root hash whose copies
disagree is free (DESIGN CHOICE, log entry 4). -/
def Chip.secLoad (c : Chip) (o : OtpView) : Chip :=
  let (f, c) := if o.fault then c.drawBytes 112 else ([], c)
  let serial := o.serial.getD (f.take 16)
  let roots := (List.range 3).map fun k => (nth o.root k none).getD ((f.drop (16 + 32 * k)).take 32)
  let c := (List.range 4).foldl (fun c i => c.setReg (0x40060010 + 4 * i) (BitVec.ofNat 32 (leAt serial (4 * i) 4))) c
  let c := (List.range 24).foldl (fun c i =>
    c.setReg (0x40060040 + 4 * i) (BitVec.ofNat 32 (leAt (nth roots (i / 8) []) (4 * (i % 8)) 4))) c
  let c := (c.setReg 0x400600A0 (BitVec.ofNat 32 (o.prog + 16 * o.revoked))).setReg 0x400600A4 (BitVec.ofNat 32 o.rollback)
  let c := (c.setBit 0x40060004 1 o.locked).setBit 0x40060004 2 o.fault
  (c.setBit 0x40060004 4 (c.kekSecret o).isSome).setBit 0x40060004 5 (c.kekFleet o).isSome

/-- A start with DBG_SESSION set: keys and wrap store gone, every memory zero (R740, R714). -/
def Chip.dbgStart (c : Chip) : Chip :=
  if c.dbgSession then { c.clearKeys with mem := [], ecc := [], sec.wrapStore := none, sec.wrapLast := none } else c

/-- A chip that has just been reset, with the OTP read (R716) and, in a debug session, the zero-fill done (R740). -/
def State.started (s : State) (c : Chip) : State := { s with chip := (c.secLoad s.otp).dbgStart }

/-- A system reset of the state (Table 03-1); none in Dark or Watch, or while RESET_N holds the device (R86). -/
def State.sysReset (s : State) : State :=
  if s.chip.power.mode = .dark ∨ s.chip.power.mode = .watch ∨ s.chip.power.inReset = true then s
  else s.started (s.chip.coreReset true)

end Sys2Proof.Machine
end

