-- ==== Sys2Proof/Machine/Power.lean ====
section
/-! DEFINITION. Power, clocks, resets, modes and wakes (02_power_clocks_modes.md, 03_start_up.md). An event whose preconditions do
not hold in the state leaves the block as it is (DESIGN CHOICE, log entry 5). -/
namespace Sys2Proof.Machine

/-- A PWR_ or CLK_ register that a core power-up does not reset (R81). -/
def keptPower (a : Nat) : Bool :=
  decide (a < 0x40000000 ∨ 0x40000200 ≤ a ∨ a = 0x40000008 ∨ a = 0x4000000C ∨ a = 0x40000010 ∨ a = 0x40000014 ∨
    (0x40000040 ≤ a ∧ a < 0x40000060))

/-- The PWR_ and CLK_ registers as the core domains' power-up leaves them (R81): AON-held registers and bits keep their values. -/
def Chip.coreUp (c : Chip) : Chip :=
  let d : Chip := { c with regs := c.regs.filter fun x => keptPower x.1, acts := c.acts.filter fun x => keptPower x.1 }
  let d := d.setBit 0x40000004 5 (Machine.bit (c.reg 0x40000004) 5)
  let d := (d.setBit 0x40000100 3 (Machine.bit (c.reg 0x40000100) 3)).setBit 0x40000100 5 (Machine.bit (c.reg 0x40000100) 5)
  { d with power.grpHold := true }.setDoms [0] true

/-- Watch entry (R67, R798, R714, R800, R801): `scanned` says that the Scan timer keeps running. -/
def Chip.watchEntry (c : Chip) (scanned : Bool) : Chip :=
  let ret := c.reg 0x40000014
  let qual := (List.range 8).all fun g => decide (nth c.power.grp g .off = GrpState.off) || Machine.bit ret g
  let period := c.fld 0x40000010 0 12
  let c := if Machine.bit (c.reg 0x40000100) 2 ∧ Machine.bit (c.reg 0x40000100) 5 then
      { c with power.restAt := c.clocks.rtc }.setBit 0x40000100 5 false else c
  let c := { c with sec.wrapStore := c.sec.wrapLast }.clearKeys
  let c := c.enginesOff.senseWatch.portsOff
  let c := (List.range 8).foldl (fun c g =>
    if nth c.power.grp g .off = GrpState.off then c
    else if Machine.bit ret g then c.setGrp g .retained
    else (c.clearGrp g).setGrp g .off) c
  let c := c.setDoms ([1, 2, 3, 4, 49, 50, 51, 52, 53, 54, 55, 56, 57, 58, 60, 61] ++
    (if c.bit 0x40000010 24 then [] else [59])) false
  let c := ((c.setFaultN false).setPulse false).setFld 0x40070000 0 3 0
  let c := (c.setReg 0x40070040 0).setFld 0x40070044 0 3 0
  let c := { c with
    power.qualWarm := qual, power.watchRtc := c.clocks.rtc, power.rails := false
    power.scanAt := if scanned then c.power.scanAt else if period = 0 then none else some (c.clocks.rtc + 32768 * period)
    pins.enCore := false, stalled := [], resv := []
    dump := { c.dump with busy := false, image := [], resetAfter := none, fenceAfter := false }
    safe.verdictSeen := false, safe.awaitValid := false, boot.rom := .held
    fw := { c.fw with started := false, due := none, out := [] } }
  ({ c with xspi := none }.setBit 0x40055000 1 false |>.setBit 0x40090000 1 false).setMode .watch

/-- What every wake does at its event (Table 02-7 step 1): EN_CORE rises and WAKE_OUT pulses if FWD is set (Table 16-3). -/
def Chip.wakePins (c : Chip) : Chip :=
  { c with pins.enCore := true, pins.wakeOut := if c.bit 0x40000008 8 then 32 else c.pins.wakeOut, power.rails := false }

/-- Pack time at a wake (R616): unlocked, RATE 0, WATCH_RESUME set, and the RTC interval of the Watch added to the kept value. -/
def Chip.packResume (c : Chip) : Chip :=
  let d := (c.clocks.rtc - c.power.watchRtc) * (10 ^ 9 * 2 ^ 17) + c.clocks.packFrac
  let c := { c with clocks.packNs := (c.clocks.packNs + d / 2 ^ 32) % 2 ^ 64, clocks.packFrac := d % 2 ^ 32 }
  ((c.setReg 0x4008000C 0).setBit 0x40040014 0 false).setBit 0x4008001C 2 true

/-- What Belfry does for its counts at a wake (R665): WATCH_I over the Watch into Q_GAP, and a long Watch counts as rest. -/
def Chip.belWake (c : Chip) : Chip :=
  let t := Q.mk' (c.clocks.rtc - c.power.watchRtc) 32768
  let b := c.bel
  let long := !b.prog.isEmpty && (q32At b.prog 0x24).le t
  let gap := if b.prog.isEmpty then b.qGap else b.qGap.add ((q32At b.prog 0x30).mul t)
  let cells := b.cells.map fun k => { k with ents := [] }
  let b : Bel := { b with
    qGap := gap, cells := cells, isns := [], lastClk := none, gap := false, stale := false, clk := 0, quiet := none
    anchored := none, rested := long, temp := none }
  { c with bel := b, safe.woke := true }

/-- A warm wake (R798): Run, with the registers of the core domains' blocks as Watch left them and PWR_ and CLK_ reset. -/
def Chip.warmWake (c : Chip) : Chip :=
  ({ c.belWake.coreUp with power.kind := .warm }.packResume.setBit 0x40000004 6 true).setMode .run

/-- An RTC wake into Scan (R799). -/
def Chip.scanWake (c : Chip) : Chip :=
  { c.belWake.coreUp with power.kind := .scan, power.scanWokeAt := c.clocks.rtc }.packResume.setMode .scan

/-- A wake that is not warm (R798): Start, with the image to be reloaded; steward and Belfry SRAM keep what Watch kept, and so do
Belfry's counts (R665, R672, R697) and the OTP's registers. -/
def Chip.coldWake (c : Chip) : Chip :=
  let d := c.coreReset true
  let kept := c.regs.filter fun x => decide (0x40060000 ≤ x.1 ∧ x.1 < 0x400600A8)
  let d : Chip := { d with
    regs := kept.foldl (fun l x => Sparse.put x.1 x.2 l) d.regs
    mem := c.mem.filter fun x => decide (x.1 < 0x800000 ∨ (0x20000000 ≤ x.1 ∧ x.1 < 0x40000000))
    ecc := c.ecc.filter fun x => decide (x.1 < 0x800000 ∨ (0x20000000 ≤ x.1 ∧ x.1 < 0x40000000))
    power.kind := .cold
    safe.hist := c.safe.hist, safe.woke := true, bel := { c.belWake.bel with prog := [] }
    clocks.packNs := c.clocks.packNs, clocks.packFrac := c.clocks.packFrac
    sec.chal := c.sec.chal }
  (d.setFld 0x40070048 8 7 (Machine.fld (c.reg 0x40070048) 8 7)).packResume

/-- A wake from a source other than the RTC (R72, R798). -/
def Chip.fullWake (c : Chip) : Chip := (if c.power.qualWarm then c.warmWake else c.coldWake).wakePins

/-- A wake event of source bit `i` (0 WAKE_IN, 2 to 5 LPC0 to LPC3): latched, and acted on when enabled (R69, R71, R72). A full wake
in the RTC count of a Scan wake takes its place (R72). -/
def Chip.wakeEvent (c : Chip) (i : Nat) : Chip :=
  if c.power.supply = false ∨ c.power.inReset = true ∨ c.power.mode = .dark then c
  else
    let c := c.setBit 0x4000000C i true
    if !c.bit 0x40000008 i then c
    else
      match c.power.mode with
      | .watch => c.fullWake
      | .scan =>
        if c.power.scanWokeAt = c.clocks.rtc ∧ c.power.rails = false then c.fullWake else c.setBit 0x40000004 4 true
      | _ => c

/-- POWER_ON_RESET (R83, R749, R716). -/
def execPowerOnReset (s : State) : Host.Outcome State Fault Refusal :=
  .next (s.started ({ Chip.reset with fresh := s.chip.fresh }.newChallenge))

/-- STACK_SUPPLY_FALL (R769, R79): nothing is powered, the accumulator is 0 with RESTARTED set, and FAULT_N is not driven
(Table 16-3). -/
def execStackSupplyFall (s : State) : Host.Outcome State Fault Refusal :=
  s.onChip fun c =>
    let d : Chip := { Chip.reset with fresh := c.fresh, log := ⟨[], 0⟩ }
    { d with power.mode := .dark, power.supply := false, pins.enCore := false, pins.faultN := true }

/-- EXTERNAL_RESET (R83, R84): RESET_N goes low and holds the device. -/
def execExternalReset (s : State) : Host.Outcome State Fault Refusal :=
  if s.chip.power.supply = false then .next s
  else
    let c := if s.chip.power.mode = .run then s.chip.logHw 0x21 0 else s.chip
    let c := c.coreReset false
    .next (s.started { c with power.inReset := true, pins.enCore := false })

/-- RESET_N_RELEASE (R629, Table 03-2 step 1). -/
def execResetNRelease (s : State) : Host.Outcome State Fault Refusal :=
  s.onChip fun c => if c.power.inReset then { c with power.inReset := false, pins.enCore := true } else c

/-- The reset a steward watchdog makes, with its log entry (R85). -/
def State.wdtReset (s : State) (core : Nat) : State :=
  { s with chip := s.chip.logHw 0x22 (core % 4) }.sysReset

/-- STW_WDT_EXPIRY (R751, R754): with WDT_DUMP set a dump is made first, and the reset waits for a running one. -/
def execStwWdtExpiry (core : Nat) (s : State) : Host.Outcome State Fault Refusal :=
  if !s.chip.dom 2 then .next s
  else if s.chip.bit 0x40090004 1 then
    let c := (s.chip.dumpTrigger 2 (core % 4)).1
    if c.dump.busy then .next { s with chip := { c with dump.resetAfter := some (core % 4) } }
    else .next ({ s with chip := c }.wdtReset core)
  else .next (s.wdtReset core)

/-- The glitch detector is armed (R742). -/
def Chip.glitchArmed (c : Chip) : Bool :=
  decide (c.power.mode = .run ∨ c.power.mode = .scan ∨ c.power.mode = .fenced ∨ c.boot.rom = .loading) && c.power.rails

/-- GLITCH (R742, R756). -/
def execGlitch (s : State) : Host.Outcome State Fault Refusal :=
  if s.chip.glitchArmed then
    let n := (s.chip.reg 0x40060300).toNat
    .next ({ s with chip := (s.chip.logHw 0x23 0).setReg 0x40060300 (BitVec.ofNat 32 (sat 32 (n + 1))) }.sysReset)
  else .next s

/-- CORE_RAILS_IN_RANGE (R773, R795, R684, R685, R683, R799): BEL powers; a cold start runs phase A, with its outcome given. -/
def execCoreRailsInRange (phaseA : Bool) (s : State) : Host.Outcome State Fault Refusal :=
  s.onChip fun c =>
    if c.pins.enCore = false ∨ c.power.rails = true ∨ c.power.inReset = true ∨ c.power.supply = false then c
    else
      let c := { c with power.rails := true, bel.romNs := c.clocks.packNs }.setDoms [0, 1] true
      let c := c.setBit 0x40000100 2 (!Machine.bit (c.reg 0x40000100) 3)
      match c.power.kind with
      | .cold =>
        let c := (c.setDoms [58, 59, 60] true).setFld 0x4000002C 3 3 7
        if phaseA then c.setFld 0x40070004 0 2 2
        else ((c.setFld 0x40070004 0 2 3).logCause 15 4 0).enterDark
      | .warm => (c.setDoms [58, 60] true).setFld 0x4000002C 3 3 (if c.dom 59 then 7 else 6)
      | .scan => (c.setDoms [58, 59, 60] true).setFld 0x4000002C 3 3 7

/-- XTAL25_STABLE (R74). -/
def execXtal25Stable (s : State) : Host.Outcome State Fault Refusal :=
  s.onChip fun c => if c.power.rails then c.setBit 0x40000100 0 true else c

/-- BELRC_WINDOW (R51, R52): the BEL_RC count of one window of 1,024 XTAL25 cycles. -/
def execBelrcWindow (count : Nat) (s : State) : Host.Outcome State Fault Refusal :=
  s.onChip fun c =>
    if !c.dom 1 || !c.bit 0x40000100 0 then c
    else
      let c := c.setFld 0x40000108 0 16 (sat 16 count)
      if 6161 ≤ count ∧ count ≤ 6946 then { c with power.belBad := 0 }.setBit 0x40000100 4 true
      else
        let c := ({ c with power.belBad := c.power.belBad + 1 }.setBit 0x40000100 4 false).incFld 0x40000108 16 8 1
        if 2 ≤ c.power.belBad then c.cause .dark 3 0 else c

/-- XTAL25_LOSS (R53). -/
def execXtal25Loss (s : State) : Host.Outcome State Fault Refusal :=
  s.onChip fun c =>
    if !c.dom 1 || !c.bit 0x40000100 0 then c
    else ((c.setBit 0x40000100 0 false).setBit 0x40000100 1 false).cause .fenced 5 0

/-- SYSPLL_LOCK_LOSS (R53). -/
def execSyspllLockLoss (s : State) : Host.Outcome State Fault Refusal :=
  s.onChip fun c => if c.bit 0x40000100 1 then (c.setBit 0x40000100 1 false).cause .fenced 6 0 else c

/-- XTAL32K_FAIL (R54). -/
def execXtal32kFail (s : State) : Host.Outcome State Fault Refusal :=
  s.onChip fun c =>
    if c.power.supply then ((c.setBit 0x40000100 3 true).setBit 0x40000100 5 true).setBit 0x40000100 2 false else c

/-- XTAL32K_RETURN (R54). -/
def execXtal32kReturn (s : State) : Host.Outcome State Fault Refusal :=
  s.onChip fun c => if c.power.supply then (c.setBit 0x40000100 3 false).setBit 0x40000100 2 (c.dom 1) else c

/-- BEL_WDT_EXPIRY (R653). -/
def execBelWdtExpiry (s : State) : Host.Outcome State Fault Refusal :=
  s.onChip fun c => if c.dom 1 then c.cause .dark 2 0 else c

/-- LOCKSTEP_MISMATCH (R652). -/
def execLockstepMismatch (s : State) : Host.Outcome State Fault Refusal :=
  s.onChip fun c => if c.dom 1 then c.cause .dark 1 0 else c

/-- BEL_SUPPLY_FAULT (R655): Belfry is held in reset and PULSE is low; BEL_WDT_EXPIRY follows. -/
def execBelSupplyFault (s : State) : Host.Outcome State Fault Refusal :=
  s.onChip fun c => if c.dom 1 then { c with safe.held := true }.setPulse false else c

/-- GRP_IDLE_RETENTION (R61). -/
def execGrpIdleRetention (g : Nat) (s : State) : Host.Outcome State Fault Refusal :=
  s.onChip fun c =>
    if g < 8 ∧ nth c.power.grp g .off = GrpState.awake ∧ c.power.grpHold = false ∧ c.fld 0x40000024 (2 * g) 2 = 1 then
      c.setGrp g .retained
    else c

/-- One group's new setting applied (R61 to R63). -/
def Chip.applyGrp (c : Chip) (g : Nat) : Chip :=
  let now := nth c.power.grp g .off
  match c.fld 0x40000024 (2 * g) 2 with
  | 3 => (c.clearGrp g).setGrp g .off
  | 2 =>
    match now with
    | .off => c.setGrp g .filling
    | .filling => c
    | _ => c.setGrp g .retained
  | _ =>
    match now with
    | .off => c.setGrp g .filling
    | .filling => c
    | _ => c.setGrp g .awake

/-- The PWR_GRP write and what it does to the groups (R63, R797). -/
def Chip.writeGrp (c : Chip) (port : Nat) (v : Word) : Chip :=
  let c := c.storeReg port 0x40000024 v
  (List.range 8).foldl (fun c g => c.applyGrp g) { c with power.grpHold := false }

/-- PWR_GRP_WRITE (R797, R63). -/
def execPwrGrpWrite (port : Nat) (v : Word) (s : State) : Host.Outcome State Fault Refusal :=
  s.onChip fun c => c.store port 0x40000024 fun c => c.writeGrp port v

/-- The sense-die domains follow PWR_SD (R64, R169, R174, R221). -/
def Chip.applySd (c : Chip) : Chip :=
  let v := c.act 0x4000002C
  let c := (List.range 2).foldl (fun c n =>
    if Machine.bit v n = c.pairUp n then c else if Machine.bit v n then c.pairOn n else c.pairOff n) c
  let c := if Machine.bit v 2 then c.setDom 61 true else if c.dom 61 then (c.setDom 61 false).gatesLow else c
  let c := if Machine.bit v 3 then c.setDom 59 true
    else if c.dom 59 then ((c.setDom 59 false).setRefA false).tdacDrive else c
  let c := c.setDom 58 (Machine.bit v 4)
  let c := if Machine.bit v 5 then c.setDom 60 true else if c.dom 60 then (c.setDom 60 false).setRefB false else c
  c.balLive.tdacDrive

/-- PWR_SD_WRITE (R58, R64, R221). -/
def execPwrSdWrite (port : Nat) (v : Word) (s : State) : Host.Outcome State Fault Refusal :=
  s.onChip fun c => c.store port 0x4000002C fun c => (c.storeReg port 0x4000002C v).applySd

/-- CLK_ADC_WRITE (R82). -/
def execClkAdcWrite (port : Nat) (v : Word) (s : State) : Host.Outcome State Fault Refusal :=
  s.onChip fun c => c.store port 0x40000104 fun c => c.storeReg port 0x40000104 v

/-- A mode request is refused (R66). -/
def Chip.refuseMode (c : Chip) (why : Nat) : Chip := (c.setBit 0x40000004 1 true).setFld 0x40000004 2 2 why

/-- An engine is busy or holds a descriptor (R66). -/
def Chip.engineBusy (c : Chip) : Bool := c.eng.any fun g => g.run.isSome || !g.queue.isEmpty || !g.fifo.isEmpty

/-- Watch is requested (R66, R67, R702): `hold` is Belfry's withholding of consent, which it never does while MARKED. -/
def Chip.askWatch (c : Chip) (hold : Bool) : Chip :=
  if c.power.mode ≠ .run ∧ c.power.mode ≠ .scan then c.refuseMode 2
  else if c.engineBusy then c.refuseMode 0
  else if Machine.bit (c.reg 0x40000004) 4 then c.refuseMode 1
  else if hold ∧ c.saf ≠ 2 then c.refuseMode 3
  else c.watchEntry (decide (c.power.mode = .scan))

/-- MODE_REQ_WATCH (R66, R67). -/
def execModeReqWatch (port : Nat) (hold : Bool) (s : State) : Host.Outcome State Fault Refusal :=
  s.onChip fun c => c.store port 0x40000000 fun c => c.askWatch hold

/-- Run is requested from Scan (R66, R69). -/
def Chip.askRun (c : Chip) : Chip :=
  if c.power.mode = .scan then ({ c with power.scanAt := none }.setBit 0x40000004 4 false).setMode .run else c.refuseMode 2

/-- MODE_REQ_RUN (R66, R69). -/
def execModeReqRun (port : Nat) (s : State) : Host.Outcome State Fault Refusal :=
  s.onChip fun c => c.store port 0x40000000 fun c => c.askRun

/-- SCAN_TIMER_EXPIRY (R800, R72, R799). -/
def execScanTimerExpiry (s : State) : Host.Outcome State Fault Refusal :=
  s.onChip fun c =>
    match c.power.scanAt with
    | none => c
    | some t =>
      if c.power.mode = .dark ∨ c.power.inReset = true then c
      else
        let c := c.setBit 0x4000000C 1 true
        let period := c.fld 0x40000010 0 12
        if c.power.mode = .watch ∧ c.bit 0x40000008 1 = true then
          { c.scanWake with power.scanAt := if period = 0 then none else some (t + 32768 * period) }.wakePins
        else { c with power.scanAt := none }

/-- SCAN_OVERRUN (R70, R69). -/
def execScanOverrun (s : State) : Host.Outcome State Fault Refusal :=
  s.onChip fun c =>
    if c.power.mode = .scan then
      let again := Machine.bit (c.reg 0x40000004) 4
      let c := ((c.setBit 0x40000004 5 true).logHw 0x25 0).watchEntry true
      if again then (c.setBit 0x40000004 4 false).fullWake else c
    else c

/-- WAKE_IN_EVENT (R72, R629). -/
def execWakeInEvent (s : State) : Host.Outcome State Fault Refusal := s.onChip fun c => c.wakeEvent 0

/-- LPC_SAMPLE (R73): comparator `n` samples `level`, in the LSB of PWR_LPCn.THRESH. -/
def execLpcSample (n level : Nat) (s : State) : Host.Outcome State Fault Refusal :=
  s.onChip fun c =>
    if 4 ≤ n ∨ c.power.supply = false ∨ c.bit (0x40000050 + 4 * n) 0 = false then c
    else
      let th := c.fld (0x40000050 + 4 * n) 6 12
      let out := if c.bit (0x40000050 + 4 * n) 5 then decide (level < th) else decide (th < level)
      let l := nth c.power.lpc n default
      let fire := out && l.beyond && l.armed
      let c := { c with power.lpc := upd c.power.lpc n fun l => { beyond := out, armed := if out then l.armed && !fire else true } }
      if fire then c.wakeEvent (2 + n) else c

/-- QSUP_LO_READ (R77, R79, R80): `charge` is the charge in µC that has entered VSTK since the last one. -/
def execQsupLoRead (port charge : Nat) (s : State) : Host.Outcome State Fault Refusal :=
  s.onChip fun c =>
    let q := (c.power.qsup + charge) % 2 ^ 48
    let c := { c with power.qsup := q }.setReg 0x40000040 (BitVec.ofNat 32 q)
    c.load port 0x40000040 fun c => (c.setReg 0x40000044 (BitVec.ofNat 32 (q / 2 ^ 32))).respond (leBytes 4 q)

end Sys2Proof.Machine
end

