-- ==== Sys2Proof/Machine/LogDump.lean ====
section
/-! DEFINITION. The AON event log, the dump engine and the dump requests (21_faults_and_dumps.md). -/
namespace Sys2Proof.Machine

/-- A code no steward may write (R748). -/
def Chip.codeBarred (c : Chip) (k : Nat) : Bool :=
  decide (k < 0x30 ∨ k = 0x4E ∨ k = 0x4F ∨ (0x5B ≤ k ∧ k < 0x80)) ||
    (decide (0x30 ≤ k ∧ k < 0x40) && Machine.bit (c.reg 0x40020800) 0)

/-- A store to DMP_LOGW (R747, R748). -/
def Chip.logStore (c : Chip) (port : Nat) (v : Word) : Chip :=
  if c.codeBarred (Machine.fld v 0 8) then c.misuse 0x40090020 else c.logStw port (Machine.fld v 0 8) (Machine.fld v 8 24)

/-- LOG_WRITE (R747, R748). -/
def execLogWrite (port : Nat) (v : Word) (s : State) : Host.Outcome State Fault Refusal :=
  s.onChip fun c => c.store port 0x40090020 fun c => c.logStore port v

/-- CAPTURE = 1 (R751, R753, R754). The trigger is REMOTE while firmware serves a CAPTURE request (R765), and FIRMWARE otherwise. -/
def Chip.captureStore (c : Chip) : Chip :=
  let remote := decide (Machine.fld (c.reg 0x40090040) 4 2 = 1 ∧ c.dump.req = 4)
  let c := if c.dump.busy then c.misuse 0x40090004 else c
  (c.dumpTrigger (if remote then 4 else 1) (c.reg 0x40090008).toNat).1

/-- CAPTURE (R751): CAPTURE = 1 is stored to DMP_CTL. -/
def execCapture (port : Nat) (s : State) : Host.Outcome State Fault Refusal :=
  s.onChip fun c => c.store port 0x40090004 fun c => c.captureStore

/-- DUMP_DONE (R755, R751, R705): the dump ends; a waiting system reset or Belfry's powering-down follows. -/
def execDumpDone (s : State) : Host.Outcome State Fault Refusal :=
  let c := s.chip
  if c.dump.busy then
    let d := c.dumpEnd
    let d : Chip := { d with dump.resetAfter := none, dump.fenceAfter := false }
    match c.dump.resetAfter with
    | some core => .next ({ s with chip := d }.wdtReset core)
    | none => .next { s with chip := if c.dump.fenceAfter then d.powerFenced else d }
  else .next s

/-- The end of the last record a reader accepts, from offset `off` (R760); `n` bounds the records. -/
def Chip.dumpScan (c : Chip) (seq : Nat) : Nat → Nat → Nat
  | 0, off => off
  | n + 1, off =>
    let len := c.peekLe (dumpBase + off + 4) 4
    let stop := off + 16 + (len + 15) / 16 * 16
    if 65536 < stop then off
    else if c.peekLe (dumpBase + off + 8) 4 ≠ seq then off
    else if crc32 (c.peekN (dumpBase + off) 12 ++ c.peekN (dumpBase + off + 16) len) ≠ c.peekLe (dumpBase + off + 12) 4 then off
    else c.dumpScan seq n stop

/-- The length of the dump in the region (R760). -/
def Chip.dumpLen (c : Chip) : Nat := c.dumpScan (c.peekLe (dumpBase + 8) 4) 4096 64

/-- DUMP_SAVE (R762, R144, R138): firmware copies a valid retained dump to its NVM slot and clears MAGIC. -/
def execDumpSave (s : State) : Host.Outcome State Fault Refusal :=
  let c := s.chip
  if c.dom 2 = true ∧ nth c.power.grp 7 .off = GrpState.awake ∧ c.dumpValid = true ∧ c.dump.busy = false ∧
      Machine.bit (c.reg 0x40055000) 1 = false then
    let seq := c.peekLe (dumpBase + 8) 4
    let (t, s) := s.storeWrite dumpSlot 4 0 (c.peekN dumpBase c.dumpLen)
    s.onChip fun c => (c.pokeLe dumpBase 4 0).logStw 36 0x4D (t + 256 * (seq % 65536))
  else .next s

/-- A store of `req` to DMP_REQ.REQ (R764). -/
def Chip.dumpReqStore (c : Chip) (req : Nat) : Chip :=
  if Machine.fld (c.reg 0x40090040) 4 2 = 1 then c.misuse 0x40090040
  else if req = 0 then c.setFld 0x40090040 4 2 0
  else { c with dump.req := req }.setFld 0x40090040 4 2 1

/-- The same by `port`. -/
def Chip.dumpReq (c : Chip) (port req : Nat) : Chip := c.store port 0x40090040 fun c => c.dumpReqStore req

/-- DUMP_REQ_RELEASE (R764). -/
def execDumpReqRelease (port : Nat) (s : State) : Host.Outcome State Fault Refusal := s.onChip fun c => c.dumpReq port 0
/-- DUMP_REQ_RETAINED (R764). -/
def execDumpReqRetained (port : Nat) (s : State) : Host.Outcome State Fault Refusal := s.onChip fun c => c.dumpReq port 1
/-- DUMP_REQ_NVM_NEWER (R764). -/
def execDumpReqNvmNewer (port : Nat) (s : State) : Host.Outcome State Fault Refusal := s.onChip fun c => c.dumpReq port 2
/-- DUMP_REQ_NVM_OLDER (R764). -/
def execDumpReqNvmOlder (port : Nat) (s : State) : Host.Outcome State Fault Refusal := s.onChip fun c => c.dumpReq port 3
/-- DUMP_REQ_CAPTURE (R764, R765): the capture itself is firmware's CAPTURE, which then has trigger REMOTE. -/
def execDumpReqCapture (port : Nat) (s : State) : Host.Outcome State Fault Refusal := s.onChip fun c => c.dumpReq port 4

/-- A store to DMP_REQ_ACK (R764, and the register's card). -/
def Chip.reqAckStore (c : Chip) (v : Word) : Chip :=
  let x := Machine.fld v 0 2
  if (v.toNat = 1 ∨ v.toNat = 2) ∧ Machine.fld (c.reg 0x40090040) 4 2 = 1 then c.setFld 0x40090040 4 2 (x + 1)
  else c.misuse 0x40090044

/-- DMP_REQ_ACK (R764). -/
def execDmpReqAck (port : Nat) (v : Word) (s : State) : Host.Outcome State Fault Refusal :=
  s.onChip fun c => c.store port 0x40090044 fun c => c.reqAckStore v

end Sys2Proof.Machine
end

