-- ==== Sys2Proof/Machine/Security.lean ====
section
/-! DEFINITION. OTP programming, key wrapping, link keys and the debug lock (20_security.md). -/
namespace Sys2Proof.Machine

/-- The security block answers commands: the core rails are up and the device is not held in reset. -/
def Chip.secUp (c : Chip) : Bool := c.power.rails && !c.power.inReset && decide (c.power.mode ≠ .watch ∧ c.power.mode ≠ .dark)

/-- A command to program word `off` of the OTP with `data`, from `port` (R717 to R719): whether it is refused. -/
def OtpView.refuses (o : OtpView) (off data port : Nat) : Bool :=
  o.locked || decide (¬ ((36 ≤ port ∧ port < 40) ∨ port = 47)) || decide (0xC0 < off ∨ off % 4 ≠ 0) ||
    (decide (0x10 ≤ off ∧ off < 0x30) && o.secretProg) || (decide (0x30 ≤ off ∧ off < 0x50) && o.fleetProg) ||
    (decide (off = 0xB0) && decide (nfld data 4 4 ≠ 0)) ||
    (decide (off = 0xC0) && nbit data 0 && !(o.secretProg && decide (o.prog ≠ 0)))

/-- Bits programmed into 4 bytes of a field, from byte `i` (0 to 1 only; 20_security.md, "OTP"). -/
def orAt (d : List Byte) (i data : Nat) : List Byte := splice d i ((slice d i 4).zipWith (· ||| ·) (leBytes 4 data))

/-- One word programmed into one copy (Table 20-2). The last word of DEV_SECRET or FLEET_KEY also sets its flag (R717; DEDUCED, log entry 8). -/
def OtpCopy.program (k : OtpCopy) (off data : Nat) : OtpCopy :=
  if off < 0x10 then { k with serial := orAt k.serial off data }
  else if off < 0x30 then
    { k with secret := orAt k.secret (off - 0x10) data, lifecycle := if off = 0x2C then k.lifecycle ||| 2 else k.lifecycle }
  else if off < 0x50 then
    { k with fleet := orAt k.fleet (off - 0x30) data, lifecycle := if off = 0x4C then k.lifecycle ||| 4 else k.lifecycle }
  else if off < 0xB0 then
    { k with root := upd k.root ((off - 0x50) / 32) fun d => orAt d ((off - 0x50) % 32) data }
  else if off = 0xB0 then { k with rootState := k.rootState ||| BitVec.ofNat 8 data }
  else if off = 0xB8 then { k with rollback := Nat.lor k.rollback data }
  else if off = 0xBC then { k with rollback := Nat.lor k.rollback (data % 2 ^ 31 * 2 ^ 32) }
  else if off = 0xC0 then { k with lifecycle := k.lifecycle ||| BitVec.ofNat 8 (data % 8) }
  else k

/-- One word programmed into both copies. -/
def State.otpProgram (s : State) (off data : Nat) : State :=
  { s with otpA := s.otpA.program off data, otpB := s.otpB.program off data }

/-- A command accepted or refused through SEC_OTP_CMD, where `o` is the OTP. -/
def Chip.otpStore (c : Chip) (o : OtpView) (port off data : Nat) : Chip :=
  if c.sec.otpRun.isSome || o.refuses off data port then c.misuse 0x400600B8
  else { c with sec.otpRun := some (off, data) }

/-- The same by `port`. -/
def State.otpCmd (s : State) (port off data : Nat) : Host.Outcome State Fault Refusal :=
  s.onChip fun c => c.store port 0x400600B8 fun c => c.otpStore s.otp port off data

/-- OTP_PROGRAM (R717, R719): bit 0 of SEC_OTP_CMD, with the offset in SEC_OTP_ADDR and the word in SEC_OTP_DATA. -/
def execOtpProgram (port : Nat) (s : State) : Host.Outcome State Fault Refusal :=
  s.otpCmd port (s.chip.act 0x400600B0).toNat (s.chip.act 0x400600B4).toNat

/-- OTP_LOCK (R718, R719): bit 1 of SEC_OTP_CMD sets LOCKED. -/
def execOtpLock (port : Nat) (s : State) : Host.Outcome State Fault Refusal := s.otpCmd port 0xC0 1

/-- OTP_PROGRAM_DONE (R717): both copies are written, and the registers show them. -/
def execOtpProgramDone (s : State) : Host.Outcome State Fault Refusal :=
  match s.chip.sec.otpRun with
  | none => .next s
  | some (off, data) =>
    let s := { s with chip.sec.otpRun := none }.otpProgram off data
    .next { s with chip := s.chip.secLoad s.otp }

/-- A store to SEC_REVOKE: a steward core revokes root slot k (R720). -/
def State.revokeStore (s : State) (port : Nat) (v : Word) : State :=
  let o := s.otp
  let k := Machine.fld v 0 2
  let others := (List.range 3).any fun i => decide (i ≠ k) && o.usable i
  if k = 3 ∨ ¬ (36 ≤ port ∧ port < 40) ∨ (s.chip.boot.rom = .done ∧ k = s.chip.boot.keySlot) ∨ o.prog.testBit k = false ∨
      others = false then { s with chip := s.chip.misuse 0x400600A8 }
  else
    let s := s.otpProgram 0xB0 (2 ^ (4 + k))
    { s with chip := (if v &&& 0xFFFFFFFC ≠ 0 then s.chip.misuse 0x400600A8 else s.chip).secLoad s.otp }

/-- SEC_REVOKE (R720). -/
def execSecRevoke (port : Nat) (v : Word) (s : State) : Host.Outcome State Fault Refusal :=
  .next (s.store port 0x400600A8 fun s => s.revokeStore port v)

/-- Key slot `k` emptied. -/
def Chip.clearSlot (c : Chip) (k : Nat) : Chip :=
  { c with sec.slots := upd c.sec.slots k fun _ => none }.setReg (0x40060100 + 4 * k) 0

/-- A store to SEC_KCLR (R726). -/
def Chip.kclrStore (c : Chip) (v : Word) : Chip :=
  (if v &&& 0xFFFFFFF0 ≠ 0 then c.misuse 0x40060140 else c).clearSlot (Machine.fld v 0 4)

/-- SEC_KCLR (R726). -/
def execSecKclr (port : Nat) (v : Word) (s : State) : Host.Outcome State Fault Refusal :=
  s.onChip fun c => c.store port 0x40060140 fun c => c.kclrStore v

/-- The device serial as the registers show it. -/
def Chip.serial (c : Chip) : List Byte := c.block 0x40060010 4

/-- The key-encryption key WRAP names (Table 20-3), where its secret may be used. -/
def Chip.kek (c : Chip) (o : OtpView) (wrap : Nat) : Option (List Byte) :=
  match wrap with
  | 0 => (c.kekSecret o).map fun k => kdf k (ascii "MLM-KEK-DEV") c.serial 256
  | 1 => (c.kekFleet o).map fun k => kdf k (ascii "MLM-KEK-FLT") (List.replicate 16 0) 256
  | _ => none

/-- One KEYWRAP entry unwrapped (R723, R725): its key, when its KEK is available and its tag verifies. -/
def Chip.unwrap (c : Chip) (o : OtpView) (e build : List Byte) : Option (List Byte) :=
  match c.kek o (leAt e 2 1) with
  | none => none
  | some kek =>
    let iv := slice e 8 12
    let ct := slice e 0x18 32
    if gcmTag kek iv (e.take 8 ++ build) ct = slice e 0x38 16 then some (gcmCrypt kek iv ct) else none

/-- A key placed in its slot or in LINK_ROOT (R726). -/
def Chip.placeKey (c : Chip) (e key : List Byte) : Chip :=
  let slot := leAt e 0 1
  let cls := leAt e 3 1 % 8
  let usage := leAt e 1 1
  if slot = 0xFF then { c with sec.linkRoot := some key }.setBit 0x40060004 7 true
  else
    { c with sec.slots := upd c.sec.slots slot fun _ => some ⟨cls, usage, key⟩ }.setReg (0x40060100 + 4 * slot)
      (BitVec.ofNat 32 (1 + 2 * cls + 16 * usage))

/-- The entries of a KEYWRAP body (R723). -/
def wrapEntries (body : List Byte) : List (List Byte) := (List.range (leAt body 4 2)).map fun i => slice body (16 + 72 * i) 72

/-- R724: the body's format is wrong. -/
def wrapBad (body : List Byte) : Bool :=
  let n := leAt body 4 2
  let es := wrapEntries body
  let slots := es.map fun e => leAt e 0 1
  let usageOk := fun (e : List Byte) =>
    match leAt e 1 1 with
    | 0 => decide (leAt e 0 1 = 0)
    | 1 => decide (1 ≤ leAt e 0 1 ∧ leAt e 0 1 ≤ 15)
    | 2 => decide (leAt e 0 1 = 0xFF)
    | _ => false
  decide (leAt body 0 4 ≠ 0x5041524B ∨ n = 0 ∨ 17 < n ∨ body.length ≠ 16 + 72 * n ∨ leAt body 6 10 ≠ 0) ||
    es.any (fun e => !usageOk e || decide (leAt e 4 4 ≠ 0 ∨ leAt e 0x14 4 ≠ 0 ∨ 8 ≤ leAt e 3 1 ∨ 2 ≤ leAt e 2 1)) ||
    decide (slots.eraseDups.length ≠ slots.length) || decide ((slots.filter fun x => decide (x = 0)).length ≠ 1)

/-- LINK_ROOT derived from FLEET_KEY where no entry gives it (R733). -/
def Chip.deriveRoot (c : Chip) (o : OtpView) : Chip :=
  if c.sec.linkRoot.isSome || !o.fleetProg then c
  else
    match c.kekFleet o with
    | none => c
    | some k => { c with sec.linkRoot := some (kdf k (ascii "MLM-LINK-ROOT") (List.replicate 16 0) 256) }.setBit 0x40060004 7 true

/-- Slot 0 emptied when no class may use it (R726). -/
def Chip.dropContent (c : Chip) : Chip :=
  match nth c.sec.slots 0 none with
  | some k => if k.cls = 0 then c.clearSlot 0 else c
  | none => c

/-- The keys restored at a warm wake (R714): an entry that fails leaves its slot empty and sets WRAP_FAIL. -/
def Chip.restoreKeys (c : Chip) (o : OtpView) : Chip :=
  match c.sec.wrapStore with
  | none => c.deriveRoot o
  | some (body, build) =>
    let c := (wrapEntries body).foldl (fun c e =>
      match c.unwrap o e build with
      | some k => c.placeKey e k
      | none => c.setBit 0x40060004 8 true) c
    (c.deriveRoot o).dropContent

/-- The address of port `p`'s link key window at `off` (Table 20-6). -/
def lkReg (p off : Nat) : Nat := 0x40060200 + 0x40 * p + off

/-- CMD START of port `p`'s link key window: a fresh nonce (R729). -/
def Chip.keyStart (c : Chip) (p : Nat) : Chip :=
  let (n, c) := c.drawRng 16
  let c := (List.range 4).foldl (fun c i => c.setReg (lkReg p (4 * i)) (BitVec.ofNat 32 (leAt n (4 * i) 4))) c
  { c with sec.nonceOk := upd c.sec.nonceOk p fun _ => true }.setReg (lkReg p 0x2C) 1

/-- LINK_KEY_START (R729). -/
def execLinkKeyStart (port p : Nat) (s : State) : Host.Outcome State Fault Refusal :=
  s.onChip fun c => if 4 ≤ p then c else c.store port (lkReg p 0x28) fun c => c.keyStart p

/-- CMD INSTALL of port `p`'s link key window: the key and session value of Table 20-3, or a STAT code (R730). -/
def Chip.keyInstall (c : Chip) (p : Nat) : Chip :=
  let fail := fun (k : Nat) => c.setReg (lkReg p 0x2C) (BitVec.ofNat 32 k)
  let own := c.serial.take 8
  let peer := c.block (lkReg p 0x20) 2
  let nOwn := c.block (lkReg p 0) 4
  let nPeer := c.block (lkReg p 0x10) 4
  if Machine.fld (c.reg (0x40040104 + 0x40 * p)) 0 3 ≠ 2 then fail 3
  else if nth c.sec.nonceOk p false = false then fail 4
  else if peer = own then fail 5
  else
    match c.sec.linkRoot with
    | none => fail 6
    | some root =>
      let lo := decide (leNat own < leNat peer)
      let ctx := if lo then nOwn ++ nPeer ++ own ++ peer else nPeer ++ nOwn ++ peer ++ own
      let k := kdf root (ascii "MLM-LINK") ctx 288
      let key : LinkKey := ⟨k.take 32, slice k 32 4, if lo then 0 else 1, 0, 0⟩
      (({ c with sec.linkKeys := upd c.sec.linkKeys p fun _ => some key }.setBit (0x40040104 + 0x40 * p) 5 true)).setReg
        (lkReg p 0x2C) 2

/-- LINK_KEY_INSTALL (R730). -/
def execLinkKeyInstall (port p : Nat) (s : State) : Host.Outcome State Fault Refusal :=
  s.onChip fun c => if 4 ≤ p then c else c.store port (lkReg p 0x28) fun c => c.keyInstall p

/-- SEC_CHAL (R736): the TAP shifts out DEV_SERIAL and the challenge. -/
def execSecChal (s : State) : Host.Outcome State Fault Refusal :=
  s.onChip fun c => if c.secUp then { c with sec.shiftOut := c.serial ++ c.sec.chal } else c

/-- R738: the conditions a token must meet; the root slot it verifies under. -/
def Chip.tokenSlot (c : Chip) (o : OtpView) (t : List Byte) : Option Nat :=
  if t.length = 168 ∧ leAt t 0 4 = 0x4B544244 ∧ leAt t 4 2 = 1 ∧ leAt t 6 2 < 8 ∧ slice t 8 16 = c.serial ∧
      slice t 24 16 = c.sec.chal ∧ ecdsaOk (sha256 (t.take 104)) (slice t 40 64) (slice t 104 64) = true then
    (List.range 3).find? fun k => decide (o.rootHash k = some (sha256 (slice t 40 64)))
  else none

/-- SEC_TOKEN (R737 to R740): a token is accepted, and the device makes a system reset into the session, or it is rejected. -/
def execSecToken (token : List Byte) (s : State) : Host.Outcome State Fault Refusal :=
  let c := s.chip
  if !c.secUp || Machine.bit (c.reg 0x40060004) 6 then .next s
  else
    match c.tokenSlot s.otp token with
    | some k =>
      let perm := leAt token 6 2
      let c := (c.logHw 0x24 (k + 256 * perm)).setBit 0x40060004 3 true
      .next ({ s with chip := { c with sec.perm := perm } }.sysReset)
    | none =>
      s.onChip fun c =>
        let c := { c with sec.rejects := c.sec.rejects + 1 }.newChallenge
        if 8 ≤ c.sec.rejects then c.setBit 0x40060004 6 true else c

end Sys2Proof.Machine
end

