-- ==== Sys2Proof/Machine/Boot.lean ====
section
/-! DEFINITION. The boot ROM up to the verified manifest, the warm and Scan resumes, and start-up fault injection
(03_start_up.md, 04_configuration_image.md, 20_security.md). -/
namespace Sys2Proof.Machine

/-- The image header of slot `b` (Table 04-3). -/
def State.imgHeader (s : State) (b : Nat) : List Byte := s.nvmRead (imageSlot b).base 256

/-- The sections an image header announces. -/
def hdrSections (h : List Byte) : Nat := leAt h 6 2

/-- The manifest of slot `b` (Tables 04-4 and 04-5). -/
def State.manifest (s : State) (b : Nat) : List Byte :=
  let h := s.imgHeader b
  s.nvmRead ((imageSlot b).base + leAt h 0x10 4) (leAt h 0x14 4)

/-- R117: the header breaks its format. -/
def headerBad (h : List Byte) : Bool :=
  let n := hdrSections h
  decide (leAt h 0 4 ≠ 0x31475053 ∨ leAt h 4 2 ≠ 1 ∨ leAt h 0xFC 4 ≠ crc32 (h.take 0xFC) ∨ 16 ≤ leAt h 9 1 ∨ n = 0 ∨ 64 < n ∨
    16773120 < leAt h 0x0C 4 ∨ leAt h 0x10 4 % 256 ≠ 0 ∨ leAt h 0x14 4 ≠ 128 + 64 * n ∨
    leAt h 0x18 4 ≠ leAt h 0x10 4 + leAt h 0x14 4)

/-- The manifest entry of section `i`. -/
def manEntry (m : List Byte) (i : Nat) : List Byte := slice m (128 + 64 * i) 64

/-- R121: the manifest breaks its format. -/
def manifestBad (m : List Byte) (n : Nat) : Bool :=
  decide (leAt m 0 4 ≠ 0x54464E4D ∨ leAt m 4 2 ≠ 1 ∨ leAt m 6 2 ≠ n ∨ leAt m 0x68 24 ≠ 0) ||
    (List.range n).any fun i =>
      let e := manEntry m i
      decide (4 ≤ leAt e 1 1 ∨ leAt e 2 2 ≠ i ∨ leAt e 0x3C 4 ≠ 0)

/-- The ATTEMPT words of slot `b` that do not read erased (R146). -/
def State.attemptsUsed (s : State) (b : Nat) : Nat :=
  ((List.range 3).filter fun i => decide (s.nvmLe ((imageSlot b).base + 0xFFF200 + 0x100 * i) 4 ≠ 0xFFFFFFFF)).length

/-- R145: the slot is pending. -/
def State.slotPending (s : State) (b : Nat) : Bool := decide (s.nvmLe ((imageSlot b).base + 0xFFF100) 4 ≠ 0)

/-- Why slot `b` fails before its sections are loaded, in the order of Table 20-5 (R131, R145, R146); none where it passes. -/
def State.slotCause (s : State) (b : Nat) : Option Nat :=
  let h := s.imgHeader b
  let m := s.manifest b
  let pub := slice m 0x28 64
  if s.slotPending b && decide (3 ≤ s.attemptsUsed b) then some 13
  else if headerBad h then some 2
  else if leAt h 8 1 ≠ Machine.fld (s.chip.reg 0x40060000) 0 8 then some 3
  else if 3 ≤ leAt h 9 1 then some 4
  else if leAt h 0x0A 1 < s.otp.rollback then some 5
  else if 3 ≤ leAt h 0x0B 1 ∨ s.otp.rootHash (leAt h 0x0B 1) ≠ some (sha256 pub) then some 6
  else if ecdsaOk (sha256 m) pub (s.nvmRead ((imageSlot b).base + leAt h 0x18 4) 64) = false ∨ slice m 8 32 ≠ sha256 h then some 7
  else if manifestBad m (hdrSections h) then some 8
  else none

/-- The failure cause of slot `b` recorded (XSPI_BOOT.FAIL_A, FAIL_B). -/
def State.bootFail (s : State) (b cause : Nat) : State :=
  { s with chip := { s.chip with boot.fails := upd s.chip.boot.fails b fun _ => cause } }

/-- XSPI_BOOT as it stands at the end of a boot. -/
def Chip.bootShow (c : Chip) (booted : Bool) (otpRb : Nat) : Chip :=
  let b := c.boot
  let done := if booted then
      b.slot + (if b.slot ≠ b.newer then 2 else 0) + (if b.waiting then 4 else 0) + 16384 * min 3 b.attempts else 0
  c.setReg 0x40055004 (BitVec.ofNat 32 (done + 16 * nth b.fails 0 0 + 512 * nth b.fails 1 0 + 65536 * otpRb +
    2 ^ 24 * min 255 b.crcFaults))

/-- No slot verifies (R133): logged with both causes, and the steward cores halt. -/
def State.bootNone (s : State) : State :=
  let c := s.chip.logStw 36 0x32 (nth s.chip.boot.fails 0 0 + 256 * nth s.chip.boot.fails 1 0)
  let c := c.bootShow false s.otp.rollback
  { s with chip := { c with boot.rom := .halted } }

/-- The lowest clear bits of ROLLBACK set until it counts `n` (R148, Table 20-2); both copies are programmed. -/
def advanceRollback (bits : Nat) : Nat → Nat
  | 0 => bits
  | k + 1 =>
    match (List.range 63).find? fun i => !bits.testBit i with
    | some i => advanceRollback (Nat.lor bits (2 ^ i)) k
    | none => bits

/-- R146 and R148 for a slot whose manifest verifies: a pending slot uses its next ATTEMPT word; a confirmed one advances the OTP
counter. -/
def State.bootCommit (s : State) (b : Nat) : State :=
  let rb := leAt (s.imgHeader b) 0x0A 1
  let used := s.attemptsUsed b
  if s.slotPending b then
    match (List.range 3).find? fun i => decide (s.nvmLe ((imageSlot b).base + 0xFFF200 + 0x100 * i) 4 = 0xFFFFFFFF) with
    | some i => { s.nvmPut ((imageSlot b).base + 0xFFF200 + 0x100 * i) (leBytes 4 0) with
        chip := { s.chip with boot.waiting := true, boot.attempts := used + 1 } }
    | none => s
  else
    let s : State := { s with chip := { s.chip with boot.waiting := false, boot.attempts := used } }
    if s.otp.rollback < rb then
      let bits := advanceRollback (Nat.lor s.otpA.rollback s.otpB.rollback) (rb - countBits (Nat.lor s.otpA.rollback s.otpB.rollback))
      let s : State := { s with otpA := { s.otpA with rollback := bits }, otpB := { s.otpB with rollback := bits } }
      { s with chip := s.chip.secLoad s.otp }
    else s

/-- The boot ROM turns to a slot whose manifest verifies: the first PWR_GRP write, once per power-up (step 8 of Table 03-2, R797), and
the sections to load. -/
def State.bootLoad (s : State) (b : Nat) (rest : List Nat) : State :=
  let s := s.bootCommit b
  let h := s.imgHeader b
  let c := if s.chip.power.grpHold then s.chip.writeGrp 36 0 else s.chip
  { s with chip := { c with
      boot.rom := .loading, boot.slot := b, boot.rest := rest, boot.buildId := slice h 0x20 8, boot.rollback := leAt h 0x0A 1
      boot.keySlot := leAt h 0x0B 1, boot.role := leAt h 9 1 } }

/-- The slots tried in order (R131, R132). -/
def State.bootTry (s : State) : List Nat → State
  | [] => s.bootNone
  | b :: rest =>
    match s.slotCause b with
    | some k => (s.bootFail b k).bootTry rest
    | none => s.bootLoad b rest

/-- GLITCH entries of the last 10 s of RTC time, in the log and its buffer (R743). -/
def Chip.glitches (c : Chip) : Nat :=
  let es := c.logEntries ++ c.log.buf.map fun e => (e.code, e.at32k / 32768)
  (es.filter fun e => decide (e.1 = 0x23 ∧ c.rtcSec ≤ e.2 + 10)).length

/-- The boot ROM's start (R112, R113, R743): `profile1` says that the NVM offers xSPI Profile 1.0 and answers in it. -/
def State.bootStart (s : State) (profile1 : Bool) : State :=
  let c := if profile1 then s.chip.setBit 0x40055000 5 true else (s.chip.setBit 0x40055000 6 true).logStw 36 0x30 0
  let s : State := { s with chip := { c with boot.delayed := decide (4 ≤ c.glitches), boot.fails := [0, 0], boot.crcFaults := 0 } }
  let (age, s) := s.slotsByAge imageSlot 1 0
  let newer := match age with | b :: _ => b | [] => 0
  let s : State := { s with chip := { s.chip with
    boot.newer := newer, boot.fails := (List.range 2).map fun b => if age.contains b then 0 else 1 } }
  s.bootTry age

/-- Start-up fault injection fails in phase B (`i` = 1) or C (`i` = 2): FENCED with cause STARTUP (R685). -/
def Chip.startupFail (c : Chip) (i : Nat) : Chip := (c.setFld 0x40070004 (2 * i) 2 3).fenceCause 15 0

/-- The domains of step 5 of Table 03-2 and Table 02-7. -/
def Chip.syspllDoms (c : Chip) : Chip := (c.setBit 0x40000100 1 true).setDoms [2, 3, 4, 53] true

/-- The converter pairs and MUX_BAL switched on at step 6 of a warm wake, REF_A too where it was not kept (Table 02-7, R76, R801). -/
def Chip.warmSense (c : Chip) : Chip :=
  let c := c.setFld 0x4000002C 0 3 7
  let c := ((c.pairOn 0).pairOn 1).setDom 61 true
  (if c.dom 59 then c else (c.setFld 0x4000002C 3 1 1).setDom 59 true).balLive

/-- SYSPLL_LOCK (R74, R112, R113, R131, R133, R684, R685, R740, R797 to R799): `profile1` as at State.bootStart; `phaseB` is the
outcome of fault-injection phase B (DESIGN CHOICE, log entry 2). -/
def execSyspllLock (profile1 phaseB : Bool) (s : State) : Host.Outcome State Fault Refusal :=
  let c := s.chip
  if !c.bit 0x40000100 0 || c.bit 0x40000100 1 || !c.power.rails then .next s
  else if c.boot.rom ≠ .held ∨ c.power.mode = .fenced then s.onChip fun c => c.setBit 0x40000100 1 true
  else
    let c := c.syspllDoms
    match c.power.kind with
    | .cold =>
      if c.dbgSession then .next { s with chip := { c with boot.rom := .halted } }
      else if Machine.fld (c.reg 0x40070004) 0 2 ≠ 2 then .next { s with chip := c }
      else
        let s := { s with chip := c }.bootStart profile1
        s.onChip fun c => if phaseB then c.setFld 0x40070004 2 2 2 else c.startupFail 1
    | .warm =>
      let ret := c.reg 0x40000014
      let v := (List.range 8).foldl (fun n g => if Machine.bit ret g then n else n + 3 * 4 ^ g) 0
      let c := (c.writeGrp 36 (BitVec.ofNat 32 v)).restoreKeys s.otp
      let c := c.warmSense
      .next { s with chip := { c with boot.rom := .done } }
    | .scan => .next { s with chip := { c.restoreKeys s.otp with boot.rom := .done } }

/-- FI_PHASE_C (R97, R684, R685): it needs REF_A and REF_B settled and phase B passed. -/
def execFiPhaseC (phaseC : Bool) (s : State) : Host.Outcome State Fault Refusal :=
  s.onChip fun c =>
    if Machine.fld (c.reg 0x40070004) 2 2 ≠ 2 ∨ Machine.fld (c.reg 0x40070004) 4 2 = 2 ∨ Machine.fld (c.reg 0x40070004) 4 2 = 3 ∨
        Machine.bit (c.reg 0x40010000) 1 = false ∨ Machine.bit (c.reg 0x40010000) 2 = false ∨ c.dom 1 = false then c
    else if phaseC then c.setFld 0x40070004 4 2 2 else c.startupFail 2

end Sys2Proof.Machine
end

