-- ==== Sys2Proof/Machine/Fabric.lean ====
section
/-! DEFINITION. Bank arbitration, the scrubber and the partition registers (08_memory_and_fabric.md). -/
namespace Sys2Proof.Machine

/-- Bit errors arise in a stored word (R298, R794): `n` bits beside those it already holds. -/
def Chip.arise (c : Chip) (w n : Nat) : Chip :=
  let w := canon (w / 8 * 8)
  let had := match Sparse.find w c.ecc with | none => 0 | some .single => 1 | some .double => 2 | some .many => 3
  let e : Option EccErr := match had + n with | 0 => none | 1 => some .single | 2 => some .double | _ => some .many
  match e with
  | none => c
  | some e => { c with ecc := Sparse.put w e c.ecc }

/-- Several words' bit errors. -/
def Chip.ariseAll (c : Chip) (us : List (Nat × Nat)) : Chip := us.foldl (fun c u => c.arise u.1 u.2) c

/-- Tokens of bucket `i` (0 to 23 a group's class, 24 to 35 a link's), in whole tokens. -/
def Chip.tokens (c : Chip) (i : Nat) : Nat := nth c.clocks.tokens i 0 / 1024

/-- `n` tokens taken from bucket `i`. -/
def Chip.takeTokens (c : Chip) (i n : Nat) : Chip :=
  { c with clocks.tokens := upd c.clocks.tokens i fun t => t - 1024 * n }

/-- A request (port, class, beats) to bank `b` is eligible (R323, R325). -/
def Chip.eligible (c : Chip) (b : Nat) (r : Nat × Nat × Nat) : Bool :=
  decide (r.1 = 40 ∨ r.2.2 ≤ c.tokens (3 * (b / 2) + r.2.1))

/-- The request whose port is first reached counting upward from `p`, modulo 64 (R311). -/
def firstFrom (p : Nat) (rs : List (Nat × Nat × Nat)) : Option (Nat × Nat × Nat) :=
  (List.range 64).findSome? fun i => rs.find? fun r => decide (r.1 = (p + i) % 64)

/-- BANK_GRANT (R311, R323): bank `b` is free and holds these requests (port, class, beats). -/
def execBankGrant (b : Nat) (reqs : List (Nat × Nat × Nat)) (s : State) : Host.Outcome State Fault Refusal :=
  s.onChip fun c =>
    if 16 ≤ b then c
    else
      let c := (List.range 3).foldl (fun c k =>
        if reqs.any fun r => decide (r.2.1 = k) && !c.eligible b r then c.incFld (0x400201C0 + 4 * k) 0 32 1 else c) c
      let ok := reqs.filter fun r => decide (r.2.1 < 3) && c.eligible b r
      match (List.range 3).find? fun k => ok.any fun r => decide (r.2.1 = k) with
      | none => { c with bankGrant := upd c.bankGrant b fun _ => none }
      | some k =>
        match firstFrom (nth (nth c.bankPtr b []) k 0) (ok.filter fun r => decide (r.2.1 = k)) with
        | none => c
        | some r =>
          let c : Chip := { c with
            bankPtr := upd c.bankPtr b fun ps => upd ps k fun _ => (r.1 + 1) % 64
            bankGrant := upd c.bankGrant b fun _ => some r }
          if r.1 = 40 then c else c.takeTokens (3 * (b / 2) + k) r.2.2

/-- The first shared SRAM word from `a` on whose group is awake (R301); the groups repeat every 128 words. -/
def Chip.scrubNext (c : Chip) (a : Nat) : Option Nat :=
  ((List.range 128).map fun i => a + 8 * i).find? fun w => decide (w < 0x800000 ∧ nth c.power.grp (grpOf w) .off = GrpState.awake)

/-- SCRUB_READ (R301): `upsets` are the bit errors that have arisen in stored words (DESIGN CHOICE, log entry 2). -/
def execScrubRead (upsets : List (Nat × Nat)) (s : State) : Host.Outcome State Fault Refusal :=
  s.onChip fun c =>
    let c := c.ariseAll upsets
    if c.dom 4 = false ∨ c.bit 0x4002000C 0 = false then c
    else
      match (match c.scrubNext c.scrub with | some w => some w | none => c.scrubNext 0) with
      | none => c
      | some w =>
        let c := (c.eccRead w).2
        match c.scrubNext (w + 8) with
        | some n => { c with scrub := n }
        | none => { c with scrub := 0 }.setBit 0x40020000 3 true

/-- A store to register `which` (0 BASE, 1 LIMIT, 2 MASKLO, 3 MASKHI, 4 ATTR) of region `r` (R8, R319). -/
def Chip.partStore (c : Chip) (port r which : Nat) (v : Word) : Chip :=
  let a := 0x40020900 + 0x20 * r + 4 * which
  if which = 4 ∧ Machine.bit v 0 = true ∧ Machine.bit (c.partReg r 4) 0 = false ∧
      (c.partReg r 1).toNat / 64 < (c.partReg r 0).toNat / 64 then c.misuse a
  else c.storeReg port a v

/-- PART_ATTR_WRITE (R8, R319). -/
def execPartAttrWrite (port r which : Nat) (v : Word) (s : State) : Host.Outcome State Fault Refusal :=
  s.onChip fun c =>
    if 16 ≤ r ∨ 5 ≤ which then c
    else c.store port (0x40020900 + 0x20 * r + 4 * which) fun c => c.partStore port r which v

end Sys2Proof.Machine
end

