-- ==== Sys2Proof/Machine/Image.lean ====
section
/-! DEFINITION. The load of an image's sections by the boot ROM (04_configuration_image.md, "Section headers and block CRCs" and
"Section types"; 20_security.md, "KEYWRAP section" and Table 20-5). -/
namespace Sys2Proof.Machine

/-- One section as its manifest entry gives it. -/
structure Section where
  typ : Nat
  flags : Nat
  idx : Nat
  off : Nat
  len : Nat
  target : Nat
  entry : List Byte
  deriving DecidableEq, Repr

/-- Section `i` of a manifest (Table 04-5). -/
def sectionAt (m : List Byte) (i : Nat) : Section :=
  let e := manEntry m i
  ⟨leAt e 0 1, leAt e 1 1, leAt e 2 2, leAt e 4 4, leAt e 8 4, leAt e 0x0C 4, e⟩

/-- The section is encrypted. -/
def Section.enc (k : Section) : Bool := k.flags.testBit 0

/-- Bytes that reach the target: ciphertext sections lose their tag (R727). -/
def Section.size (k : Section) : Nat := if k.enc then k.len - 16 else k.len

/-- Largest count of a section type, and whether it may be encrypted (Table 04-7). -/
def typeLimit (t : Nat) : Option (Nat × Bool) :=
  match t with
  | 1 => some (1, false)
  | 2 => some (1, false)
  | 3 => some (32, true)
  | 4 => some (16, true)
  | 5 => some (36, true)
  | 6 => some (1, false)
  | 7 => some (1, false)
  | 8 => some (1, false)
  | 9 => some (1, false)
  | 10 => some (1, false)
  | _ => none

/-- R127, R128, R724: a type, a count, an ENC flag or the place of KEYWRAP breaks its rule. -/
def sectionsBad (ks : List Section) : Bool :=
  let count := fun t => (ks.filter fun k => decide (k.typ = t)).length
  let wrapAt := (ks.findIdx? fun k => decide (k.typ = 10)).getD ks.length
  ks.any (fun k => match typeLimit k.typ with
    | some (n, e) => decide (n < count k.typ) || (k.enc && (!e || decide (k.idx < wrapAt) || decide (k.len < 16)))
    | none => true) ||
  decide (count 1 ≠ 1 ∨ count 2 ≠ 1 ∨ count 6 ≠ 1 ∨ count 9 ≠ 1) ||
  (ks.any fun k => decide (k.typ = 2) && !k.flags.testBit 1) ||
  decide (count 10 ≠ if ks.any Section.enc then 1 else 0)

/-- The address a section is loaded to, when it has one. -/
def Section.base (k : Section) : Option Nat :=
  if k.typ = 6 ∨ k.typ = 10 then none else if k.typ = 1 then some (0x30000000 + k.target) else some k.target

/-- A load range reaches the byte of memory at canonical address `x`. -/
def covers (base n x : Nat) : Bool :=
  let x := if 0x08000000 ≤ base ∧ base < 0x08800000 ∧ x < 0x800000 then
      0x08000000 + x / 64 % 16 * 0x80000 + x / 1024 * 64 + x % 64 else x
  decide (base ≤ x ∧ x < base + n)

/-- Two load ranges share a 64-byte line. -/
def overlap (a n b m : Nat) : Bool := decide (0 < n) && (linesOf a n).any fun l => covers b m (canon l)

/-- R128, R90, R656: a load range breaks its rule. -/
def targetBad (ks : List Section) (k : Section) : Bool :=
  match k.base with
  | none => decide (k.target ≠ 0)
  | some a =>
    let n := k.size
    let room :=
      match k.typ with
      | 1 => decide (k.target + n ≤ 0x40000) && decide (k.target + n ≤ 0x3FFC0)
      | 5 => decide (0x10000000 ≤ a ∧ a < 0x10480000 ∧ a + n ≤ bufBase ((a - 0x10000000) / 0x20000) + bufSize ((a - 0x10000000) / 0x20000))
      | _ => (decide (a + n ≤ 0x800000) || decide (0x08000000 ≤ a ∧ a + n ≤ 0x08800000)) && !overlap a n dumpBase 65536
    decide (k.target % 64 ≠ 0) || !room ||
      ks.any fun j => decide (j.idx < k.idx) && (match j.base with | some b => overlap a n b j.size | none => false)

/-- R124: the section header stored differs from its manifest entry or is malformed. -/
def secHeaderBad (k : Section) (h : List Byte) : Bool :=
  decide (leAt h 0 4 ≠ 0x54434553 ∨ slice h 4 4 ≠ slice k.entry 0 4 ∨ slice h 8 4 ≠ slice k.entry 8 4 ∨
    slice h 0x0C 4 ≠ slice k.entry 0x0C 4 ∨ leAt h 0x10 4 ≠ 32 + k.len ∨ leAt h 0x14 4 ≠ (k.len + 4095) / 4096 ∨
    leAt h 0x1C 4 ≠ crc32 (h.take 0x1C))

/-- The blocks of a body that fail their CRC (R125). -/
def badBlocks (body tab : List Byte) : List Nat :=
  (List.range ((body.length + 4095) / 4096)).filter fun k => decide (crc32 (slice body (4096 * k) 4096) ≠ leAt tab (4 * k) 4)

/-- R125: the faults counted and logged. -/
def Chip.crcFaults (c : Chip) (slot idx : Nat) (bad : List Nat) : Chip :=
  bad.foldl (fun c b =>
    { c with boot.crcFaults := c.boot.crcFaults + 1 }.logStw 36 0x31 (idx + 64 * (b % 4096) + 2 ^ 18 * slot)) c

/-- The KEYWRAP body unwrapped into the slots, or the failure's cause (R723 to R726). -/
def Chip.loadWrap (c : Chip) (o : OtpView) (build body : List Byte) : Except Nat Chip :=
  if wrapBad body then .error 9
  else (wrapEntries body).foldl (fun r e => match r with
    | .error k => .error k
    | .ok c => match c.unwrap o e build with
      | some key => .ok (c.placeKey e key)
      | none => .error 12) (.ok { c with sec.wrapLast := some (body, build) })

/-- An engine switched ON for its ENGINE_LOCAL section (R307). -/
def Chip.engineOn (c : Chip) (e : Nat) : Chip :=
  let c := c.setFld (0x40000018 + 4 * (e / 16)) (2 * (e % 16)) 2 1
  if (c.engine e).pw = .up then c else { c with eng := upd c.eng e fun g => { g with pw := .up } }.setDom (13 + e) true

/-- A section's bytes in place. -/
def Chip.placeSection (c : Chip) (k : Section) (d : List Byte) : Chip :=
  match k.base with
  | none => c
  | some a => (if k.typ = 5 then c.engineOn ((a - 0x10000000) / 0x20000) else c).pokeN a d

/-- One section loaded, with the cause if it fails: header, block CRCs, hash, and its content (R124 to R129, R727). -/
def State.loadSection (s : State) (slot : Nat) (ks : List Section) (k : Section) : Option Nat × State :=
  let a := (imageSlot slot).base + k.off
  let h := s.nvmRead a 32
  let body := s.nvmRead (a + 32) k.len
  let tab := s.nvmRead (a + 32 + k.len) (4 * ((k.len + 4095) / 4096))
  if secHeaderBad k h then (some 9, s)
  else if targetBad ks k then (some 10, s)
  else
    let c := s.chip.crcFaults slot k.idx (badBlocks body tab)
    let put := fun (c : Chip) => (none, { s with chip := c })
    let fail := fun (e : Nat) => (some e, { s with chip := c })
    if sha256 (h ++ body) ≠ slice k.entry 0x10 32 then fail 11
    else if k.typ = 10 then
      match c.loadWrap s.otp c.boot.buildId body with
      | .ok c => put c
      | .error e => fail e
    else if k.enc then
      match nth c.sec.slots 0 none with
      | none => fail 12
      | some key =>
        let iv := slice k.entry 0x30 12
        let ct := body.take (k.len - 16)
        if gcmTag key.key iv h ct = body.drop (k.len - 16) then put (c.placeSection k (gcmCrypt key.key iv ct)) else fail 12
    else put (c.placeSection k body)

/-- The sections of the slot being loaded. -/
def State.sections (s : State) : List Section :=
  let b := s.chip.boot.slot
  (List.range (hdrSections (s.imgHeader b))).map fun i => sectionAt (s.manifest b) i

/-- All sections in manifest order; a failure keeps what the earlier ones left and gives its cause. -/
def State.loadAll (s : State) (ks : List Section) : List Section → Option Nat × State
  | [] => (none, s)
  | k :: r =>
    match s.loadSection s.chip.boot.slot ks k with
    | (none, s) => s.loadAll ks r
    | (some e, s) => (some e, s)

/-- Register writes of a PARTITION section applied and locked (R129, R319). -/
def Chip.applyPartition (c : Chip) (ws : List (Nat × Word)) : Chip :=
  let c := ws.foldl (fun c w =>
    if 0x40020900 ≤ w.1 ∧ w.1 < 0x40020B00 ∧ w.1 % 0x20 < 0x14 then
      c.partStore 36 ((w.1 - 0x40020900) / 0x20) (w.1 % 0x20 / 4) w.2
    else if w.1 / 0x10000 = 0x4002 ∨ w.1 / 0x10000 = 0x4003 then c.storeReg 36 w.1 w.2
    else c) c
  c.setBit 0x40020800 0 true

/-- The hand-over record for Belfry (18_belfry.md, "From reset to READY"). -/
def Chip.handover (c : Chip) (stage len : Nat) : Chip :=
  c.pokeN 0x3003FFC0 (leBytes 4 0x4F564448 ++ leBytes 4 stage ++ leBytes 4 len ++ List.replicate 52 (0 : Byte))

/-- The end of a successful load: PARTITION applied and locked, the slot protected, the hand-over record written, the content key
dropped, LINK_ROOT derived, and STW_FW started (R129, R149, R726, R733). -/
def State.bootDone (s : State) (ks : List Section) (part : List (Nat × Word)) : State :=
  let o := s.otp
  let c := s.chip.applyPartition part
  let c := match ks.find? fun k => decide (k.typ = 2) with
    | some k => c.handover k.target k.len
    | none => c
  let c := (c.deriveRoot o).dropContent
  let c := (c.bootShow true o.rollback).setBit 0x40055018 c.boot.slot true |>.setBit 0x40055018 31 true
  { s with chip := { c with boot.rom := .done } }

/-- The load of the slot in hand; a failure falls to the next slot that verifies, whose load is another IMAGE_LOADED (R132, R133). The
Boolean says that the image runs. -/
def State.imageLoad (s : State) (part : List (Nat × Word)) : Bool × State :=
  let ks := s.sections
  let fail := fun (s : State) (e : Nat) => (false, (s.bootFail s.chip.boot.slot e).bootTry s.chip.boot.rest)
  if sectionsBad ks then fail s 9
  else
    match s.loadAll ks ks with
    | (some e, s) => fail s e
    | (none, s) => (true, s.bootDone ks part)

end Sys2Proof.Machine
end

