-- ==== Sys2Proof/Machine/BelProgram.lean ====
section
/-! DEFINITION. Plausibility programs: their layout, the checks Belfry makes of them, and the hand-over (18_belfry.md, "From reset to
READY" and "Plausibility programs"). -/
namespace Sys2Proof.Machine

/-- Check entries of a program (Table 18-3, NCHK). -/
def nchk (p : List Byte) : Nat := leAt p 6 2

/-- Check entry `i` (Table 18-5), 32 bytes. -/
def chkEntry (p : List Byte) (i : Nat) : List Byte := slice p (0x148 + 32 * i) 32

/-- All check entries. -/
def chkEntries (p : List Byte) : List (List Byte) := (List.range (nchk p)).map fun i => chkEntry p i

/-- Chemistry blocks of a program. -/
def nchem (p : List Byte) : Nat := leAt p 0x1B 1

/-- Chemistry block `j` (Table 18-4), 528 bytes. -/
def chemBlock (p : List Byte) (j : Nat) : List Byte := slice p (0x148 + 32 * nchk p + 528 * j) 528

/-- The chemistry block that serves a CHEM_ID. -/
def chemOf (p : List Byte) (id : Nat) : Option (List Byte) :=
  ((List.range (nchem p)).map fun j => chemBlock p j).find? fun b => decide (leAt b 0 4 = id)

/-- An FP32 field that is finite and for which `f` holds. -/
def okQ (p : List Byte) (off : Nat) (f : Q → Bool) : Bool :=
  match fp32.toQ (leAt p off 4) with
  | some x => f x
  | none => false

/-- The OCV table of a chemistry block: 64 pairs (SOC, OCV). -/
def ocvTable (b : List Byte) : List (Q × Q) := (List.range 64).map fun i => (q32At b (16 + 8 * i), q32At b (20 + 8 * i))

/-- Strictly ascending. -/
def ascending : List Q → Bool
  | [] => true
  | [_] => true
  | x :: y :: r => x.lt y && ascending (y :: r)

/-- A chemistry block breaks Table 18-4. -/
def chemBad (b : List Byte) : Bool :=
  let t := ocvTable b
  !okQ b 4 (fun x => decide (0 < x.num)) || !okQ b 8 (fun x => Q.le ⟨6, 1000⟩ x) || !okQ b 12 (fun _ => true) ||
    (List.range 128).any (fun i => !fp32.isFin (leAt b (16 + 4 * i) 4)) ||
    !ascending (t.map (·.1)) || !ascending (t.map (·.2))

/-- A check entry breaks Table 18-5 or 18-6 (R667). -/
def chkBad (p e : List Byte) : Bool :=
  let kind := leAt e 0 1
  let p0 := leAt e 0x10 4
  let failUsed := decide (kind = 1 ∨ kind = 2 ∨ kind = 4 ∨ kind = 7)
  decide (kind = 0 ∨ 7 < kind ∨ leAt e 3 1 ≠ 0 ∨ leAt e 0x18 8 ≠ 0 ∨ 9 < leAt e 2 1) ||
    (failUsed && decide (leAt e 1 1 ≠ 2 ∧ leAt e 1 1 ≠ 3)) ||
    !(match fp32.toQ (leAt e 8 4), fp32.toQ (leAt e 12 4) with | some lo, some hi => lo.le hi | _, _ => false) ||
    (decide (kind = 4) && (decide (p0 = 0 ∨ 1000 < p0) || !(decide (3 ≤ leAt e 2 1 ∧ leAt e 2 1 ≤ 6)))) ||
    (decide (kind = 7) && decide (leAt p 0x10 4 ≤ p0 ∨ 4096 < leAt e 0x14 4))

/-- R667: the program is refused; `len` is the body's length. -/
def programBad (p : List Byte) (len : Nat) : Bool :=
  let es := chkEntries p
  let n := nchk p
  let m := nchem p
  let slots := leAt p 0x18 2
  let has := fun (k : Nat) => es.any fun e => decide (leAt e 0 1 = k)
  let cross := es.filter fun e => decide (leAt e 0 1 = 3)
  let ids := (List.range m).map fun j => leAt (chemBlock p j) 0 4
  decide (n < 5 ∨ 256 < n ∨ 65536 < leAt p 0x10 4 ∨ leAt p 0x10 4 % 4 ≠ 0 ∨ leAt p 0x14 4 % 64 ≠ 0) ||
    !([8, 16, 32, 64, 128, 256].contains slots) || decide (leAt p 0x1A 1 < 6 ∨ 20 < leAt p 0x1A 1 ∨ m = 0 ∨ 16 < m) ||
    !okQ p 0x1C (fun x => decide (0 < x.num)) || !okQ p 0x20 (fun x => decide (0 < x.num)) ||
    !okQ p 0x24 (fun x => Q.le ⟨60, 1⟩ x && x.le ⟨7200, 1⟩) || !okQ p 0x28 (fun x => decide (0 ≤ x.num) && x.le (q32At (leBytes 4 0x3DCCCCCD) 0)) ||
    !okQ p 0x2C (fun x => decide (0 ≤ x.num)) || !okQ p 0x30 (fun x => decide (0 ≤ x.num)) ||
    !okQ p 0x34 (fun x => decide (0 < x.num) && x.le (q32At (leBytes 4 0x3D4CCCCD) 0)) ||
    !okQ p 0x38 (fun lo => okQ p 0x3C fun hi => lo.lt hi) || !okQ p 0x40 (fun _ => true) || decide (leAt p 0x44 4 ≠ 0) ||
    decide (len ≠ 0x148 + 32 * n + 528 * m + leAt p 0x10 4 + 128) ||
    es.any (chkBad p) || (List.range m).any (fun j => chemBad (chemBlock p j)) || decide (ids.eraseDups.length ≠ ids.length) ||
    decide (cross.length ≠ 1) ||
    cross.any (fun e => !(decide (0 < (q32At e 8).num) && (q32At e 8).lt (q32At e 12) && (q32At e 12).le ⟨1, 2⟩)) ||
    !has 5 || !has 6 || !has 2 || !(es.any fun e => decide (leAt e 0 1 = 4 ∧ leAt e 2 1 = 3))

/-- The check list's beads up to the one with LAST (R212). -/
def listBeads (p : List Byte) : List Nat :=
  let ws := (List.range 32).map fun i => leAt p (0x48 + 8 * i) 8
  match ws.findIdx? fun w => nbit w 51 with
  | some i => ws.take (i + 1)
  | none => ws

/-- R668: the check list is refused. -/
def chkListBad (p : List Byte) : Bool :=
  let ws := listBeads p
  ws.any (fun w => !forMuxc (nfld w 0 6)) || !(ws.any fun w => decide (nfld w 0 6 = 0x14)) ||
    (List.range (leAt p 0x1A 1)).any (fun k => !(ws.any fun w => decide (nfld w 0 6 = k))) ||
    decide (2000 < (ws.map fun w => nfld w 18 16 + nfld w 6 12 + 1).foldl (· + ·) 0)

/-- P1 of the program's FROZEN entries combined: the noisy channels (R687). -/
def noisyMask (p : List Byte) : Nat :=
  (chkEntries p).foldl (fun m e => if leAt e 0 1 = 6 then Nat.lor m (leAt e 0x14 4) else m) 0

/-- Belfry's start ends with a cause in SAF_START.SECTION (R658). -/
def Chip.startCause (c : Chip) (k : Nat) : Chip := (c.setFld 0x40070004 8 4 k).blog 4 k 0

/-- Belfry may take the hand-over: START, fault injection complete, no cause yet, no program yet (R658). -/
def Chip.awaitsHandover (c : Chip) : Bool :=
  c.dom 1 && decide (c.saf = 0) && c.phaseCPassed && decide (Machine.fld (c.reg 0x40070004) 8 4 = 0) && c.bel.prog.isEmpty &&
    !c.safe.held

/-- A hand-over record stands in steward SRAM: its staging address and LENGTH. -/
def Chip.handoverAt (c : Chip) : Option (Nat × Nat) :=
  let r := c.peekN 0x3003FFC0 64
  if leAt r 0 4 = 0x4F564448 ∧ leAt r 12 52 = 0 then some (leAt r 4 4, leAt r 8 4) else none

/-- HANDOVER_RECORD (R657, R658, R667, R668): Belfry copies the body and verifies it; the cause of a failure stands in SECTION. -/
def execHandoverRecord (s : State) : Host.Outcome State Fault Refusal :=
  let o := s.otp
  s.onChip fun c =>
    if !c.awaitsHandover then c
    else
      match c.handoverAt with
      | none => c
      | some (a, len) =>
        if len < 456 ∨ 0x40000 < len then c.startCause 2
        else
          match c.read 40 0 a len with
          | (.ok p, c) =>
            let pub := slice p (len - 128) 64
            if leAt p 0 4 ≠ 0x504C4542 ∨ leAt p 4 2 ≠ 1 then c.startCause 2
            else if !((List.range 3).any fun k => decide (o.rootHash k = some (sha256 pub))) then c.startCause 3
            else if ecdsaOk (sha256 (p.take (len - 128))) pub (slice p (len - 64) 64) = false then c.startCause 4
            else if programBad p len then c.startCause 5
            else if chkListBad p then c.startCause 6
            else ({ c with bel.prog := p }.setReg 0x4007003C (BitVec.ofNat 32 (leAt p 8 4))).blog 5 0 (leAt p 8 4)
          | (_, c) => c.startCause 2

/-- HANDOVER_NOT_STAGED (R658): 1 s after phase C no valid record has appeared. -/
def execHandoverNotStaged (s : State) : Host.Outcome State Fault Refusal :=
  s.onChip fun c => if c.awaitsHandover && c.handoverAt.isNone then c.startCause 1 else c

/-- REFB_CAL_TIMEOUT (R254): 100 ms after the record's appearance REF_B has not settled. -/
def execRefbCalTimeout (s : State) : Host.Outcome State Fault Refusal :=
  s.onChip fun c =>
    if c.dom 1 && decide (c.saf = 0) && decide (Machine.fld (c.reg 0x40070004) 8 4 = 0) && c.handoverAt.isSome &&
        !Machine.bit (c.reg 0x40010000) 2 && !Machine.bit (c.reg 0x40010110) 8 then c.startCause 7
    else c

/-- BELFRY_READY (R658, R699): every condition holds; a marking cause active by then marks Belfry at once. -/
def execBelfryReady (s : State) : Host.Outcome State Fault Refusal :=
  s.onChip fun c =>
    if c.dom 1 && decide (c.saf = 0) && c.phaseCPassed && decide (Machine.fld (c.reg 0x40070004) 8 4 = 0) && !c.bel.prog.isEmpty &&
        Machine.bit (c.reg 0x22000100) 0 && Machine.bit (c.reg 0x40010000) 2 && Machine.bit (c.reg 0x40010110) 8 && !c.safe.held &&
        decide (c.power.mode ≠ .fenced ∧ c.power.mode ≠ .dark ∧ c.power.mode ≠ .watch) then
      let c := (c.setSaf 1).setFld 0x40070004 16 16 (sat 16 ((c.clocks.packNs - c.bel.romNs) / 1000000))
      match (List.range 6).find? fun i => Machine.bit (c.reg 0x40070040) (8 + i) with
      | some i => c.enterMarked (8 + i)
      | none => c
    else c

end Sys2Proof.Machine
end

