-- ==== Sys2Proof/Machine/BelCount.lean ====
section
/-! DEFINITION. The check path, Belfry's coulomb count and coarse estimate, anchors and balancing consent (18_belfry.md, "The check
path", "Belfry's coarse estimate" and "Balancing consent and converter control"). -/
namespace Sys2Proof.Machine

/-- Belfry's data changed. -/
def Chip.onBel (c : Chip) (f : Bel → Bel) : Chip := { c with bel := f c.bel }

/-- SHUNT of the program (Table 18-3). -/
def Bel.shunt (b : Bel) : Q := q32At b.prog 0x1C

/-- The current of an ISNS code in A (R662). -/
def Bel.current (b : Bel) (code : Int) : Q := (Q.mk' (code * 80) 8192000).div b.shunt

/-- I_MAX = 80 mV ÷ SHUNT (R662). -/
def Bel.iMax (b : Bel) : Q := (⟨2, 25⟩ : Q).div b.shunt

/-- The voltage of a CELLk code in V (Table 05-2). -/
def cellVolt (code : Int) : Q := Q.mk' (245000000 + code * 34375) 100000000

/-- `n` ADC4 clocks in seconds (R660); CLK_BELMON.LAST still 0 counts as its nominal value. -/
def Chip.adc4Secs (c : Chip) (n : Nat) : Q :=
  let last := Machine.fld (c.reg 0x40000108) 0 16
  if last = 0 then Q.mk' n 2000000 else Q.mk' (n * 65536) (10 * last * 2000000)

/-- An interval of `dt` s ends at a new ISNS entry (R661, R662): Q_B and the total at the last used current, Q_ABS and t_A four times
under CAL_STALE, and in a gap Q_GAP at I_MAX. -/
def Bel.integrate (b : Bel) (dt : Q) : Bel :=
  match b.isns with
  | [] => if b.gap then { b with qGap := b.qGap.add (b.iMax.mul dt), tA := b.tA.add dt } else { b with tA := b.tA.add dt }
  | e :: _ =>
    let dq := e.cur.mul dt
    let w : Q := if b.stale then ⟨4, 1⟩ else ⟨1, 1⟩
    let b := { b with qB := b.qB.add dq, tot := b.tot.add dq, tA := b.tA.add (w.mul dt) }
    if b.gap then { b with qGap := b.qGap.add (b.iMax.mul dt) } else { b with qAbs := b.qAbs.add (w.mul (dq.abs)) }

/-- An ADC4 entry is used (R661). -/
def entryUsed (e : Nat) : Bool := !e.testBit 14 && !e.testBit 15 && !e.testBit 30

/-- An ISNS entry at ADC4 clock `clk`, stamped `ns` (R661 to R663). -/
def Chip.belIsns (c : Chip) (ns clk e : Nat) : Chip :=
  let b := c.bel
  let b := match b.lastClk with
    | some k => b.integrate (c.adc4Secs (clk - k))
    | none => b
  let b :=
    if entryUsed e then
      let cur := b.current (sext 14 e)
      let new : BelIsns := ⟨ns, cur, b.tot⟩
      let loud := !cur.abs.le (q32At b.prog 0x20)
      { b with
        isns := new :: b.isns.filter (fun x => decide (ns < x.ns + 1000000000))
        gap := false, stale := e.testBit 31
        quiet := if loud then none else (match b.quiet with | some t => some t | none => some ns)
        anchored := if loud then none else b.anchored, rested := b.rested && !loud }
    else { b with gap := true }
  { c with bel := { b with lastClk := some clk } }

/-- A CELLk entry (R660, R661). -/
def Chip.belCell (c : Chip) (k ns e : Nat) : Chip :=
  if entryUsed e then
    c.onBel fun b => { b with cells := upd b.cells k fun x => { x with ents := ((sext 14 e, ns) :: x.ents).take 64 } }
  else c

/-- One entry of a check-lane frame. -/
def Chip.belEntry (c : Chip) (ns clk e : Nat) : Chip :=
  let ch := nfld e 16 6
  if ch = 0x14 then c.belIsns ns clk e
  else if ch < 20 then c.belCell ch ns e
  else if ch = 0x24 ∧ entryUsed e = true then c.onBel fun b => { b with temp := some (sext 14 e) }
  else c

/-- ADC4 clocks from a frame's first entry to its second: the next conversion of the bead, or the first one of another (R216, R235). -/
def Chip.secondAfter (c : Chip) (e0 e1 : Nat) : Nat :=
  if nfld e0 22 7 = nfld e1 22 7 then 1 else 1 + nfld (c.chkBead (nfld e1 22 7 % 32)) 18 16

/-- The full ADC4 clock of a 16-bit stamp, not before clock `k`. -/
def unwrap16 (k ts : Nat) : Nat := k + (ts + 65536 - k % 65536) % 65536

/-- The entries of an accepted check-lane frame; `gap` says that frames are missing before it (R660, R661). -/
def Chip.belFrame (c : Chip) (f : List Byte) (gap : Bool) : Chip :=
  if c.bel.prog.isEmpty then c
  else
    let ns := (c.clocks.packNs + 2 ^ 64 - 3500) % 2 ^ 64
    let c := if gap then c.onBel fun b => { b with gap := true } else c
    let n := min 2 (leAt f 2 1)
    if n = 0 then c
    else
      let clk := unwrap16 c.bel.clk (leAt f 12 2)
      let e0 := leAt f 4 4
      let e1 := leAt f 8 4
      let c := (c.onBel fun b => { b with clk := clk }).belEntry ns clk e0
      if n = 2 then c.belEntry ns (clk + c.secondAfter e0 e1) e1 else c

/-- A check-lane frame is dropped (R192): its entries leave a gap. -/
def Chip.checkDrop (c : Chip) (f : List Byte) : Chip :=
  ((c.incFld 0x40010020 0 16 1).frameSeen 1 (leAt f 0 2) true false).onBel fun b => { b with gap := true }

/-- CHECK_FRAME_RECEIVE (R192, R193, R660, R661, R688): the oldest check-lane frame reaches Belfry, as `wire` says. -/
def execCheckFrameReceive (wire : Option (List Byte)) (s : State) : Host.Outcome State Fault Refusal :=
  s.onChip fun c =>
    match c.sense.check.wire with
    | [] => c
    | sent :: rest =>
      let f := arrived wire sent
      let c : Chip := { c with sense.check := { c.sense.check with wire := rest } }
      if f.isEmpty || !c.dom 1 then c
      else if f.length ≠ 16 ∨ crc16From 0xFFFF (f.take 14) ≠ leAt f 14 2 then c.checkDrop f
      else
        let (gap, l) := c.sense.check.accept (leAt f 0 2) []
        let c : Chip := { c with sense.check := { l with lastAt := c.now640 } }
        let c := ((c.incFld 0x40010020 16 16 gap).armShow).frameSeen 1 (leAt f 0 2) false (decide (0 < gap))
        c.belFrame f (decide (0 < gap))

/-- V_B for anchors: the mean of a cell's last 16 used entries (R663). -/
def BelCell.vb (k : BelCell) : Option Q :=
  if k.ents.length < 16 then none
  else some ((Q.sum ((k.ents.take 16).map fun e => cellVolt e.1)).div ⟨16, 1⟩)

/-- Inverse interpolation of an OCV table at `v`: the SoC and the slope of the segment; outside the table its end and end segment. -/
def ocvInverse : List (Q × Q) → Q → Q × Q
  | (s0, v0) :: (s1, v1) :: r, v =>
    let slope := (v1.sub v0).div (s1.sub s0)
    if v.le v0 then (s0, slope)
    else if v.le v1 then (s0.add ((v.sub v0).div slope), slope)
    else match r with
      | [] => (s1, slope)
      | _ :: _ => ocvInverse ((s1, v1) :: r) v
  | _, _ => (⟨0, 1⟩, ⟨1, 1⟩)

/-- Every own cell anchored with chemistry block `b` (R663). -/
def Bel.anchor (b : Bel) (blk : List Byte) (ns : Nat) : Bel :=
  let cells := b.cells.map fun k =>
    match k.vb with
    | some v =>
      let (soc, slope) := ocvInverse (ocvTable blk) v
      { k with anchor := some (soc, ((q32At blk 8).div slope).add (q32At blk 12)) }
    | none => { k with anchor := none }
  { b with cells := cells, qB := ⟨0, 1⟩, qAbs := ⟨0, 1⟩, qGap := ⟨0, 1⟩, tA := ⟨0, 1⟩, anchored := some ns, rested := false }

/-- The chemistry block of the own cells (R671). -/
def Bel.ownChem (b : Bel) : Option (List Byte) := match b.chem with | some id => chemOf b.prog id | none => none

/-- The tray is at rest (R663, R665). -/
def Chip.atRest (c : Chip) : Bool :=
  let b := c.bel
  b.rested || match b.quiet with
    | some t => (q32At b.prog 0x24).le (Q.mk' (c.clocks.packNs - t) 1000000000)
    | none => false

/-- REST_ANCHOR (R663, R665): at the first moment of rest and every 60 s of it. After a Watch the first settled V_B is awaited. -/
def execRestAnchor (s : State) : Host.Outcome State Fault Refusal :=
  s.onChip fun c =>
    let b := c.bel
    let due := match b.anchored with | some t => decide (60000000000 ≤ c.clocks.packNs - t) | none => true
    match b.ownChem with
    | none => c
    | some blk =>
      if c.dom 1 && c.atRest && due && (!b.rested || (b.cells.take (leAt b.prog 0x1A 1)).all fun k => k.vb.isSome) then
        c.onBel fun b => b.anchor blk c.clocks.packNs
      else c

/-- CAP of the own cells. -/
def Bel.cap (b : Bel) : Q := match b.ownChem with | some k => q32At k 4 | none => ⟨1, 1⟩

/-- SOC_B and BND of own cell `k` (from 0), when it is anchored (R664). -/
def Bel.coarse (b : Bel) (k : Nat) : Option (Q × Q) :=
  match (nth b.cells k default).anchor, b.ownChem with
  | some (soc, bnd), some _ =>
    let drift := (((q32At b.prog 0x28).mul b.qAbs).add ((q32At b.prog 0x2C).mul b.tA)).add b.qGap
    let bnd := bnd.add (drift.div b.cap)
    if bnd.le (q32At b.prog 0x34) then some (soc.sub (b.qB.div b.cap), bnd) else none
  | _, _ => none

/-- The pack time in ns of a 32-bit stamp in µs, at or before now; a stamp ahead of now counts as now. -/
def Chip.nsOf (c : Chip) (us : Nat) : Nat :=
  let d := (c.packUs + 2 ^ 32 - us % 2 ^ 32) % 2 ^ 32
  if 2 ^ 31 ≤ d then c.clocks.packNs else c.clocks.packNs - 1000 * d

/-- The charge counted up to pack time `ns` (R662). -/
def Bel.totAt (b : Bel) (ns : Nat) : Q :=
  match b.isns.find? fun e => decide (e.ns ≤ ns) with
  | some e => e.tot.add (e.cur.mul (Q.mk' (ns - e.ns) 1000000000))
  | none => match b.isns.getLast? with | some e => e.tot | none => b.tot

/-- The mean of some values; none of none. -/
def Q.mean (l : List Q) : Option Q := if l.isEmpty then none else some ((Q.sum l).div ⟨(l.length : Int), 1⟩)

/-- V_B of cell `k` over the `p0` ms before `ns` (Table 18-6, RESIDUAL). -/
def Bel.vWindow (b : Bel) (k ns p0 : Nat) : Option Q :=
  Q.mean (((nth b.cells k default).ents.filter fun e => decide (e.2 ≤ ns ∧ ns ≤ e.2 + 1000000 * p0)).map fun e => cellVolt e.1)

/-- I_B over the `p0` ms before `ns`. -/
def Bel.iWindow (b : Bel) (ns p0 : Nat) : Option Q :=
  Q.mean ((b.isns.filter fun e => decide (e.ns ≤ ns ∧ ns ≤ e.ns + 1000000 * p0)).map (·.cur))

/-- The conditions of R682 for balancing consent. -/
def Chip.consentOk (c : Chip) : Bool :=
  let b := c.bel
  decide (c.saf = 1) && c.dom 1 && !b.prog.isEmpty &&
    (b.cells.take (leAt b.prog 0x1A 1)).all (fun k => match k.vb with
      | some v => (q32At b.prog 0x38).le v && v.le (q32At b.prog 0x3C)
      | none => false) &&
    match b.temp with
    | some t => (Q.mk' t 16).le (q32At b.prog 0x40)
    | none => false

/-- CONSENT_CHANGE (R682): Belfry sets or clears SFE_BAL_CONSENT as its conditions hold or fail. -/
def execConsentChange (s : State) : Host.Outcome State Fault Refusal :=
  s.onChip fun c =>
    let ok := c.consentOk
    if ok = Machine.bit (c.reg 0x40010008) 0 then c
    else
      let c := c.setBit 0x40010008 0 ok
      if ok then c.balLive else c.balCheck

end Sys2Proof.Machine
end

