-- ==== Sys2Proof/Machine/BelJudge.lean ====
section
/-! DEFINITION. The hand-off ring and the judging of records (18_belfry.md, "The hand-off ring" and "Judging a record";
19_safety_mechanisms.md, "Result streams" and "Result age"). -/
namespace Sys2Proof.Machine

/-- A signed 16-bit field of some bytes. -/
def s16At (d : List Byte) (off : Nat) : Int := sext 16 (leAt d off 2)

/-- The published SoC of a record, in 2^-14 (R491). -/
def pubSoc (r : List Byte) : Int := if nbit (leAt r 0x1A 1) 2 then s16At r 0x0A else s16At r 0x08

/-- The value of FIELD `f` of a record in its physical unit (Table 18-5, Table 13-7). -/
def recField (r : List Byte) (f : Nat) : Q :=
  match f with
  | 0 => Q.mk' (s16At r 0x08) 16384
  | 1 => Q.mk' (s16At r 0x0A) 16384
  | 2 => Q.mk' (leAt r 0x0C 2) 65536
  | 3 => Q.mk' (s16At r 0x0E) 5000
  | 4 => Q.mk' (s16At r 0x10) 5000
  | 5 => Q.mk' (s16At r 0x12) 5000
  | 6 => Q.mk' (s16At r 0x14) 10
  | 7 => Q.mk' (leAt r 0x16 2) 1000000
  | 8 => Q.mk' (s16At r 0x18) 64
  | _ => Q.mk' (pubSoc r) 16384

/-- A field holds the NaN code of R488. -/
def recNan (r : List Byte) : Bool :=
  ([0x08, 0x0A, 0x0E, 0x10, 0x12, 0x14, 0x18].any fun o => decide (s16At r o = -32768)) ||
    decide (leAt r 0x0C 2 = 65535 ∨ leAt r 0x16 2 = 65535)

/-- What a record is judged with: OWN, the accepted summary, the entry's BOUND, and the chemistry's CHEM_ID and block. -/
structure Judge where
  own : Bool
  sum : Option (List Byte)
  bound : Nat
  chem : Option Nat
  blk : Option (List Byte)
  deriving DecidableEq, Repr

/-- Belfry has data of the record's cell (R673 step 5). -/
def Judge.data (j : Judge) : Bool := j.own || j.sum.isSome

/-- Verdict precedence (R673): VALID, WARMING, SUSPECT, STALE, INVALID. -/
def verdictRank (v : Nat) : Nat := match v with | 1 => 0 | 5 => 1 | 2 => 2 | 4 => 3 | 3 => 4 | _ => 0

/-- The highest outcome, and the index that decided it. -/
def worst (os : List (Nat × Nat)) : Nat × Nat :=
  os.foldl (fun b o => if verdictRank b.1 < (verdictRank o.1) then o else b) (1, 0)

/-- SOC_B and BND of own cell `k` whatever BND_MAX says (R664). -/
def Bel.coarseRaw (b : Bel) (k : Nat) : Option (Q × Q) := { b with prog := splice b.prog 0x34 (leBytes 4 0x7F7FFFFF) }.coarse k

/-- Belfry's interval for a record's cell, when the cell is anchored (R675, R678). -/
def Chip.interval (c : Chip) (j : Judge) (tap : Nat) : Option (Q × Q) :=
  if j.own then (c.bel.coarse tap).map fun x => (x.1.sub x.2, x.1.add x.2)
  else match j.sum with
    | some s =>
      if (leAt s 0x10 4).testBit tap then
        let soc := Q.mk' (s16At s (0x18 + 8 * tap)) 16384
        let bnd := Q.mk' (leAt s (0x1A + 8 * tap) 2) 65536
        some (soc.sub bnd, soc.add bnd)
      else none
    | none => none

/-- A value lies within an interval. -/
def within (x : Q) (i : Q × Q) : Bool := i.1.le x && x.le i.2

/-- The published estimate lies inside Belfry's bound. -/
def Chip.pubInside (c : Chip) (j : Judge) (r : List Byte) : Bool :=
  match c.interval j (leAt r 0 2 / 1024 % 32) with
  | some i => within (recField r 9) i
  | none => false

/-- CROSS (Table 18-8): the outcome for bands X = LO and Y = HI. -/
def Chip.crossCheck (c : Chip) (j : Judge) (r e : List Byte) : Nat :=
  let d := ((recField r 0).sub (recField r 1)).abs
  if d.le (q32At e 8) then 1 else if d.le (q32At e 12) then 2 else if c.pubInside j r then 2 else 3

/-- Belfry's own value against which RESIDUAL holds a field (Table 18-6, Table 18-9). -/
def Chip.residualRef (c : Chip) (j : Judge) (r e : List Byte) : Option Q :=
  let tap := leAt r 0 2 / 1024 % 32
  let cur := decide (leAt e 2 1 = 6)
  if j.own then
    if cur then c.bel.iWindow (c.nsOf j.bound) (leAt e 0x10 4) else c.bel.vWindow tap (c.nsOf j.bound) (leAt e 0x10 4)
  else match j.sum with
    | some s =>
      if cur then some (Q.mk' (s16At s 0x0C) 10)
      else if s16At s (0x1C + 8 * tap) = -32768 then none else some (Q.mk' (s16At s (0x1C + 8 * tap)) 5000)
    | none => none

/-- RATE fails (Table 18-6). -/
def Chip.rateFails (c : Chip) (j : Judge) (r e : List Byte) (prev : Option BelPrev) : Bool :=
  match prev with
  | none => false
  | some p =>
    if leAt r 2 2 = (leAt p.bytes 2 2 + 1) % 65536 then
      let dSoc := Q.mk' (pubSoc r - p.soc) 16384
      let dq :=
        if j.own then ((c.bel.totAt (c.nsOf j.bound)).sub p.tot).div c.bel.cap
        else match j.sum with
          | some s => Q.mk' (-(s16At s (0x1E + 8 * (leAt r 0 2 / 1024 % 32)))) 65536
          | none => ⟨0, 1⟩
      (q32At e 12).lt (dSoc.add dq).abs
    else false

/-- The entry applies to the record's chemistry. -/
def chemApplies (j : Judge) (e : List Byte) : Bool := decide (leAt e 4 4 = 0xFFFFFFFF) || decide (j.chem = some (leAt e 4 4))

/-- K of R689 for a record's chemistry. -/
def Chip.frozenK (c : Chip) (j : Judge) : Nat :=
  ((chkEntries c.bel.prog).filter fun e => decide (leAt e 0 1 = 6) && chemApplies j e).foldl
    (fun k e => min k (max 2 (min 16 (leAt e 0x10 4)))) 16

/-- The count of R689 that a record brings, and whether it counted. -/
def streamCount (r : List Byte) (prev : Option BelPrev) : Nat × Bool :=
  let rest := nbit (leAt r 0x1A 1) 6
  match prev with
  | none => (0, false)
  | some p =>
    if rest then (p.count, false)
    else if leAt r 0x1B 1 % 16 = 1 ∧ (slice r 4 4 = slice p.bytes 4 4 ∨ slice r 8 18 = slice p.bytes 8 18) then (p.count + 1, true)
    else (0, false)

/-- The main link was frozen at some time from a record's STAMP to now (R690). -/
def Chip.mainFrozenSince (c : Chip) (stamp : Nat) : Bool :=
  c.sense.main.frozen || match c.sense.main.thawNs with | some t => decide (c.nsOf stamp ≤ t) | none => false

/-- AGE (R691, R692): VALID, STALE, or INVALID for a stamp more than 1 ms ahead. A stamp up to 1 ms ahead has an age beyond every
limit (DEDUCED, log entry 57). -/
def Chip.ageCheck (c : Chip) (r e : List Byte) : Nat :=
  let stamp := leAt r 4 4
  let age := (c.packUs + 2 ^ 32 - stamp) % 2 ^ 32
  let ahead := (stamp + 2 ^ 32 - c.packUs) % 2 ^ 32
  let hi := q32At e 12
  let limit : Q := if 0 < hi.num then hi else match leAt e 0x10 4 with | 1 => ⟨50, 1⟩ | 2 => ⟨2000, 1⟩ | _ => ⟨250, 1⟩
  if 1001 ≤ ahead ∧ ahead < 2 ^ 31 then 3 else if limit.lt (Q.mk' age 1000) then 4 else 1

/-- One check entry's outcome (Table 18-6). CUSTOM code's outcome is the next of `custom`: a verdict, or 6 for a fault or overrun
(DESIGN CHOICE, log entry 2). -/
def Chip.runCheck (c : Chip) (j : Judge) (r e : List Byte) (warming : Bool) (prev : Option BelPrev) (custom : List Nat) :
    Nat × List Nat × Chip :=
  let failv := leAt e 1 1
  let out := fun (fails : Bool) => (if fails then failv else 1, custom, c)
  match leAt e 0 1 with
  | 1 => let x := recField r (leAt e 2 1); out (!((q32At e 8).le x && x.le (q32At e 12)))
  | 2 => out (j.data && c.rateFails j r e prev)
  | 3 => (if warming then 1 else c.crossCheck j r e, custom, c)
  | 4 =>
    out (j.data && match c.residualRef j r e with
      | some x => (q32At e 12).lt ((recField r (leAt e 2 1)).sub x).abs
      | none => true)
  | 5 => (c.ageCheck r e, custom, c)
  | 6 =>
    let (n, counted) := streamCount r prev
    let frozen := (counted && decide (c.frozenK j ≤ n + 1)) || (j.own && c.mainFrozenSince (leAt r 4 4))
    (if frozen then 3 else 1, custom, c)
  | _ =>
    match custom with
    | [] => (1, [], c)
    | 6 :: rest => (failv, rest, c.setBit 0x40070000 6 true)
    | v :: rest => (if 0 < (verdictRank v) then failv else 1, rest, c)

/-- All check entries in table order: the outcomes with their indices. -/
def Chip.runChecks (c : Chip) (j : Judge) (r : List Byte) (warming : Bool) (prev : Option BelPrev) :
    List (List Byte × Nat) → List Nat → List (Nat × Nat) → List (Nat × Nat) × List Nat × Chip
  | [], custom, acc => (acc.reverse, custom, c)
  | (e, i) :: es, custom, acc =>
    if chemApplies j e then
      let (v, custom, c) := c.runCheck j r e warming prev custom
      c.runChecks j r warming prev es custom ((v, i) :: acc)
    else c.runChecks j r warming prev es custom acc

/-- R673 step 1: the record's format. -/
def Chip.recFormatBad (c : Chip) (own : Bool) (r : List Byte) : Bool :=
  let st := leAt r 0x1B 1
  decide (4 ≤ st % 16 ∨ 16 ≤ st ∨ leAt r 0x1C 4 ≠ 0 ∨ 128 ≤ leAt r 0x1A 1) || recNan r ||
    (own && decide (leAt c.bel.prog 0x1A 1 ≤ leAt r 0 2 / 1024 % 32))

/-- R673 step 3: the record's element of the cross-check vector differs from its fields; an unreadable element counts as different. -/
def Chip.vectorBad (c : Chip) (xvec i : Nat) (r : List Byte) : Bool × Chip :=
  if xvec = 0 then (false, c)
  else match c.read 40 0 (xvec + 4 * i) 4 with
    | (.ok d, c) =>
      match fp32.toQ (leNat d) with
      | some x => ((⟨1, 8192⟩ : Q).lt (x.sub ((recField r 0).sub (recField r 1))).abs, c)
      | none => (true, c)
    | (_, c) => (true, c)

/-- The summary copy that an entry names and a record may use (R678). -/
def sumFor (seed bound : Nat) (s : Option (List Byte)) (r : List Byte) : Option (List Byte) :=
  s.filter fun s => decide (leAt s 0 4 = 0x4D555342 ∧ leAt s 0xB8 4 = crc32From seed (s.take 0xB8) ∧
    leAt s 4 2 = leAt r 0 2 % 1024 ∧ leAt s 8 4 = bound)

/-- BCRC of record bytes 0x00 to 0x1B (R676). -/
def Bel.bcrc (b : Bel) (r : List Byte) : Nat := crc32From (leAt b.prog 0x0C 4) (r.take 0x1C)

/-- FAULT_N and PULSE at a VALID verdict (R92, R701). -/
def Chip.validIssued (c : Chip) : Chip :=
  if c.safe.verdictSeen && !c.safe.awaitValid then c
  else { (c.setFaultN true).setPulse true with safe.verdictSeen := true, safe.awaitValid := false }

/-- A record's verdict and BCRC written, counted and shown (R674, R700). In MARKED and FENCED it is INVALID (R699, R706). -/
def Chip.issue (c : Chip) (a : Nat) (r : List Byte) (v idx : Nat) (inside : Bool) : Chip :=
  let v := if c.saf = 2 ∨ c.saf = 3 then 3 else v
  let r := splice r 0x1B [BitVec.ofNat 8 (leAt r 0x1B 1 % 16 + 16 * v)]
  let (_, c) := c.write 40 0 (a + 0x18) (slice r 0x18 4 ++ leBytes 4 (c.bel.bcrc r))
  let c := c.incFld (0x40070010 + 4 * v) 0 32 1
  let c := if v = 2 ∨ v = 3 ∨ v = 4 then
      c.setReg 0x40070030 (BitVec.ofNat 32 (leAt r 0 2 + 65536 * idx + 2 ^ 24 * v + (if inside then 2 ^ 27 else 0)))
    else c
  if v = 1 ∧ c.saf = 1 then c.validIssued else c

/-- The warming count of a CELLREF after REINIT (R672), and the counts with the record's step taken. -/
def warmStep (warm : List (Nat × Nat)) (ref : Nat) (reinit estimate : Bool) : Nat × List (Nat × Nat) :=
  let n := if reinit then 0 else (Sparse.find ref warm).getD 64
  (n, Sparse.set 64 ref (if estimate then min 64 (n + 1) else n) warm)

/-- Record `i` of a JUDGE entry judged (R673). -/
def Chip.judgeRec (c : Chip) (own : Bool) (s : Option (List Byte)) (bound xvec i a : Nat) (reinit : Bool) (custom : List Nat) :
    List Nat × Chip :=
  match c.read 40 0 a 32 with
  | (.ok r, c) =>
    let b := c.bel
    let ref := leAt r 0 2
    let st := leAt r 0x1B 1 % 16
    let sum := if own then none else sumFor (leAt b.prog 0x0C 4) bound s r
    let chem := if own then b.chem else sum.map fun s => leAt s 0x14 4
    let j : Judge := ⟨own, sum, bound, chem, match chem with | some id => chemOf b.prog id | none => none⟩
    let prev := (Sparse.find ref b.prev)
    let (n, warm) := warmStep b.warm ref reinit (decide (st = 1))
    let warming := decide (n < 64)
    let keep := fun (c : Chip) => c.onBel fun b =>
      { b with warm := warm, prev := Sparse.put ref ⟨r, (streamCount r prev).1, pubSoc r, b.totAt (c.nsOf bound)⟩ b.prev }
    let bad := c.recFormatBad own r
    if st = 0 ∧ bad = false then (custom, keep (c.issue a r 0 0xFE false))
    else
      let (vec, c) := c.vectorBad xvec i r
      let (os, custom, c) := c.runChecks j r warming prev ((chkEntries b.prog).zipIdx) custom []
      let chemBadOwn := own && (Machine.bit (c.reg 0x40070000) 8 || j.blk.isNone)
      let rest : List (Nat × Nat) :=
        (if bad || chemBadOwn then [(3, 0xFE)] else []) ++ (if sum.isSome && j.blk.isNone then [(3, 0xFF)] else []) ++
        (if vec then [(3, 0xFE)] else []) ++ os ++ (if j.data then [] else [(2, 0xFE)]) ++
        (if st = 2 ∨ st = 3 then [(2, 0xFE)] else []) ++
        (if warming then [(if nbit (leAt r 0x1A 1) 2 then 5 else 3, 0xFE)] else [])
      let (v, idx) := worst rest
      (custom, keep (c.issue a r v idx (c.pubInside j r)))
  | (_, c) => (custom, c.setBit 0x40070000 7 true)

/-- A number as a signed 16-bit field that saturates at ±32,767. -/
def s16Of (x : Q) : Nat := tc 16 (clampI (-32767) 32767 x.round)

/-- P0 of the first RESIDUAL entry on V_MEAS (18_belfry.md, below Table 18-9). -/
def sumWindow (p : List Byte) : Nat :=
  match (chkEntries p).find? fun e => decide (leAt e 0 1 = 4 ∧ leAt e 2 1 = 3) with
  | some e => leAt e 0x10 4
  | none => 0

/-- The owner summary for a BOUND (Table 18-9). What it states of a cell never anchored, and of a current without a used entry, is
open: free values (DESIGN CHOICE, log entry 4). -/
def Chip.summary (c : Chip) (bound : Nat) : List Byte :=
  let b := c.bel
  let n := leAt b.prog 0x1A 1
  let ns := c.nsOf bound
  let w := sumWindow b.prog
  let free := (Config.freeWord c.fresh).toNat
  let dq := match b.sumTot with | some t => ((t.sub (b.totAt ns)).div b.cap) | none => ⟨0, 1⟩
  let cell := fun (k : Nat) =>
    if n ≤ k then List.replicate 8 (0 : Byte)
    else
      let (soc, bnd) := match b.coarseRaw k with
        | some (soc, bnd) => (s16Of (soc.scale 14), min 65535 (bnd.scale 16).round.toNat)
        | none => (free, free / 65536)
      let v := match b.vWindow k ns w with | some v => s16Of (v.mul ⟨5000, 1⟩) | none => 32768
      leBytes 2 soc ++ leBytes 2 bnd ++ leBytes 2 v ++ leBytes 2 (s16Of (dq.scale 16))
  let anchored := (List.range n).foldl (fun m k => if (b.coarse k).isSome then m + 2 ^ k else m) 0
  let i := match b.iWindow ns w with | some x => s16Of (x.mul ⟨10, 1⟩) | none => free
  let d := leBytes 4 0x4D555342 ++ leBytes 2 (Machine.fld (c.reg 0x40040004) 0 10) ++ leBytes 1 n ++ leBytes 1 0 ++ leBytes 4 bound ++
    leBytes 2 i ++ leBytes 2 0 ++ leBytes 4 anchored ++ leBytes 4 (b.chem.getD 0) ++ (List.range 20).flatMap cell
  d ++ leBytes 4 (crc32From (leAt b.prog 0x0C 4) d)

/-- The summary written to SAF_SUM (R678). -/
def Chip.writeSummary (c : Chip) (bound : Nat) : Chip :=
  let d := c.summary bound
  let c : Chip := { c with fresh := c.fresh + 1, bel.sumTot := some (c.bel.totAt (c.nsOf bound)) }
  (List.range 47).foldl (fun c i => c.setReg (0x40070400 + 4 * i) (BitVec.ofNat 32 (leAt d (4 * i) 4))) c

/-- Table 18-7 holds for an entry's fields. -/
def entryOk (e : List Byte) : Bool :=
  decide ((leAt e 0 1 = 1 ∨ leAt e 0 1 = 2) ∧ 1 ≤ leAt e 1 1 ∧ leAt e 1 1 ≤ 32 ∧ leAt e 2 2 < 4 ∧ leAt e 4 4 % 32 = 0 ∧
    (leAt e 8 4 = 32 ∨ leAt e 8 4 = 2048))

/-- The addresses of an entry's records. -/
def entryRecs (e : List Byte) : List Nat := (List.range (leAt e 1 1)).map fun i => leAt e 4 4 + i * leAt e 8 4

/-- A JUDGE entry (R673, R678). -/
def Chip.judgeEntry (c : Chip) (e : List Byte) (custom : List Nat) : List Nat × Chip :=
  let own := nbit (leAt e 2 2) 0
  let bound := leAt e 0x10 4
  let (s, c) : Option (List Byte) × Chip :=
    if nbit (leAt e 2 2) 1 && decide (leAt e 0x18 4 ≠ 0) && !own then
      match c.read 40 0 (leAt e 0x18 4) 188 with
      | (.ok d, c) => (some d, c)
      | (_, c) => (none, c)
    else (none, c)
  let (custom, c) := ((entryRecs e).zipIdx).foldl (fun (p : List Nat × Chip) (x : Nat × Nat) =>
    p.2.judgeRec own s bound (leAt e 0x0C 4) x.2 x.1 (nbit (leAt e 0x14 4) x.2) p.1) (custom, c)
  (custom, if own then c.writeSummary bound else c)

/-- A JUDGE entry that breaks Table 18-7 (R670). -/
def Chip.badJudge (c : Chip) (e : List Byte) : Chip :=
  (entryRecs e).foldl (fun c a =>
    match c.read 40 0 a 32 with
    | (.ok r, c) => c.issue a r 3 0xFE false
    | (_, c) => c) (c.setBit 0x40070000 7 true)

/-- A CHECK entry (R676): bit i of RESULT is set when record i fails its BCRC or cannot be read. -/
def Chip.checkEntry (c : Chip) (e : List Byte) (a : Nat) : Chip :=
  let (n, c) :=
    if entryOk e then
      ((entryRecs e).zipIdx).foldl (fun (p : Nat × Chip) (x : Nat × Nat) =>
        match p.2.read 40 0 x.1 32 with
        | (.ok r, c) => (if leAt r 0x1C 4 = c.bel.bcrc r then p.1 else p.1 + 2 ^ x.2, c)
        | (_, c) => (p.1 + 2 ^ x.2, c)) (0, c)
    else (0xFFFFFFFF, c)
  (c.write 40 0 (a + 0x1C) (leBytes 4 n)).2

/-- `n` hand-off entries from the read index on, in ring order (R670). -/
def Chip.handoffRun (base slots : Nat) : Nat → List Nat → Chip → Chip
  | 0, _, c => c
  | n + 1, custom, c =>
    let i := Machine.fld (c.reg 0x40070038) 0 8
    let a := base + 64 + 32 * i
    let (custom, c) :=
      match c.read 40 0 a 32 with
      | (.ok e, c) =>
        match leAt e 0 1 with
        | 1 => if entryOk e then c.judgeEntry e custom else (custom, c.badJudge e)
        | 2 => (custom, c.checkEntry e a)
        | _ => (custom, c)
      | (_, c) => (custom, c)
    Chip.handoffRun base slots n custom (c.setReg 0x40070038 (BitVec.ofNat 32 ((i + 1) % slots)))

/-- Belfry reads WR and processes the new entries (R670, R671, R673 to R680, R706). `late` says that it writes a verdict more than 2 ms
after the WR advance (R680); `custom` are the outcomes of custom code, in order (DESIGN CHOICE, log entry 2). -/
def Chip.handoffPoll (c : Chip) (late : Bool) (custom : List Nat) : Chip :=
  let base := leAt c.bel.prog 0x14 4
  let slots := leAt c.bel.prog 0x18 2
  if !c.dom 1 || c.bel.prog.isEmpty || decide (c.saf = 0) || c.safe.held then c
  else
    match c.read 40 0 base 64 with
    | (.ok h, c) =>
      let n := (leAt h 0 4 % slots + slots - Machine.fld (c.reg 0x40070038) 0 8) % slots
      if n = 0 then c
      else
        let id := leAt h 4 4
        let c := match c.bel.chem with
          | none => c.onBel fun b => { b with chem := some id }
          | some k => if k = id then c else c.setBit 0x40070000 8 true
        let c := if late then c.setBit 0x40070000 5 true else c
        Chip.handoffRun base slots n custom c
    | (_, c) => c

end Sys2Proof.Machine
end

