-- ==== Sys2Proof/Machine/BelSafe.lean ====
section
/-! DEFINITION. The frozen-frame detector of the links, the end of markings, the CAN fault message's repeat and the rotating self-test
(19_safety_mechanisms.md). -/
namespace Sys2Proof.Machine

/-- A link: 0 the main link, 1 the check lane. -/
def Chip.link (c : Chip) (k : Nat) : D2d := if k = 0 then c.sense.main else c.sense.check

/-- A link changed. -/
def Chip.onLink (c : Chip) (k : Nat) (f : D2d → D2d) : Chip :=
  if k = 0 then { c with sense.main := f c.sense.main } else { c with sense.check := f c.sense.check }

/-- A noisy channel of the main link that is code-frozen (R686, R687): 3 frames hold only its last CODE. -/
def Chip.codeFrozen (c : Chip) : Option Nat :=
  (c.sense.main.codes.find? fun x => decide (x.1 < 32 ∧ 3 ≤ x.2.2) && (noisyMask c.bel.prog).testBit x.1).map (·.1)

/-- No frame accepted for 3 µs (R686). -/
def Chip.linkSilent (c : Chip) (k : Nat) : Bool := decide ((c.link k).lastAt + 1920 ≤ c.now640)

/-- D2D_FROZEN (R686, R688, Table 19-3): the armed detector of a link declares it frozen. -/
def execD2dFrozen (k : Nat) (s : State) : Host.Outcome State Fault Refusal :=
  s.onChip fun c =>
    let l := c.link k
    let code := if k = 0 then c.codeFrozen else none
    if 2 ≤ k ∨ c.dom 1 = false ∨ l.accepted < 3 ∨ l.frozen = true ∨
        (c.linkSilent k = false ∧ l.repeated = false ∧ code.isNone) then c
    else
      let silent := c.linkSilent k
      let code := if silent || l.repeated then none else code
      let c := c.onLink k fun l => { l with frozen := true, consec := 0, repeated := false, codeChan := code }
      let c := (c.setBit 0x40070044 k true).incFld 0x40070044 16 16 1
      let c := match code with | some ch => c.setFld 0x40070044 8 6 ch | none => c
      if k = 0 then (if silent then c.setBit 0x40010000 6 false else c).cause .marked 8 0 else c.cause .fenced 7 0

/-- D2D_UNFROZEN (R688): 3 frames with consecutive counters, and a changed CODE where one froze the link. -/
def execD2dUnfrozen (k : Nat) (s : State) : Host.Outcome State Fault Refusal :=
  s.onChip fun c =>
    let l := c.link k
    let moved := match l.codeChan with
      | some ch => match Sparse.find ch l.codes with | some x => decide (x.2 < 3) | none => true
      | none => true
    if k < 2 ∧ l.frozen = true ∧ 3 ≤ l.consec ∧ moved = true then
      let c := c.onLink k fun l => { l with frozen := false, codeChan := none, thawNs := some c.clocks.packNs }
      c.setBit 0x40070044 k false
    else c

/-- The marking causes that end a hold time after they were last signalled (Table 19-3). -/
def markHolds (code : Nat) : Bool := decide (code = 8 ∨ code = 9 ∨ code = 11 ∨ code = 12 ∨ code = 13)

/-- MARKING_END (R701, Table 19-3): the hold time of cause `code` has passed (DESIGN CHOICE, log entry 2). -/
def execMarkingEnd (code : Nat) (s : State) : Host.Outcome State Fault Refusal :=
  s.onChip fun c =>
    if markHolds code && Machine.bit (c.reg 0x40070040) code && !(decide (code = 8) && c.sense.main.frozen) && c.dom 1 then
      c.endMark code
    else c

/-- FAULT_MESSAGE_REPEAT (R703): 100 ms of MARKED or FENCED have passed since the last message. -/
def execFaultMessageRepeat (s : State) : Host.Outcome State Fault Refusal :=
  s.onChip fun c => if (c.saf = 2 ∨ c.saf = 3) ∧ c.dom 1 = true then c.faultMessage else c

/-- The reaction to a slice's second failure (Table 19-5). -/
def sliceReaction (i : Nat) : Reaction :=
  if i < 16 then .dark else if i < 48 then .fenced else if i < 64 then .marked else if i < 72 then .fenced
  else if i < 80 then .marked else if i < 104 then .fenced else if i < 120 then .dark else .fenced

/-- A slice that names the test DAC (Table 19-5, R710). -/
def sliceDac (i : Nat) : Bool := decide (32 ≤ i ∧ i < 64)

/-- The slice after `i` that runs in the present state: in FENCED only those whose reaction is Dark (R711). -/
def Chip.nextSlice (c : Chip) (i : Nat) : Nat :=
  if c.saf = 3 then ((List.range 128).map fun k => (i + k) % 128).find? (fun j => decide (sliceReaction j = .dark)) |>.getD i else i

/-- The rotation moves past slice `i`; its wrap ends a rotation (SAF_STEST.ROT, R710). -/
def Chip.sliceDone (c : Chip) (i : Nat) : Chip :=
  let n := c.nextSlice ((i + 1) % 128)
  let c := c.setFld 0x40070048 8 7 n
  let c : Chip := { c with safe.retry := none }
  if n ≤ i then { c.incFld 0x40070048 24 8 1 with safe.skipLast := c.safe.skipNow, safe.skipNow := [] } else c

/-- A slice fails: it is run again, and a second failure in succession triggers its reaction (R709). -/
def Chip.sliceFail (c : Chip) (i : Nat) : Chip :=
  let c := (c.setFld 0x40070048 0 8 i).blog 3 i 1
  if c.safe.retry = some i then (c.sliceDone i).cause (sliceReaction i) 16 i else { c with safe.retry := some i }

/-- SELFTEST_SLICE (R709 to R711): Belfry runs the slice due at a 20 ms tick, whose outcome is given (DESIGN CHOICE, log entry 2). A test-DAC slice
that an interleave calibration keeps waiting is skipped, and two skips in succession count as a failure. -/
def execSelftestSlice (pass : Bool) (s : State) : Host.Outcome State Fault Refusal :=
  s.onChip fun c =>
    let running := (decide (c.saf = 1 ∨ c.saf = 2) && decide (c.power.mode = .run ∨ c.power.mode = .scan)) ||
      decide (c.saf = 3)
    if !c.dom 1 || !running || c.safe.held || (c.safe.woke && !c.safe.verdictSeen && decide (c.saf ≠ 3)) then c
    else
      let i := c.safe.retry.getD (c.nextSlice (Machine.fld (c.reg 0x40070048) 8 7))
      if sliceDac i && (c.calAt 1 || c.calAt 2) && !Machine.bit (c.reg 0x40010100) 3 then
        let again := c.safe.skipLast.contains i
        let c := { c with safe.skipNow := i :: c.safe.skipNow }.incFld 0x40070048 16 8 1
        if again then c.sliceFail i else c.sliceDone i
      else if pass then c.sliceDone i
      else c.sliceFail i

end Sys2Proof.Machine
end

