-- ==== Sys2Proof/Machine/Engine.lean ====
section
/-! DEFINITION. The front end of the ENG_ block: doorbells, the checks of a descriptor, queues, time windows, completion records, event
counters and engine power (09_engine_model.md). -/
namespace Sys2Proof.Machine

/-- The class of engine `e` (Table 02-3, Table 09-1): 0 SQE to 11 GTE. -/
def engClass (e : Nat) : Nat :=
  if e < 8 then 0 else if e < 12 then 1 else if e < 16 then 2 else if e < 18 then 3 else if e < 20 then 4 else if e < 22 then 5
  else if e < 24 then 6 else if e < 26 then 7 else if e < 30 then 8 else if e < 32 then 9 else if e < 34 then 10 else 11

/-- A field of a descriptor (Table 09-1). -/
def Desc.at (d : Desc) (off n : Nat) : Nat := leAt d.bytes off n
/-- FLAGS bit `i`: 0 IRQ, 1 REPLAY, 2 DROP_LATE, 3 WAIT, 4 SIGNAL, 5 CHAIN. -/
def Desc.flag (d : Desc) (i : Nat) : Bool := nbit (d.at 2 2) i
/-- PART. -/
def Desc.part (d : Desc) : Nat := d.at 4 1 % 16
/-- COMPL. -/
def Desc.compl (d : Desc) : Nat := d.at 0x0C 4
/-- DEADLINE. -/
def Desc.deadline (d : Desc) : Nat := d.at 0x14 4
/-- COST in µs. -/
def Desc.cost (d : Desc) : Nat := d.at 0x18 2

/-- The operand area (Table 10-1). -/
structure Opnd where
  a : Nat
  b : Nat
  c : Nat
  d : Nat
  n0 : Nat
  n1 : Nat
  n2 : Nat
  fa : Nat
  fb : Nat
  fd : Nat
  mode : Nat
  p0 : Nat
  p1 : Nat
  deriving DecidableEq, Repr, Inhabited

/-- The operands of a descriptor. -/
def Desc.opnd (d : Desc) : Opnd :=
  let f := d.at 0x36 2
  { a := d.at 0x20 4, b := d.at 0x24 4, c := d.at 0x28 4, d := d.at 0x2C 4
    n0 := d.at 0x30 2, n1 := d.at 0x32 2, n2 := d.at 0x34 2
    fa := f % 16, fb := f / 16 % 16, fd := f / 256 % 16, mode := f / 4096, p0 := d.at 0x38 4, p1 := d.at 0x3C 4 }

/-- Pack time `t` is past deadline `d` (R340); a deadline of 0 is none. -/
def pastDue (t d : Nat) : Bool :=
  let x := (t + 2 ^ 32 - d % 2 ^ 32) % 2 ^ 32
  decide (d ≠ 0 ∧ 1 ≤ x ∧ x < 2 ^ 31)

/-- One engine changed. -/
def Chip.onEng (c : Chip) (e : Nat) (f : Engine → Engine) : Chip := { c with eng := upd c.eng e f }

/-- Descriptors held by engine `e` (R336). -/
def Engine.held (g : Engine) : List Desc := (match g.run with | some r => [r.d] | none => []) ++ g.queue

/-- ENG_QSTATe shows the engine's queues. -/
def Chip.qshow (c : Chip) (e : Nat) : Chip :=
  let g := c.engine e
  let q := fun k => (g.queue.filter fun d => decide (d.cls = k)).length
  c.setReg (0x40030200 + 4 * e) (BitVec.ofNat 32
    (g.held.length % 64 + 64 * (q 0 % 64) + 4096 * (q 1 % 64) + 262144 * (q 2 % 64) +
      (match g.run with | some r => 2 ^ 24 + 2 ^ 25 * (r.d.cls % 4) | none => 0) + 2 ^ 27 * (g.fifo.length % 16)))

/-! ### Time windows -/

/-- The frame offset in µs (R344). -/
def Chip.frameOff (c : Chip) : Nat := c.clocks.packNs / 1000 % 10000

/-- Window `n` is valid and names engine `e` and class `cls`. -/
def Chip.winNames (c : Chip) (n e cls : Nat) : Bool :=
  c.bit (0x40030804 + 0x10 * n) 0 && c.bit (0x40030804 + 0x10 * n) (1 + cls) &&
    (if e < 32 then c.bit (0x40030808 + 0x10 * n) e else c.bit (0x4003080C + 0x10 * n) (e - 32))

/-- START of window `n`. -/
def Chip.winStart (c : Chip) (n : Nat) : Nat := c.fld (0x40030800 + 0x10 * n) 0 14
/-- LEN of window `n`. -/
def Chip.winLen (c : Chip) (n : Nat) : Nat := c.fld (0x40030800 + 0x10 * n) 16 14

/-- The µs for which windows that admit at offset `off` go on admitting. -/
def Chip.winReach (c : Chip) (e cls off : Nat) : Nat :=
  ((List.range 32).map fun n =>
    if c.winNames n e cls && decide (c.winStart n ≤ off ∧ off < c.winStart n + c.winLen n)
    then c.winStart n + c.winLen n - off else 0).foldl max 0

/-- Continuous admission from an offset, in µs: none when it has no end (R344). -/
def Chip.admitFrom (c : Chip) (e cls : Nat) : Nat → Nat → Nat → Option Nat
  | 0, _, got => some got
  | k + 1, off, got =>
    let r := c.winReach e cls (off % 10000)
    if r = 0 then some got
    else if 10000 ≤ got + r then none else c.admitFrom e cls k (off + r) (got + r)

/-- The remaining admission time of an engine and class, in ns; none when it has no end (R344, R349). -/
def Chip.admitNs (c : Chip) (e cls : Nat) : Option Nat :=
  if !c.bit 0x40030010 0 then none
  else (c.admitFrom e cls 80 c.frameOff 0).map fun us => 1000 * us - c.clocks.packNs % 1000

/-- The engine and class are admitted now. -/
def Chip.admitted (c : Chip) (e cls : Nat) : Bool := decide (c.admitNs e cls ≠ some 0)

/-! ### Completion -/

/-- A doorbell that finds room enters the FIFO, and otherwise stalls its initiator (R327). -/
def Chip.ring (c : Chip) (port cls e v : Nat) : Chip :=
  if (c.engine e).fifo.length < 8 then (c.onEng e fun g => { g with fifo := g.fifo ++ [(v, port, cls)] }).qshow e
  else { c with stalled := c.stalled ++ [⟨.write, port, cls, 0x40030100 + 4 * e, 4, leBytes 4 v, 0, []⟩] }

/-- One event counter incremented (R342). -/
def Chip.signal (c : Chip) (k : Nat) : Chip :=
  let a := 0x40030400 + 4 * k
  c.setReg a (BitVec.ofNat 32 ((Machine.fld (c.reg a) 0 16 + 1) % 65536))

/-- The completion record of a descriptor (Table 09-4), with its effects in the order of R342; a record that cannot be written
is lost (R354). -/
def Chip.record (c : Chip) (e : Nat) (d : Desc) (r : OpRes) (start : Nat) : Chip :=
  let g := c.engine e
  let now := c.packUs
  let flags := (if pastDue now d.deadline then 1 else 0) + (if 0 < d.defer then 2 else 0) + r.flags + 128
  let bytes := leBytes 1 r.status ++ leBytes 1 flags ++ leBytes 2 (d.at 0x0A 2) ++ leBytes 4 d.addr ++ leBytes 1 e ++
    leBytes 1 (d.at 4 1) ++ leBytes 1 d.defer ++ leBytes 1 r.detail ++ leBytes 4 start ++ leBytes 4 now ++ leBytes 4 r.fault ++
    leBytes 4 (if r.status = 1 then r.result else 0) ++ leBytes 2 (sat 16 r.missRows) ++ leBytes 2 ((g.seq + 1) % 65536)
  let c := match c.write e d.cls d.compl bytes with
    | (.ok _, c) => c.onEng e fun g => { g with seq := g.seq + 1 }
    | (_, c) => c.setBit 0x40030000 2 true
  let c := if d.flag 4 then c.signal (d.at 6 1 % 32) else c
  let c := if d.flag 0 then c.setBit (0x40030304 + 4 * (e / 32)) (e % 32) true else c
  if d.flag 5 && decide (r.status = 1) then c.ring e d.cls e (d.at 0x10 4) else c

/-- A result with a status and detail alone. -/
def OpRes.bare (status detail : Nat) : OpRes := ⟨status, detail, 0, 0, 0, 0⟩

/-- A descriptor that never started ends with `status`; the spec states no START for it (DESIGN CHOICE, log entry 4). -/
def Chip.endUnstarted (c : Chip) (e : Nat) (d : Desc) (status : Nat) : Chip :=
  let (w, c) := c.drawWord
  c.record e d (OpRes.bare status 0) w

/-- Engine `e` without power: its local buffer is lost, and a ZLE's accumulators (R305). -/
def Chip.engDown (c : Chip) (e : Nat) : Chip :=
  let c := ((c.onEng e fun g => { g with pw := .off }).clearBuf e).setDom (13 + e) false
  if 16 ≤ e ∧ e < 18 then { c with zle := upd c.zle (e - 16) Zle.unpowered } else c

/-- An engine set to OFF whose running descriptor has ended: the queued ones complete with ENGINE_OFF in order, and then it powers
off (R358). -/
def Chip.settleOff (c : Chip) (e : Nat) : Chip :=
  let g := c.engine e
  if c.engSet e ≠ 2 ∨ g.run.isSome then c.qshow e
  else
    let c := c.onEng e fun g => { g with queue := [] }
    ((g.queue.foldl (fun c d => c.endUnstarted e d 6) c).engDown e).qshow e

/-- The running descriptor's record is written and the engine is free. -/
def Chip.finish (c : Chip) (e : Nat) (r : Running) (res : OpRes) : Chip :=
  let c := c.onEng e fun g => { g with run := none, lost := false }
  (c.record e r.d res r.start).settleOff e

/-! ### Submission -/

/-- The address operand rules a class sets; the engine catalogue gives them (Table 09-2, check 2). -/
abbrev OpCheck := Nat → Desc → Bool

/-- A dropped doorbell (R330). -/
def Chip.dbFault (c : Chip) (reason port e addr : Nat) : Chip :=
  if Machine.bit (c.reg 0x40030000) 1 then c
  else ((c.setBit 0x40030000 1 true).setReg 0x40030004 (BitVec.ofNat 32 addr)).setReg 0x40030008
    (BitVec.ofNat 32 (reason + 16 * port + 1024 * e))

/-- Any reserved byte or bit of a descriptor is set (Table 09-1). -/
def Desc.reserved (d : Desc) : Bool :=
  decide (64 ≤ d.at 2 2 ∨ 16 ≤ d.at 4 1 ∨ 32 ≤ d.at 5 1 ∨ 32 ≤ d.at 6 1 ∨ d.at 7 1 ≠ 0 ∨ d.at 0x1A 6 ≠ 0)

/-- The first check of Table 09-2 that refuses a descriptor: its order, status and detail. -/
def Chip.submitCheck (c : Chip) (opOk : OpCheck) (e port sub : Nat) (d : Desc) : Option (Nat × Nat × Nat) :=
  let locked := Machine.bit (c.reg 0x40020800) 0
  let attr := c.partReg d.part 4
  let wins := (List.range 32).filter fun n => c.winNames n e d.cls
  if d.at 1 1 ≠ engClass e ∨ d.reserved then some (1, 3, 1)
  else if !opOk e d then some (2, 3, 2)
  else if d.flag 5 ∧ d.at 0x10 4 % 64 ≠ 0 then some (3, 3, 1)
  else if locked ∧ Machine.bit attr 0 = false then some (4, 3, 3)
  else if locked ∧ (c.inMask d.part port = false ∨ Machine.fld attr 1 2 < sub) then some (5, 4, 1)
  else if c.bit 0x40030010 0 && wins.all fun n => decide (c.winLen n < d.cost) then some (6, 3, 4)
  else if c.engSet e = 2 then some (7, 6, 0)
  else if c.fld (0x40030040 + 4 * d.part) 0 6 ≤ ((c.engine e).held.filter fun x => decide (x.part = d.part)).length then some (8, 2, 1)
  else if 32 ≤ (c.engine e).held.length then some (9, 2, 2)
  else none

/-- A descriptor fetched and well placed: queued, or refused with its record (R328 to R336, R356). -/
def Chip.submit (c : Chip) (opOk : OpCheck) (e port sub addr : Nat) (bytes : List Byte) : Chip :=
  let locked := Machine.bit (c.reg 0x40020800) 0
  let d : Desc := ⟨addr, bytes, 0, 0⟩
  let d := if locked then { d with cls := min 2 (Machine.fld (c.partReg d.part 4) 1 2) } else d
  match c.submitCheck opOk e port sub d with
  | some (k, st, dt) =>
    let c := if k = 5 then c.violation port sub addr d.part 0 false else c
    c.record e d (OpRes.bare st dt) c.packUs
  | none =>
    c.onEng e fun g =>
      { g with queue := g.queue ++ [d], pw := if g.pw = .off then .powering else g.pw }

/-- The doorbell at the FIFO's head processed (R328, R330). -/
def Chip.doorbellHead (c : Chip) (opOk : OpCheck) (e : Nat) : Chip :=
  match (c.engine e).fifo with
  | [] => c
  | (addr, port, cls) :: rest =>
    let c := c.onEng e fun g => { g with fifo := rest }
    let mine := fun (x : Access) => decide (x.addr = 0x40030100 + 4 * e)
    let c := match c.stalled.find? mine with
      | some x => { c with stalled := c.stalled.erase x }.ring x.port x.cls e (leNat x.data)
      | none => c
    let c :=
      if addr % 64 ≠ 0 ∨ 0x800000 ≤ addr then c.dbFault 1 port e addr
      else match c.read port cls addr 64 with
        | (.refused _, c) => c.dbFault 2 port e addr
        | (.uncorrectable, c) => c.dbFault 3 port e addr
        | (r, c) =>
          let bytes := match r with | .ok b => b | _ => List.replicate 64 0
          let compl := leAt bytes 0x0C 4
          if compl % 32 ≠ 0 ∨ 0x800000 ≤ compl then c.dbFault 4 port e addr
          else c.submit opOk e port cls addr bytes
    c.qshow e

/-- DOORBELL (R326, R327): `port` writes `v` to ENG_DBe. -/
def execDoorbell (port e : Nat) (v : Word) (s : State) : Host.Outcome State Fault Refusal :=
  s.onChip fun c =>
    if 36 ≤ e then c
    else
      let cls := c.portCls port
      c.store port (0x40030100 + 4 * e) fun c => c.ring port cls e v.toNat

/-! ### Selection -/

/-- The WAIT condition of a descriptor (R341). -/
def Chip.waitMet (c : Chip) (d : Desc) : Bool :=
  !d.flag 3 || decide ((Machine.fld (c.reg (0x40030400 + 4 * (d.at 5 1 % 32))) 0 16 + 65536 - d.at 8 2) % 65536 < 32768)

/-- The remaining admission time covers COST. -/
def Chip.roomFor (c : Chip) (e : Nat) (d : Desc) : Bool :=
  match c.admitNs e d.cls with
  | none => true
  | some ns => decide (0 < ns ∧ 1000 * d.cost ≤ ns)

/-- The head of class `k` (R338). -/
def Engine.head (g : Engine) (k : Nat) : Option Desc := g.queue.find? fun d => decide (d.cls = k)

/-- The ready head of the highest class (R337, R338). -/
def Chip.pick (c : Chip) (e : Nat) : Option Desc :=
  [0, 1, 2].findSome? fun k => match (c.engine e).head k with
    | some d => if c.waitMet d && c.roomFor e d then some d else none
    | none => none

/-- DESCRIPTOR_START (R337 to R340). -/
def execDescriptorStart (e : Nat) (s : State) : Host.Outcome State Fault Refusal :=
  s.onChip fun c =>
    let g := c.engine e
    if g.pw ≠ .up ∨ g.run.isSome then c
    else match c.pick e with
      | none => c
      | some d =>
        let c := c.onEng e fun g => { g with queue := g.queue.erase d }
        if d.flag 2 && pastDue c.packUs d.deadline then (c.endUnstarted e d 7).settleOff e
        else (c.onEng e fun g =>
          { g with run := some ⟨d, c.packUs, false, OpRes.bare 1 0, [], []⟩, lost := false }).qshow e

/-- DESCRIPTOR_COMPLETE (R342, R350, R351): the running descriptor's work is done and its record is written. -/
def execDescriptorComplete (e : Nat) (s : State) : Host.Outcome State Fault Refusal :=
  s.onChip fun c => match (c.engine e).run with
    | some r => if r.done then c.finish e r r.res else c
    | none => c

/-- TIME_WINDOW_OPEN (R344): engines whose running descriptor lost admission have it again. -/
def execTimeWindowOpen (n : Nat) (s : State) : Host.Outcome State Fault Refusal :=
  s.onChip fun c =>
    (List.range 36).foldl (fun c e => match (c.engine e).run with
      | some r => if c.winNames n e r.d.cls && c.admitted e r.d.cls then c.onEng e fun g => { g with lost := false } else c
      | none => c) c

/-- A head that waited for want of admission time is deferred (R345). -/
def Chip.deferHead (c : Chip) (n e k : Nat) : Chip :=
  match (c.engine e).head k with
  | some d =>
    if c.winNames n e k && (c.engine e).run.isNone && decide ((c.engine e).pw = .up ∧ 0 < d.cost) && c.waitMet d && !c.roomFor e d then
      c.onEng e fun g => { g with queue := g.queue.replace d { d with defer := min 255 (d.defer + 1) } }
    else c
  | none => c

/-- TIME_WINDOW_CLOSE (R345, R346): waiting heads are deferred, and the grace time of running descriptors starts. -/
def execTimeWindowClose (n : Nat) (s : State) : Host.Outcome State Fault Refusal :=
  s.onChip fun c =>
    if 32 ≤ n ∨ c.bit 0x40030010 0 = false then c
    else (List.range 36).foldl (fun c e =>
      let c := [0, 1, 2].foldl (fun c k => c.deferHead n e k) c
      match (c.engine e).run with
      | some r =>
        if c.winNames n e r.d.cls && !c.admitted e r.d.cls && !(c.engine e).lost then
          c.onEng e fun g => { g with lost := true }
        else c
      | none => c) c

/-- GRACE_EXPIRY (R346, R348): the GRACE time since admission was lost has passed (DESIGN CHOICE, log entry 2). -/
def execGraceExpiry (e : Nat) (s : State) : Host.Outcome State Fault Refusal :=
  s.onChip fun c => match (c.engine e).run with
    | some r => if !r.done && (c.engine e).lost && !c.admitted e r.d.cls then c.finish e r (OpRes.bare 8 0) else c
    | none => c

/-- RUNMAX_EXPIRY (R347, R348): the running descriptor has run for RUNMAX (DESIGN CHOICE, log entry 2). -/
def execRunmaxExpiry (e : Nat) (s : State) : Host.Outcome State Fault Refusal :=
  s.onChip fun c => match (c.engine e).run with
    | some r => if r.done then c else c.finish e r (OpRes.bare 9 0)
    | none => c

/-- Every queued descriptor of the classes in `mask` completes with ABORTED, and then the running one (R355). -/
def Chip.flush (c : Chip) (e mask : Nat) : Chip :=
  let hit := fun (d : Desc) => nbit mask d.cls
  let out := (c.engine e).queue.filter hit
  let c := c.onEng e fun g => { g with queue := g.queue.filter fun d => !hit d }
  let c := out.foldl (fun c d => c.endUnstarted e d 10) c
  (match (c.engine e).run with
    | some r => if hit r.d then c.finish e r (OpRes.bare 10 0) else c
    | none => c).qshow e

/-- A write to ENG_FLUSH. -/
def Chip.flushStore (c : Chip) (port : Nat) (v : Word) : Chip :=
  let c := c.storeReg port 0x40030300 v
  if Machine.fld v 0 6 < 36 then c.flush (Machine.fld v 0 6) (Machine.fld v 6 3) else c

/-- ENG_FLUSH (R355). -/
def execEngFlush (port : Nat) (v : Word) (s : State) : Host.Outcome State Fault Refusal :=
  s.onChip fun c => c.store port 0x40030300 fun c => c.flushStore port v

/-- ENG_EVT_WRITE (R341, R343). -/
def execEngEvtWrite (port k : Nat) (v : Word) (s : State) : Host.Outcome State Fault Refusal :=
  s.onChip fun c => if 32 ≤ k then c else c.store port (0x40030400 + 4 * k) fun c => c.storeReg port (0x40030400 + 4 * k) v

/-! ### Power -/

/-- The engine is excited: a tone set is active or waits (R382). -/
def Chip.exciting (c : Chip) (e : Nat) : Bool :=
  let z := nth c.zle (e - 16) default
  decide (16 ≤ e ∧ e < 18) && (!z.tones.isEmpty || z.next.isSome)

/-- ENGINE_USABLE (R59, R356): the engine that was powering up is usable, its local buffer unwritten (R305). -/
def execEngineUsable (e : Nat) (s : State) : Host.Outcome State Fault Refusal :=
  s.onChip fun c =>
    if (c.engine e).pw = .powering then ((c.onEng e fun g => { g with pw := .up }).clearBuf e).setDom (13 + e) true else c

/-- ENG_IDLE_POWER_OFF (R59, R357, R382): an AUTO engine has held no descriptor for ENG_IDLE. -/
def execEngIdlePowerOff (e : Nat) (s : State) : Host.Outcome State Fault Refusal :=
  s.onChip fun c =>
    if c.engSet e = 0 ∧ (c.engine e).pw = .up ∧ (c.engine e).held = [] ∧ c.exciting e = false then (c.engDown e).qshow e else c

/-- What the setting of engine `e` asks for (R59, R358). -/
def Chip.engPower (c : Chip) (e : Nat) : Chip :=
  match c.engSet e with
  | 1 => if (c.engine e).pw = .off then c.onEng e fun g => { g with pw := .powering } else c
  | 2 => c.settleOff e
  | _ => if (c.engine e).pw = .off ∧ (c.engine e).queue ≠ [] then c.onEng e fun g => { g with pw := .powering } else c

/-- A write to PWR_ENGk and what it asks of its engines. -/
def Chip.pwrEngStore (c : Chip) (port k : Nat) (v : Word) : Chip :=
  let c := c.storeReg port (0x40000018 + 4 * k) v
  ((List.range 16).map (16 * k + ·)).foldl (fun c e => if e < 36 then c.engPower e else c) c

/-- PWR_ENG_WRITE (R58, R59, R358). -/
def execPwrEngWrite (port k : Nat) (v : Word) (s : State) : Host.Outcome State Fault Refusal :=
  s.onChip fun c => if 3 ≤ k then c else c.store port (0x40000018 + 4 * k) fun c => c.pwrEngStore port k v

end Sys2Proof.Machine
end

