-- ==== Sys2Proof/Machine/Packet.lean ====
section
/-! DEFINITION. Henlink packets and control words: the header of Table 14-4, the kinds of Table 14-5, the control words of Table 14-6,
and the real time that AGE counts (14_henlink.md). -/
namespace Sys2Proof.Machine

/-- KIND of a packet. -/
def Pkt.kind (p : Pkt) : Nat := leAt p.hdr 0 1 % 16
/-- VC of a packet. -/
def Pkt.vc (p : Pkt) : Nat := leAt p.hdr 0 1 / 16 % 4
/-- ATTEMPT of a packet. -/
def Pkt.attempt (p : Pkt) : Nat := leAt p.hdr 0 1 / 64
/-- Links crossed before the present one. -/
def Pkt.hops (p : Pkt) : Nat := leAt p.hdr 1 1 % 64
/-- AUTH of a packet. -/
def Pkt.auth (p : Pkt) : Bool := nbit (leAt p.hdr 1 1) 6
/-- Destination device ID. -/
def Pkt.dst (p : Pkt) : Nat := leAt p.hdr 2 2 % 1024
/-- CLASS of a packet. -/
def Pkt.cls (p : Pkt) : Nat := leAt p.hdr 2 2 / 1024 % 4
/-- LEN in units of 32 bytes. -/
def Pkt.len (p : Pkt) : Nat := leAt p.hdr 2 2 / 4096
/-- Source device ID. -/
def Pkt.src (p : Pkt) : Nat := leAt p.hdr 4 2 % 1024
/-- End-to-end tag. -/
def Pkt.tag (p : Pkt) : Nat := leAt p.hdr 6 2
/-- ADDR of a packet. -/
def Pkt.addr (p : Pkt) : Nat := leAt p.hdr 8 4
/-- LSEQ of a packet. -/
def Pkt.lseq (p : Pkt) : Nat := leAt p.hdr 12 4 % 4096
/-- AGE in µs. -/
def Pkt.age (p : Pkt) : Nat := leAt p.hdr 12 4 / 4096 % 4096
/-- BYTES, the number of valid payload bytes or of bytes requested. -/
def Pkt.bytes (p : Pkt) : Nat := leAt p.hdr 15 1 + 1
/-- An enumeration kind (R532). -/
def Pkt.isEnum (p : Pkt) : Bool := decide (5 ≤ p.kind ∧ p.kind ≤ 7)

/-- LINK with LSEQ and AGE set. -/
def Pkt.withLink (p : Pkt) (lseq age : Nat) : Pkt :=
  { p with hdr := splice p.hdr 12 (leBytes 3 (lseq % 4096 + 4096 * min age 4095)) }
/-- HOPS raised by 1. -/
def Pkt.hop (p : Pkt) : Pkt := { p with hdr := splice p.hdr 1 (leBytes 1 (leAt p.hdr 1 1 / 64 * 64 + (p.hops + 1) % 64)) }
/-- AUTH set or cleared. -/
def Pkt.withAuth (p : Pkt) (b : Bool) : Pkt :=
  { p with hdr := splice p.hdr 1 (leBytes 1 (leAt p.hdr 1 1 / 128 * 128 + (if b then 64 else 0) + p.hops)) }

/-- A packet this device builds: HOPS, AGE and LSEQ 0, the reserved bits zero (R515). -/
def Pkt.make (kind vc attempt dst cls src tag addr bytes : Nat) (pay : List Byte) : Pkt :=
  let len := (pay.length + 31) / 32
  { hdr := leBytes 1 (kind + 16 * vc + 64 * attempt) ++ leBytes 1 0 ++ leBytes 2 (dst + 1024 * cls + 4096 * len) ++ leBytes 2 src ++
      leBytes 2 tag ++ leBytes 4 addr ++ leBytes 3 0 ++ leBytes 1 (bytes - 1)
    pay := padTo (32 * len) pay }

/-- The RESP of a request: SRC and DST exchanged, or SRC as given (R513, R531). -/
def Pkt.resp (p : Pkt) (src status : Nat) (data : List Byte) : Pkt :=
  Pkt.make 4 p.vc 0 p.src p.cls src p.tag status (max 1 data.length) data

/-- KIND, VC, CLASS, LEN and BYTES agree with Table 14-5 (R513). BYTES of an RD counts what is asked, and a RESP without data has
none (DEDUCED, log entry 15). -/
def Pkt.wellFormed (p : Pkt) : Bool :=
  let vcs := match p.kind with
    | 0 => [0, 2, 3] | 1 => [0, 2, 3] | 2 => [0, 2] | 3 => [0, 1, 3] | 4 => [0, 2, 3] | _ => [0]
  let units := (p.bytes + 31) / 32
  decide (p.kind ≤ 8) && vcs.contains p.vc && decide (p.cls ≠ 3 ∧ p.len ≤ 8) &&
    match p.kind with
    | 0 => decide (p.len = 0)
    | 1 => decide (p.len = units)
    | 2 => decide (p.len = 1 ∧ p.bytes = 8)
    | 3 => decide (p.len = units)
    | 4 => decide (p.len = 0 ∨ p.len = units)
    | 8 => decide (p.len = 1 ∧ p.bytes ≤ 32)
    | _ => decide (p.len = 2 ∧ p.bytes ≤ 64)

/-- Bytes on the lanes, with its trailer if it has one (R511). -/
def Pkt.size (p : Pkt) (auth : Bool) : Nat := 16 + p.pay.length + (if auth then 16 else 0) + 4

/-- Credits a packet takes: 32-byte units of its length (R521). -/
def Pkt.units (p : Pkt) (auth : Bool) : Nat := (p.size auth + 31) / 32

/-- The bytes sent: header, payload, trailer and the CRC, inverted to stomp (R514, R520). -/
def Pkt.wire (p : Pkt) (trailer : List Byte) (stomp : Bool) : List Byte :=
  let b := p.hdr ++ p.pay ++ trailer
  b ++ leBytes 4 (if stomp then crc32 b ^^^ 0xFFFFFFFF else crc32 b)

/-- A control word (Table 14-6): type, content and CRC-16 (R189). -/
def ctlWord (type : Nat) (body : List Byte) : List Byte :=
  let b := leBytes 1 type ++ padTo 5 body
  b ++ leBytes 2 (crc16From 0xFFFF b)

/-- A control word of this type that passes its CRC. -/
def ctlOk (type : Nat) (w : List Byte) : Bool :=
  decide (w.length = 8 ∧ leAt w 0 1 = type ∧ crc16From 0xFFFF (w.take 6) = leAt w 6 2)

/-- Real time in 25/64 ns, as the RTC counts it. -/
def Chip.real (c : Chip) : Nat := c.clocks.rtc * 78125 + c.clocks.rtcPhase

/-- µs of real time since `t`, rounded up (R543). -/
def Chip.usUp (c : Chip) (t : Nat) : Nat := (c.real - t + 2559) / 2560

/-! ### Registers of a port -/

/-- HL_Pp_STAT of port `p`. -/
def hlStat (p : Nat) : Nat := 0x40040104 + 0x40 * p
/-- STATE of port `p`: 0 OFF, 1 TRAINING, 2 UP, 3 SUSPENDED, 4 FAILED. -/
def Chip.hlState (c : Chip) (p : Nat) : Nat := Machine.fld (c.reg (hlStat p)) 0 3
/-- Port `p` holds a link key. -/
def Chip.hlKeyed (c : Chip) (p : Nat) : Bool := Machine.bit (c.reg (hlStat p)) 5
/-- Port `p` of the four. -/
def Chip.hlPort (c : Chip) (p : Nat) : HlPort := nth c.hl.ports p HlPort.fresh
/-- One port changed. -/
def Chip.onPort (c : Chip) (p : Nat) (f : HlPort → HlPort) : Chip := { c with hl.ports := upd c.hl.ports p f }
/-- A unit put on the lanes of port `p`. -/
def Chip.emit (c : Chip) (p : Nat) (u : List Byte) : Chip :=
  c.onPort p fun h => { h with sent := (h.sent ++ [u]).drop (h.sent.length + 1 - 16) }
/-- A count of port `p` in HL_Pp_ERR2: 0 STOMP, 1 AUTH_FAIL, 2 MALFORMED, 3 RETRAINS. -/
def Chip.hlCount (c : Chip) (p i : Nat) : Chip := c.incFld (0x4004010C + 0x40 * p) (8 * i) 8 1
/-- The device's ID when HL_ID.VALID = 1 (R523). -/
def Chip.hlId (c : Chip) : Option Nat :=
  if Machine.bit (c.reg 0x40040004) 31 then some (Machine.fld (c.reg 0x40040004) 0 10) else none

/-- The link key window of port `p` goes to IDLE and its NONCE_OWN is void (R729). -/
def Chip.nonceVoid (c : Chip) (p : Nat) : Chip :=
  { c with sec.nonceOk := upd c.sec.nonceOk p fun _ => false }.setReg (0x40060200 + 0x40 * p + 0x2C) 0

/-- STATE of port `p` set, with LINK_CHG when it changes (HL_STATUS), and the link key window void when it enters or leaves UP. -/
def Chip.setHlState (c : Chip) (p x : Nat) : Chip :=
  if c.hlState p = x then c
  else
    let c := if c.hlState p = 2 ∨ x = 2 then c.nonceVoid p else c
    (c.setFld (hlStat p) 0 3 x).setBit 0x40040000 1 true

/-! ### The time port -/

/-- Port `p` can carry TSYNC: it is UP and keyed (R554). -/
def Chip.timeUsable (c : Chip) (p : Nat) : Bool := decide (p < 4 ∧ c.hlState p = 2) && c.hlKeyed p

/-- The port pack time is aligned through: PARENT, else ALTP, else none (R556). -/
def Chip.timePort (c : Chip) : Option Nat :=
  let par := c.fld 0x40040010 0 3
  let alt := c.fld 0x40040010 4 3
  if par = 7 then none else if c.timeUsable par then some par else if c.timeUsable alt then some alt else none

/-- OWNER, ON_ALT and LOCKED as HL_TPAR and the ports now make them (R556, R614). -/
def Chip.timeShow (c : Chip) : Chip :=
  let par := c.fld 0x40040010 0 3
  let c := c.setBit 0x4008001C 3 (decide (par ≠ 7))
  if par = 7 then c.setFld 0x40040014 0 2 0
  else match c.timePort with
    | some p => c.setBit 0x40040014 1 (decide (p ≠ par))
    | none => { c with hl.good := 0, hl.bad := 0, hl.t1 := none }.setFld 0x40040014 0 2 0

end Sys2Proof.Machine
end

