-- ==== Sys2Proof/Machine/Link.lean ====
section
/-! DEFINITION. The ports of Henlink: training, power, the link layer's sequence, acknowledgement, retry and credits, and what is put
on the lanes (14_henlink.md, R505 to R522). The sender of a timed command vouches for its time (DESIGN CHOICE, log entry 2). -/
namespace Sys2Proof.Machine

/-- Credits of the four receive buffers in 32-byte units (Table 14-7, R521). -/
def fullCredits : List Nat := [32, 128, 256, 128]

/-! ### Training -/

/-- Training starts at step 1 of Table 14-3 with the whole mask (R505, R507). -/
def Chip.trainStart (c : Chip) (p : Nat) : Chip :=
  let m := c.fld (0x40040100 + 0x40 * p) 0 3
  ((c.onPort p fun h => { h with mask := m, gen := 0 }).setFld (hlStat p) 3 2 0).setHlState p 1 |>.timeShow

/-- Credits port `i` owes for `n` units of `vc` returned by a CREDIT word (R521). -/
def Chip.creditBack (c : Chip) (p vc n : Nat) : Chip :=
  if 4 ≤ p ∨ n = 0 ∨ c.hlState p ≠ 2 then c
  else
    let f := (nth (c.hlPort p).freed vc 0 + n) % 65536
    (c.onPort p fun h => { h with freed := upd h.freed vc fun _ => f }).emit p (ctlWord 3 (leBytes 1 vc ++ leBytes 2 f))

/-- A mailbox's result (R535). -/
def Chip.mailDone (c : Chip) (q status : Nat) : Chip :=
  (c.setFld (0x4004040C + 0x200 * q) 0 2 (if status = 0 then 2 else 3)).setFld (0x4004040C + 0x200 * q) 8 8 status

/-- A queued packet discarded: its input buffer is freed, and a mailbox's PWR fails with NO_ROUTE (R510, R535). -/
def Chip.dropOut (c : Chip) (o : OutPkt) : Chip :=
  let c := match o.mail with | some q => c.mailDone q 5 | none => c
  if 1 ≤ o.src then c.creditBack (o.src - 1) o.pkt.vc o.owes else c

/-- What a port that leaves UP discards: its replay buffer and output queues (R510). -/
def Chip.portFlush (c : Chip) (p : Nat) : Chip :=
  let q := (c.hlPort p).queue
  let c := c.onPort p fun h => { h with replay := [], queue := [], replays := 0, skipping := false, unacked := 0 }
  q.foldl (fun c o => c.dropOut o) c

/-- A port in UP fails (R510): it discards, counts a retrain, and trains again unless it is OFF. -/
def Chip.portFail (c : Chip) (p : Nat) : Chip :=
  let c := ((c.portFlush p).hlCount p 3).setBit 0x40040000 1 true
  if c.fld 0x40000028 (2 * p) 2 = 2 then ((c.setFld (hlStat p) 3 2 0).setHlState p 0).timeShow else c.trainStart p

/-- The setting of port `p` applied after a write to PWR_LINK; `was` is the earlier one (R505, R509, R510). -/
def Chip.portPower (c : Chip) (p was : Nat) : Chip :=
  let now := c.fld 0x40000028 (2 * p) 2
  if now = was then c
  else if now = 2 then
    let c := if c.hlState p = 2 then c.portFail p
      else (((c.portFlush p).setFld (hlStat p) 3 2 0).setHlState p 0).timeShow
    c.setDom (49 + p) false
  else
    let c := c.setDom (49 + p) true
    if now = 1 then (if c.hlState p = 2 then (c.setHlState p 3).timeShow else c)
    else if c.hlState p = 0 then c.trainStart p
    else c

/-- A write to PWR_LINK and what it asks of the ports. -/
def Chip.pwrLinkStore (c : Chip) (port : Nat) (v : Word) : Chip :=
  let was := (List.range 4).map fun p => c.fld 0x40000028 (2 * p) 2
  let c := c.storeReg port 0x40000028 v
  (List.range 4).foldl (fun c p => c.portPower p (nth was p 2)) c

/-- PWR_LINK_WRITE (R505, R509, R510). -/
def execPwrLinkWrite (port : Nat) (v : Word) (s : State) : Host.Outcome State Fault Refusal :=
  s.onChip fun c => c.store port 0x40000028 fun c => c.pwrLinkStore port v

/-- A write to HL_Pp_CTL: GENMASK is stored, and RETRAIN starts training of an active port (R505). -/
def Chip.hlCtlStore (c : Chip) (port p : Nat) (v : Word) : Chip :=
  let c := c.storeReg port (0x40040100 + 0x40 * p) v
  if Machine.bit v 3 ∧ c.fld 0x40000028 (2 * p) 2 = 0 then (c.portFlush p).trainStart p else c

/-- HL_RETRAIN (R505). -/
def execHlRetrain (port p : Nat) (v : Word) (s : State) : Host.Outcome State Fault Refusal :=
  s.onChip fun c => if 4 ≤ p then c else c.store port (0x40040100 + 0x40 * p) fun c => c.hlCtlStore port p v

/-- The highest generation set in both masks, 0 when there is none (R506). -/
def bestGen (a b : Nat) : Nat :=
  if nbit a 2 && nbit b 2 then 3 else if nbit a 1 && nbit b 1 then 2 else if nbit a 0 && nbit b 0 then 1 else 0

/-- LINK_TRAIN (R506, Table 14-3 steps 2 and 3): the peer's TS2 carries its mask, its lane count, and its ID with VALID. -/
def execLinkTrain (p peerMask lanes peerId : Nat) (peerValid : Bool) (s : State) : Host.Outcome State Fault Refusal :=
  s.onChip fun c =>
    if 4 ≤ p ∨ c.hlState p ≠ 1 then c
    else
      let m := if lanes < 2 then peerMask % 2 else peerMask
      let c := (c.setFld (hlStat p) 16 10 (if peerValid then peerId else 0)).setBit (hlStat p) 26 peerValid
      c.onPort p fun h => { h with gen := bestGen h.mask m }

/-- TRAINING_FALLBACK (R507): lane 1 fails equalisation, or step 4 fails for the third time at the chosen generation. -/
def execTrainingFallback (p : Nat) (lane1 : Bool) (s : State) : Host.Outcome State Fault Refusal :=
  s.onChip fun c =>
    let h := c.hlPort p
    if 4 ≤ p ∨ c.hlState p ≠ 1 ∨ h.gen = 0 then c
    else if lane1 then c.onPort p fun h => { h with gen := 1 }
    else
      let m := h.mask &&& (7 - 2 ^ (h.gen - 1))
      let c := c.onPort p fun h => { h with mask := m, gen := 0 }
      if m = 0 then c.setHlState p 4 else c

/-- LINK_UP (R508, Table 14-3 step 5). -/
def execLinkUp (p : Nat) (s : State) : Host.Outcome State Fault Refusal :=
  s.onChip fun c =>
    let g := (c.hlPort p).gen
    if 4 ≤ p ∨ c.hlState p ≠ 1 ∨ g = 0 then c
    else
      let c := c.onPort p fun h =>
        { h with
          txSeq := 0, rxSeq := 0, replay := [], replays := 0, skipping := false, unacked := 0
          credits := fullCredits, seen := [0, 0, 0, 0], freed := [0, 0, 0, 0], turn := 1, given := false, deficit := [0, 0, 0, 0]
          srcTurn := [0, 0, 0, 0] }
      let keys := upd c.sec.linkKeys p fun _ => none
      let c := { c with sec.linkKeys := keys }.setBit (hlStat p) 5 false
      (((c.setFld (hlStat p) 3 2 g).setHlState p 2).timeShow)

/-- LINK_FAILED_RETRY (R507): 100 ms after FAILED the port starts again at step 1. -/
def execLinkFailedRetry (p : Nat) (s : State) : Host.Outcome State Fault Refusal :=
  s.onChip fun c => if p < 4 ∧ c.hlState p = 4 then c.trainStart p else c

/-- LINK_RESUME (R509): a suspended port that is ACTIVE again goes on where it stood. -/
def execLinkResume (p : Nat) (s : State) : Host.Outcome State Fault Refusal :=
  s.onChip fun c =>
    if p < 4 ∧ c.hlState p = 3 ∧ c.fld 0x40000028 (2 * p) 2 = 0 then
      ((c.setFld (hlStat p) 0 3 2).setBit 0x40040000 1 true).timeShow
    else c

/-- LINK_FAIL (R510): a lane has lost lock for 1 µs, or a packet has been replayed 8 times, or the port is OFF. -/
def execLinkFail (p : Nat) (lockLost : Bool) (s : State) : Host.Outcome State Fault Refusal :=
  s.onChip fun c =>
    if p < 4 ∧ c.hlState p = 2 ∧ (lockLost = true ∨ 8 ≤ (c.hlPort p).replays ∨ c.fld 0x40000028 (2 * p) 2 = 2) then c.portFail p else c

/-! ### Transmission -/

/-- The packet as it leaves on port `p` now (R518, R543, R550, R553): its present AGE, TSYNC's transmit time, and on a keyed port the
trailer of VC0 and VC2 with the next TXC. -/
def Chip.transmit (c : Chip) (p : Nat) (o : OutPkt) (lseq : Nat) : Chip :=
  let k := o.pkt.withLink lseq (o.pkt.age + c.usUp o.born + 1)
  let isSync := decide (k.kind = 8)
  let child := isSync && decide (c.timePort = some p)
  let k := if isSync && !child then { k with pay := splice k.pay 8 (leBytes 8 c.clocks.packNs) } else k
  let c := if child then { c with hl.t1 := some c.clocks.packNs } else c
  match nth c.sec.linkKeys p none with
  | some key =>
    if k.vc = 0 ∨ k.vc = 2 then
      let k := k.withAuth true
      let n := key.txc % 2 ^ 63 + 1
      let txc := n + key.dir * 2 ^ 63
      let tag := (gcmTag key.key (key.session ++ beBytes 8 txc) (k.hdr ++ k.pay) []).take 8
      let keys := upd c.sec.linkKeys p fun _ => some { key with txc := n }
      { c with sec.linkKeys := keys }.emit p
        (k.wire (leBytes 8 txc ++ tag) o.stomp)
    else c.emit p ((k.withAuth false).wire [] o.stomp)
  | none => c.emit p ((k.withAuth false).wire [] o.stomp)

/-- A packet on this port and VC carries a trailer (R550). -/
def Chip.authOn (c : Chip) (p vc : Nat) : Bool := (nth c.sec.linkKeys p none).isSome && decide (vc = 0 ∨ vc = 2)

/-- The packet may start: the peer's buffer has room, and a packet of this device's own has its class's tokens (R324, R521). -/
def Chip.mayStart (c : Chip) (p : Nat) (o : OutPkt) : Bool :=
  let n := o.pkt.units (c.authOn p o.pkt.vc)
  decide (n ≤ nth (c.hlPort p).credits o.pkt.vc 0) &&
    (decide (1 ≤ o.src) || decide (n ≤ nth c.clocks.tokens (24 + 3 * p + o.pkt.cls) 0 / 1024))

/-- The packet of `vc` that its source round robin serves next (R522). -/
def Chip.vcPick (c : Chip) (p vc : Nat) : Option OutPkt :=
  let h := c.hlPort p
  (List.range 5).findSome? fun i =>
    let src := (nth h.srcTurn vc 0 + i) % 5
    match h.queue.find? fun o => decide (o.pkt.vc = vc ∧ o.src = src) with
    | some o => if c.mayStart p o then some o else none
    | none => none

/-- Deficit round robin over VC1 to VC3 (R522): the packet to send, and the state it leaves. -/
def Chip.drr (c : Chip) (p : Nat) : Nat → HlPort → Option (OutPkt × HlPort)
  | 0, _ => none
  | n + 1, h =>
    let vc := h.turn
    let quantum := 32 * c.fld 0x4004000C (8 * (vc - 1)) 8
    let next : HlPort := { h with turn := if vc = 3 then 1 else vc + 1, given := false }
    match c.vcPick p vc with
    | none =>
      let idle := h.queue.all fun o => decide (o.pkt.vc ≠ vc)
      let zeroed := upd h.deficit vc fun _ => 0
      c.drr p n (if idle then { next with deficit := zeroed } else next)
    | some o =>
      let more := upd h.deficit vc fun d => d + quantum
      let h : HlPort := if h.given then h else { h with given := true, deficit := more }
      let size := o.pkt.size (c.authOn p vc)
      let less := upd h.deficit vc fun d => d - size
      if size ≤ nth h.deficit vc 0 then some (o, { h with deficit := less })
      else c.drr p n { h with turn := if vc = 3 then 1 else vc + 1, given := false }

/-- The chosen packet leaves: numbered, held for replay, its credits and tokens spent and its input buffer freed (R516, R521, R324). -/
def Chip.sendOut (c : Chip) (p : Nat) (o : OutPkt) : Chip :=
  let h := c.hlPort p
  let vc := o.pkt.vc
  let n := o.pkt.units (c.authOn p vc)
  let seq := h.txSeq
  let held : OutPkt := { o with pkt := o.pkt.withLink seq o.pkt.age, mail := none }
  let c := c.onPort p fun h =>
    { h with
      txSeq := (seq + 1) % 4096, replay := h.replay ++ [held], queue := h.queue.erase o
      credits := upd h.credits vc fun k => k - n, srcTurn := upd h.srcTurn vc fun _ => (o.src + 1) % 5 }
  let left := upd c.clocks.tokens (24 + 3 * p + o.pkt.cls) fun t => t - 1024 * n
  let c := if o.src = 0 then { c with clocks.tokens := left } else c
  let c := c.transmit p o seq
  let c := match o.mail with | some q => c.mailDone q 0 | none => c
  if 1 ≤ o.src then c.creditBack (o.src - 1) vc o.owes else c

/-- PACKET_SEND (R516, R521, R522): port `p` starts the packet that VC priority and round robin choose. -/
def execPacketSend (p : Nat) (s : State) : Host.Outcome State Fault Refusal :=
  s.onChip fun c =>
    let h := c.hlPort p
    if 4 ≤ p ∨ c.hlState p ≠ 2 ∨ 128 ≤ h.replay.length then c
    else match c.vcPick p 0 with
      | some o => c.sendOut p o
      | none => match c.drr p 64 h with
        | some (o, h') =>
          (c.onPort p fun h => { h with turn := h'.turn, given := h'.given, deficit := h'.deficit }).sendOut p o
        | none => c

/-! ### Acknowledgement and retry -/

/-- Packets up to and including `lseq` are acknowledged; an LSEQ outside the replay buffer releases nothing. -/
def HlPort.acked (h : HlPort) (lseq : Nat) : HlPort :=
  match h.replay.findIdx? fun o => decide (o.pkt.lseq = lseq) with
  | some i => { h with replay := h.replay.drop (i + 1), replays := 0 }
  | none => h

/-- Every unacknowledged packet is sent again in LSEQ order (R518). -/
def Chip.resend (c : Chip) (p : Nat) : Chip :=
  let rs := (c.hlPort p).replay
  if rs = [] then c
  else
    let c := (c.onPort p fun h => { h with replays := h.replays + 1 }).incFld (0x40040108 + 0x40 * p) 16 16 1
    rs.foldl (fun c o => c.transmit p o o.pkt.lseq) c

/-- ACK (R518): the control word `w` arrives on port `p`. -/
def execAck (p : Nat) (w : List Byte) (s : State) : Host.Outcome State Fault Refusal :=
  s.onChip fun c => if p < 4 ∧ c.hlState p = 2 ∧ ctlOk 1 w = true then c.onPort p fun h => h.acked (leAt w 1 2 % 4096) else c

/-- NAK (R518). -/
def execNak (p : Nat) (w : List Byte) (s : State) : Host.Outcome State Fault Refusal :=
  s.onChip fun c =>
    if p < 4 ∧ c.hlState p = 2 ∧ ctlOk 2 w = true then (c.onPort p fun h => h.acked (leAt w 1 2 % 4096)).resend p else c

/-- CREDIT (R521): cumulative credits freed, modulo 2^16. -/
def execCredit (p : Nat) (w : List Byte) (s : State) : Host.Outcome State Fault Refusal :=
  s.onChip fun c =>
    let vc := leAt w 1 1
    let n := leAt w 2 2
    if p < 4 ∧ c.hlState p = 2 ∧ ctlOk 3 w = true ∧ vc < 4 then
      c.onPort p fun h =>
        { h with credits := upd h.credits vc fun k => k + (n + 65536 - nth h.seen vc 0) % 65536, seen := upd h.seen vc fun _ => n }
    else c

/-- ACK with the last LSEQ accepted (R517). -/
def Chip.ackNow (c : Chip) (p : Nat) : Chip :=
  let last := ((c.hlPort p).rxSeq + 4095) % 4096
  (c.onPort p fun h => { h with unacked := 0 }).emit p (ctlWord 1 (leBytes 2 last))

/-- ACK_TIMER (R517). -/
def execAckTimer (p : Nat) (s : State) : Host.Outcome State Fault Refusal :=
  s.onChip fun c => if p < 4 ∧ c.hlState p = 2 ∧ (c.hlPort p).unacked ≠ 0 then c.ackNow p else c

/-- REPLAY_TIMEOUT (R518): the oldest unacknowledged packet has waited 8 µs. -/
def execReplayTimeout (p : Nat) (s : State) : Host.Outcome State Fault Refusal :=
  s.onChip fun c => if p < 4 ∧ c.hlState p = 2 then c.resend p else c

end Sys2Proof.Machine
end

