-- ==== Sys2Proof/Machine/Transport.lean ====
section
/-! DEFINITION. Routing, reception and forwarding of packets, the requester's transactions, the transmit mailboxes, the enumeration
queue and the TSYNC exchange (14_henlink.md and 15_manager_operation.md). -/
namespace Sys2Proof.Machine

/-! ### Routing -/

/-- Port `p` is usable for a packet of `vc` (R530). -/
def Chip.usable (c : Chip) (p vc : Nat) (enum : Bool) : Bool :=
  decide (p < 4 ∧ c.hlState p = 2) && (enum || decide (vc = 1 ∨ vc = 3) || c.hlKeyed p)

/-- The output port for destination `d` (R528, R531). -/
def Chip.route (c : Chip) (d vc : Nat) : Option Nat :=
  let a := 0x40041000 + 4 * (d % 1024)
  let pri := c.fld a 0 3
  let alt := c.fld a 4 3
  if c.usable pri vc false then some pri else if c.usable alt vc false then some alt else none

/-- A packet put into an output queue. -/
def Chip.enqueue (c : Chip) (p : Nat) (o : OutPkt) : Chip := c.onPort p fun h => { h with queue := h.queue ++ [o] }

/-- A packet of this device's own, sent by DST when a route exists. -/
def Chip.sendOwn (c : Chip) (k : Pkt) (mail : Option Nat) : Option Chip :=
  (c.route k.dst k.vc).map fun p => c.enqueue p ⟨k, 0, c.real, 0, false, mail⟩

/-- A packet that arrived on port `p` leaves its receive buffer (R521). -/
def Chip.freeBuf (c : Chip) (p : Nat) (k : Pkt) : Chip := c.creditBack p k.vc (k.units k.auth)

/-- A forwarded packet discarded under R531: counted, and a request is answered with NO_ROUTE when a route to the requester exists. -/
def Chip.noRoute (c : Chip) (p : Nat) (k : Pkt) : Chip :=
  let c := (c.incFld 0x40040024 0 32 1).freeBuf p k
  if k.kind ≤ 2 ∧ c.hlId.isSome then (c.sendOwn (k.resp k.dst 5 []) none).getD c else c

/-- A packet that arrived on port `p` forwarded under R529 and R531; `stomp` ends it with an inverted CRC (R520). -/
def Chip.forward (c : Chip) (p : Nat) (k : Pkt) (stomp : Bool) : Chip :=
  if 31 ≤ k.hops then (c.incFld 0x40040020 0 32 1).freeBuf p k
  else if !c.bit 0x40040008 0 then c.noRoute p k
  else match c.route k.dst k.vc with
    | some q => c.enqueue q ⟨k.hop, 1 + p, c.real, k.units k.auth, stomp, none⟩
    | none => c.noRoute p k

/-- A forwarder that has begun to pass on a packet which then fails its CRC or trailer check ends its copy with an inverted CRC
(R520, R551). -/
def Chip.stompCopy (c : Chip) (p : Nat) (k : Pkt) (owes : Nat) : Chip :=
  if k.isEnum ∨ k.kind = 8 ∨ 31 ≤ k.hops ∨ c.bit 0x40040008 0 = false ∨ c.hlId = some k.dst then c.creditBack p k.vc owes
  else match c.route k.dst k.vc with
    | some q => c.enqueue q ⟨k.hop, 1 + p, c.real, owes, true, none⟩
    | none => c.creditBack p k.vc owes

/-! ### Reception -/

/-- PATH or RPATH entry `h` of an enumeration payload: 2 bits each from byte `b` (R532). -/
def pathAt (pay : List Byte) (b h : Nat) : Nat := leAt pay (b + h / 4) 1 / 4 ^ (h % 4) % 4

/-- The same with entry `h` set. -/
def pathPut (pay : List Byte) (b h x : Nat) : List Byte :=
  let old := leAt pay (b + h / 4) 1
  splice pay (b + h / 4) (leBytes 1 (old - pathAt pay b h * 4 ^ (h % 4) + x * 4 ^ (h % 4)))

/-- Delivered locally: the packet waits for its effect, in its receive buffer. -/
def Chip.deliver (c : Chip) (p : Nat) (k : Pkt) : Chip :=
  { c with hl.inbox := c.hl.inbox ++ [⟨p, k, c.clocks.packNs⟩] }

/-- A checked packet of port `p` delivered locally or forwarded (R523, R524, R531, R532). -/
def Chip.place (c : Chip) (p : Nat) (k : Pkt) : Chip :=
  if k.isEnum then
    let h := k.hops
    if 32 ≤ h then (c.incFld 0x40040020 0 32 1).freeBuf p k
    else
      let k := { k with pay := pathPut k.pay 8 h p }
      if h + 1 = leAt k.pay 16 1 then c.deliver p k
      else if 31 ≤ h then (c.incFld 0x40040020 0 32 1).freeBuf p k
      else
        let q := pathAt k.pay 0 (h + 1)
        if c.hlState q = 2 then c.enqueue q ⟨k.hop, 1 + p, c.real, k.units k.auth, false, none⟩ else c.freeBuf p k
  else if k.kind = 8 then c.deliver p k
  else if c.hlId = some k.dst then
    if k.kind ≤ 2 ∧ c.hl.accept = false then c.freeBuf p k else c.deliver p k
  else c.forward p k false

/-- The checks of R551 and R552 on a packet with its trailer; a packet that passes moves the last accepted TXC. -/
def Chip.authenticate (c : Chip) (p : Nat) (k : Pkt) (trailer : List Byte) : Bool × Chip :=
  if k.vc = 1 ∨ k.vc = 3 then (true, c)
  else match nth c.sec.linkKeys p none with
    | none => (k.isEnum && !k.auth, c)
    | some key =>
      let txc := leAt trailer 0 8
      let n := txc % 2 ^ 63
      let good := k.auth && decide (txc / 2 ^ 63 ≠ key.dir) && decide (key.rxc < n) &&
        decide ((gcmTag key.key (key.session ++ beBytes 8 txc) (k.hdr ++ k.pay) []).take 8 = slice trailer 8 8)
      let keys := upd c.sec.linkKeys p fun _ => some { key with rxc := n }
      (good, if good then { c with sec.linkKeys := keys } else c)

/-- What follows once a packet's LSEQ has been accepted: format, trailer, then its place (R513, R520, R551). -/
def Chip.accepted (c : Chip) (p : Nat) (cut inverted : Bool) (bytes : List Byte) : Chip :=
  let n := bytes.length
  let k : Pkt := ⟨bytes.take 16, []⟩
  let k : Pkt := { k with pay := slice bytes 16 (32 * k.len) }
  let owes := (n + 31) / 32
  if inverted then
    let c := c.hlCount p 0
    if cut then c.stompCopy p k owes else c.creditBack p k.vc owes
  else if !k.wellFormed || decide (n ≠ k.size k.auth) then
    (((c.hlCount p 2).setBit 0x40040000 2 true).creditBack p k.vc owes)
  else match c.authenticate p k (slice bytes (16 + 32 * k.len) 16) with
    | (true, c) => c.place p k
    | (false, c) =>
      let c := ((c.hlCount p 1).setBit 0x40040000 3 true).cause .logged 18 p
      if cut then c.stompCopy p k owes else c.creditBack p k.vc owes

/-- PACKET_RECEIVE (R516 to R520): the bytes of a packet on port `p`; `cut` says that the device was already passing it on (R522). -/
def execPacketReceive (p : Nat) (cut : Bool) (bytes : List Byte) (s : State) : Host.Outcome State Fault Refusal :=
  s.onChip fun c =>
    if 4 ≤ p ∨ c.hlState p ≠ 2 then c
    else
      let n := bytes.length
      let crc := crc32 (bytes.take (n - 4))
      let got := leAt bytes (n - 4) 4
      let inverted := decide (got = crc ^^^ 0xFFFFFFFF)
      if n < 20 ∨ (got ≠ crc ∧ inverted = false) then
        let last := ((c.hlPort p).rxSeq + 4095) % 4096
        let c := (c.incFld (0x40040108 + 0x40 * p) 0 16 1).emit p (ctlWord 2 (leBytes 2 last))
        let c := c.onPort p fun h => { h with skipping := true }
        if cut then c.stompCopy p ⟨bytes.take 16, slice bytes 16 (n - 20)⟩ 0 else c
      else if leAt bytes 12 4 % 4096 ≠ (c.hlPort p).rxSeq then c
      else
        let c := c.onPort p fun h => { h with rxSeq := (h.rxSeq + 1) % 4096, skipping := false, unacked := h.unacked + 1 }
        let c := if 16 ≤ (c.hlPort p).unacked then c.ackNow p else c
        c.accepted p cut inverted bytes

/-- The oldest delivered packet of these kinds taken for its effect; its receive buffer is free again. -/
def Chip.takeDelivered (c : Chip) (kinds : List Nat) : Option (Delivered × Chip) :=
  match c.hl.inbox.find? fun d => kinds.contains d.pkt.kind with
  | none => none
  | some d => some (d, { c with hl.inbox := c.hl.inbox.erase d }.freeBuf d.port d.pkt)

/-- A packet whose AGE exceeds 2,000 µs (R542, R543). -/
def Pkt.tooOld (k : Pkt) : Bool := decide (2000 < k.age)

/-- HL_AGEDROP counts a packet. -/
def Chip.ageDrop (c : Chip) : Chip := c.incFld 0x4004001C 0 32 1

/-! ### The requester -/

/-- Tags in use: open transactions and those held (R537, R541). -/
def Chip.tagsUsed (c : Chip) : List Nat := c.hl.xacts.map (·.tag) ++ c.hl.held

/-- A free tag, which one being the implementation's (DESIGN CHOICE, log entry 4); none when the pool is empty. -/
def Chip.drawTag (c : Chip) : Option Nat × Chip :=
  let (w, c) := c.drawWord
  let used := c.tagsUsed
  (((List.range (used.length + 1)).map fun i => (w + i) % 65536).find? fun t => !used.contains t, c)

/-- The request packet of a transaction at its present attempt. -/
def Xact.packet (x : Xact) (src : Nat) : Pkt := Pkt.make x.kind x.vc (min 3 x.sends) x.dest x.cls src x.tag x.addr x.bytes x.pay

/-- The transaction changed and moved to the end, as the one sent last. -/
def Chip.moveLast (c : Chip) (x y : Xact) : Chip := { c with hl.xacts := c.hl.xacts.erase x ++ [y] }

/-- One send of an open transaction (R531, R538): without a route the attempt ends with NO_ROUTE at once. -/
def Chip.sendXact (c : Chip) (x : Xact) : Chip :=
  let sent := match c.hlId with
    | some id => if x.dest = id then none else c.sendOwn (x.packet id) none
    | none => none
  match sent with
  | some c => c.moveLast x { x with sends := x.sends + 1 }
  | none => c.moveLast x { x with sends := x.sends + 1, cause := 5 }

/-- A transaction opened for `owner` (R537); it waits for the 14 ms of R524. None when the pool of tags is empty. -/
def Chip.openXact (c : Chip) (owner : XOwner) (kind vc dest cls addr bytes : Nat) (pay : List Byte) : Option Nat × Chip :=
  match c.drawTag with
  | (none, c) => (none, c)
  | (some tag, c) =>
    let x : Xact := ⟨tag, dest, kind, vc, cls, addr, bytes, pay, 0, 6, none, [], owner⟩
    let c := { c with hl.xacts := c.hl.xacts ++ [x] }
    (some tag, if c.hl.originate then c.sendXact x else c)

/-- The write touches a register block (R541, R544). -/
def touchesRegs (a n : Nat) : Bool := decide (0x40000000 < a + n ∧ a < 0x400A0000)

/-- A transaction leaves the requester: its tag returns at once, or is held (R541). -/
def Chip.closeXact (c : Chip) (x : Xact) : Chip :=
  let free := decide (x.sends ≤ 1 ∧ x.kind ≠ 2) && !(decide (x.kind = 1) && touchesRegs x.addr x.bytes)
  { c with hl.xacts := c.hl.xacts.erase x, hl.held := if free then c.hl.held else c.hl.held ++ [x.tag] }

/-- REQUEST_ACCEPT_OPEN (R524): 10 ms after the reset the device accepts requests, and at 14 ms it originates them, the waiting ones
first. -/
def execRequestAcceptOpen (originate : Bool) (s : State) : Host.Outcome State Fault Refusal :=
  s.onChip fun c =>
    let c := { c with hl.accept := true, hl.originate := c.hl.originate || originate }
    if originate then (c.hl.xacts.filter fun x => decide (x.sends = 0 ∧ x.tag < 65536)).foldl (fun c x => c.sendXact x) c else c

/-! ### Mailboxes -/

/-- Registers of mailbox `q`. -/
def mbReg (q o : Nat) : Nat := 0x40040400 + 0x200 * q + o

/-- A store to HL_MBq_GO by an access of class `cls` (R535, R536). A WR that finds no tag free waits under the number 65,536, which is
no tag (R541). -/
def Chip.mailStore (c : Chip) (port cls q : Nat) (v : Word) : Chip :=
  let was := c
  let c := c.storeReg port (mbReg q 8) v
  if !Machine.bit v 0 || was.frozenReg port (mbReg q 8) then c
  else
    let kind := c.fld (mbReg q 0) 0 4
    let vc := c.fld (mbReg q 0) 4 2
    let n := c.fld (mbReg q 0) 8 8 + 1
    let dst := c.fld (mbReg q 0) 16 10
    let addr := (c.act (mbReg q 4)).toNat
    let pay := ((List.range 64).flatMap fun i => leBytes 4 (c.act (mbReg q (0x100 + 4 * i))).toNat).take n
    if (kind = 1 ∧ vc = 1) ∨ (kind = 3 ∧ vc = 2) then c.misuse (mbReg q 0)
    else
      let c := (c.setFld (mbReg q 12) 0 2 1).setFld (mbReg q 12) 8 8 0
      match c.hlId with
      | none => c.mailDone q 5
      | some id =>
        if kind = 1 then
          match c.openXact (.mail q) 1 vc dst cls addr n pay with
          | (some _, c) => c
          | (none, c) => { c with hl.xacts := c.hl.xacts ++ [⟨65536, dst, 1, vc, cls, addr, n, pay, 0, 6, none, [], .mail q⟩] }
        else if dst = id then c.mailDone q 5
        else (c.sendOwn (Pkt.make 3 vc 0 dst cls id 0 addr n pay) (some q)).getD (c.mailDone q 5)

/-- GO written to mailbox `q` whose KIND is `kind`; nothing when it is another row's. -/
def State.mailGo (s : State) (kind port q : Nat) (v : Word) : Host.Outcome State Fault Refusal :=
  s.onChip fun c =>
    if 4 ≤ q ∨ c.fld (mbReg q 0) 0 4 ≠ kind then c
    else
      let cls := c.portCls port
      c.store port (mbReg q 8) fun c => c.mailStore port cls q v

/-- MB_SEND_WR (R535, R536). -/
def execMbSendWr (port q : Nat) (v : Word) (s : State) : Host.Outcome State Fault Refusal := s.mailGo 1 port q v

/-- MB_SEND_PWR (R535, R536). -/
def execMbSendPwr (port q : Nat) (v : Word) (s : State) : Host.Outcome State Fault Refusal := s.mailGo 3 port q v

/-! ### The enumeration queue -/

/-- The address of enumeration entry `i` (Table 15-5). -/
def Chip.eqAt (c : Chip) (i : Nat) : Nat := (c.act 0x40040C00).toNat + 128 * i

/-- HL_EQ_RD shows the entries in state SENT. -/
def Chip.eqShow (c : Chip) : Chip := c.setFld 0x40040C0C 16 9 c.hl.eqSent.length

/-- A store to HL_EQ_CTL (R569). -/
def Chip.eqCtlStore (c : Chip) (port : Nat) (v : Word) : Chip :=
  if Machine.bit v 0 ∧ c.hlId = none then c.misuse 0x40040C04
  else
    let c := c.storeReg port 0x40040C04 v
    if Machine.bit v 0 then c.setFld 0x40040C0C 0 8 0 else c

/-- EQ_ENABLE (R569). -/
def execEqEnable (port : Nat) (v : Word) (s : State) : Host.Outcome State Fault Refusal :=
  s.onChip fun c => c.store port 0x40040C04 fun c => c.eqCtlStore port v

/-- The entry at HL_EQ_RD sent, or marked NO_PORT, and HL_EQ_RD moved on (R568). -/
def Chip.eqOne (c : Chip) : Chip :=
  let i := Machine.fld (c.reg 0x40040C0C) 0 8
  let (e, c) := c.memRead (c.eqAt i) 128
  let c := c.setFld 0x40040C0C 0 8 (i + 1)
  match e with
  | none => c
  | some b =>
    let p := leAt b 0x10 1 % 4
    if leAt b 1 1 ≠ 1 ∨ (leAt b 0 1 ≠ 5 ∧ leAt b 0 1 ≠ 6) then c
    else if c.hlState p ≠ 2 then (c.memWrite (c.eqAt i + 1) [5]).2
    else
      let k := Pkt.make (leAt b 0 1) 0 0 0x3FF 0 0x3FF (0xFF00 + i) (leAt b 4 4) 64 (slice b 0x10 64)
      let c := (c.memWrite (c.eqAt i + 1) [2]).2
      { c.enqueue p ⟨k, 0, c.real, 0, false, none⟩ with hl.eqSent := c.hl.eqSent ++ [i] }.eqShow

/-- EQ_SEND (R568): entries from HL_EQ_RD up to HL_EQ_WR − 1, in ring order. -/
def execEqSend (s : State) : Host.Outcome State Fault Refusal :=
  s.onChip fun c =>
    if c.bit 0x40040C04 0 then
      let n := (c.fld 0x40040C08 0 8 + 256 - Machine.fld (c.reg 0x40040C0C) 0 8) % 256
      (List.range n).foldl (fun c _ => c.eqOne) c
    else c

/-- An entry leaves state SENT. -/
def Chip.eqEnd (c : Chip) (i state : Nat) : Chip :=
  { (c.memWrite (c.eqAt i + 1) (leBytes 1 state)).2 with hl.eqSent := c.hl.eqSent.erase i }.eqShow

/-- EQ_ENTRY_TIMEOUT (R568): the entry sent longest ago has had no response for 1 ms. -/
def execEqEntryTimeout (s : State) : Host.Outcome State Fault Refusal :=
  s.onChip fun c => match c.hl.eqSent with
    | i :: _ => c.eqEnd i 4
    | [] => c

/-- ENUM_RESP (R542, R568): the response completes the SENT entry of its tag. -/
def execEnumResp (s : State) : Host.Outcome State Fault Refusal :=
  s.onChip fun c => match c.takeDelivered [7] with
    | none => c
    | some (d, c) =>
      let i := d.pkt.tag - 0xFF00
      if d.pkt.tooOld ∨ d.pkt.tag < 0xFF00 ∨ c.hl.eqSent.contains i = false then c.ageDrop
      else
        let c := (c.memWrite (c.eqAt i + 8) (leBytes 1 d.pkt.addr)).2
        let c := (c.memWrite (c.eqAt i + 0x50) (d.pkt.pay.take 8 ++ slice d.pkt.pay 32 4)).2
        c.eqEnd i 3

/-! ### Pack-time alignment -/

/-- TSYNC_SEND (R553): a TSYNC leaves for the time parent. -/
def execTsyncSend (s : State) : Host.Outcome State Fault Refusal :=
  s.onChip fun c =>
    let c := c.timeShow
    match c.timePort with
    | none => c
    | some p =>
      c.enqueue p ⟨Pkt.make 8 0 0 0x3FF 0 0x3FF 0 0 32 (List.replicate 32 0), 0, c.real, 0, false, none⟩

/-- The per-hop bound of R555 on 2·|θ| in ns, by generation. -/
def syncBound (gen : Nat) : Nat := match gen with | 3 => 3 | 2 => 6 | _ => 12

/-- The correction of R554 for θ = z ÷ 2 ns: a step above 10 µs, and otherwise a rate within ±200 ppm, which one being open (DESIGN CHOICE, log
entry 4). -/
def Chip.syncCorrect (c : Chip) (z : Int) : Chip :=
  if 20000 < z.natAbs then
    let t : Int := (c.clocks.packNs * 2 ^ 32 + c.clocks.packFrac : Nat) + z * 2 ^ 31
    let t := (t % 2 ^ 96).toNat
    { c with clocks.packNs := t / 2 ^ 32, clocks.packFrac := t % 2 ^ 32 }
  else
    let (w, c) := c.drawWord
    c.setFld 0x4008000C 0 24 (tc 24 ((w % 400001 : Nat) - 200000))

/-- The child's side of an exchange (R554): HL_TIME and the counter. -/
def Chip.syncChild (c : Chip) (p : Nat) (t1 t2 t3 t4 : Nat) : Chip :=
  let z := sext 64 (tc 64 ((t2 : Int) - t1 - ((t4 : Int) - t3)))
  let inside := decide (z.natAbs ≤ syncBound (Machine.fld (c.reg (hlStat p)) 3 2))
  let good := if inside then c.hl.good + 1 else 0
  let bad := if inside then 0 else c.hl.bad + 1
  let c := { c with hl.good := good, hl.bad := bad, hl.t1 := none }.setFld 0x40040014 16 16 (sat 16 (z.natAbs / 2))
  let c := if 16 ≤ good then c.setBit 0x40040014 0 true else if 4 ≤ bad then c.setBit 0x40040014 0 false else c
  c.syncCorrect z

/-- TSYNC (R553, R554): the parent answers with t2 and, as the port sends, t3; the child takes the answer. The payload's layout is the
model's (DESIGN CHOICE, log entry 18): t2 in bytes 0 to 7 and t3 in bytes 8 to 15. -/
def execTsync (s : State) : Host.Outcome State Fault Refusal :=
  s.onChip fun c => match c.takeDelivered [8] with
    | none => c
    | some (d, c) =>
      let c := c.timeShow
      if c.timePort = some d.port then
        match c.hl.t1 with
        | some t1 => c.syncChild d.port t1 (leAt d.pkt.pay 0 8) (leAt d.pkt.pay 8 8) d.stamp
        | none => c
      else if c.timeUsable d.port then
        c.enqueue d.port ⟨Pkt.make 8 0 0 0x3FF 0 0x3FF 0 0 32 (padTo 32 (leBytes 8 d.stamp)), 0, c.real, 0, false, none⟩
      else c

/-- DEDUP_EXPIRY (R544, R546): 8 ms have passed since the oldest entry was made. -/
def execDedupExpiry (s : State) : Host.Outcome State Fault Refusal :=
  s.onChip fun c => { c with hl.dedup := c.hl.dedup.drop 1 }.setFld 0x40040018 0 13 (c.hl.dedup.length - 1)

end Sys2Proof.Machine
end

