-- ==== Sys2Proof/Machine/Vehicle.lean ====
section
/-! DEFINITION. CAN, 10BASE-T1S, Ethernet, pack time, TDM and I3C, and the rings their traffic moves through
(16_vehicle_interfaces.md). What a bus brings, and how a transmission ends on it, comes with the command (DESIGN CHOICE, log entry 2). -/
namespace Sys2Proof.Machine

/-! ### Interface rings -/

/-- The slot of index `i` of the ring at `r`. -/
def Chip.slotAt (c : Chip) (r i : Nat) : Nat := (c.act r).toNat + i * (16 * c.fld (r + 4) 8 8)

/-- The bytes of a slot. -/
def Chip.slotSize (c : Chip) (r : Nat) : Nat := 16 * c.fld (r + 4) 8 8

/-- An index advanced. -/
def Chip.ringNext (c : Chip) (r i : Nat) : Nat := (i + 1) % 2 ^ c.fld (r + 4) 1 4

/-- A store to an interface ring's register: EN = 1 clears WR, RD and DROP, and is refused past the end of shared SRAM (R594). -/
def Chip.vringStore (c : Chip) (port r o : Nat) (v : Word) : Chip :=
  let d := c.storeReg port (r + o) v
  if o = 4 ∧ d.bit (r + 4) 0 = true ∧ c.bit (r + 4) 0 = false then
    if 0x800000 < d.slotAt r (2 ^ d.fld (r + 4) 1 4) then (d.setBit (r + 4) 0 false).misuse r
    else ((d.setReg (r + 8) 0).setReg (r + 12) 0).setFld (r + 4) 16 16 0
  else d

/-- The entry a transmit ring holds at RD. -/
def Chip.txSlot (c : Chip) (r : Nat) : Option Nat :=
  let rd := (c.reg (r + 12)).toNat
  if c.bit (r + 4) 0 && decide (rd ≠ (c.act (r + 8)).toNat) then some (c.slotAt r rd) else none

/-- RD of a transmit ring moved past its entry (R595). -/
def Chip.txDone (c : Chip) (r : Nat) : Chip :=
  c.setReg (r + 12) (BitVec.ofNat 32 (c.ringNext r (c.reg (r + 12)).toNat))

/-- DMA_FAULT of the block whose status register is at `b` (R597). -/
def Chip.dmaFault (c : Chip) (b : Nat) : Chip := c.setBit b 5 true

/-- A DMA read of `n` bytes (R597): none when it is not performed. -/
def Chip.dmaRead (c : Chip) (a n : Nat) : Option (List Byte) × Chip :=
  match c.read 48 (c.portCls 48) a n with
  | (.ok d, c) => (some d, c)
  | (_, c) => (none, c)

/-- A received entry put into a ring (R596, R597): dropped when the ring is full or disabled or its slots are too short. WR stays when
the write is not performed (DEDUCED, log entry 16). -/
def Chip.rxPut (c : Chip) (b r : Nat) (entry : List Byte) : Chip :=
  let wr := (c.reg (r + 8)).toNat
  if !c.bit (r + 4) 0 || decide (c.ringNext r wr = (c.act (r + 12)).toNat) || decide (c.slotSize r < entry.length) then
    c.incFld (r + 4) 16 16 1
  else match c.write 48 (c.portCls 48) (c.slotAt r wr) entry with
    | (.ok _, c) => c.setReg (r + 8) (BitVec.ofNat 32 (c.ringNext r wr))
    | (_, c) => c.dmaFault b

/-- Pack time in ns, low 32 bits, as a stamp. -/
def Chip.stamp (c : Chip) (latency : Nat) : Nat := (c.clocks.packNs + latency) % 2 ^ 32

/-! ### CAN -/

/-- The registers of controller `n`. -/
def canReg (n o : Nat) : Nat := 0x40050000 + 0x1000 * n + o
/-- MODE of controller `n`. -/
def Chip.canMode (c : Chip) (n : Nat) : Nat := c.fld (canReg n 4) 0 3
/-- Controller `n` is bus-off. -/
def Chip.canOff (c : Chip) (n : Nat) : Bool := Machine.bit (c.reg (canReg n 0)) 1
/-- CAN XL is enabled (Table 16-2). -/
def Chip.canXl (c : Chip) (n : Nat) : Bool := decide (n = 0) && c.bit (canReg n 4) 5

/-- A bit timing gives 80 MHz ÷ quanta per bit within [lo, hi] quanta, with SJW at most TSEG2 (R600, R601). -/
def Chip.timingOk (c : Chip) (a lo hi : Nat) : Bool :=
  let q := (c.fld a 0 10 + 1) * (c.fld a 10 8 + c.fld a 18 7 + 3)
  decide (lo ≤ q ∧ q ≤ hi ∧ c.fld a 25 7 ≤ c.fld a 18 7)

/-- Every enabled bit timing lies in Table 16-2. -/
def Chip.canTiming (c : Chip) (n : Nat) : Bool :=
  c.timingOk (canReg n 8) 80 640 && c.timingOk (canReg n 12) 10 (2 ^ 20) && (!c.canXl n || c.timingOk (canReg n 16) 4 (2 ^ 20))

/-- A store to CANn_CTL (R601, R605): a MODE that the bit timing forbids is refused; OFF to NORMAL ends bus-off. -/
def Chip.canCtlStore (c : Chip) (port n : Nat) (v : Word) : Chip :=
  let was := c.canMode n
  let d := c.storeReg port (canReg n 4) v
  let d := if d.canMode n ≠ 0 ∧ d.canMode n ≠ was ∧ d.canTiming n = false then (d.setFld (canReg n 4) 0 3 was).misuse (canReg n 4) else d
  let d := if was = 0 ∧ d.canMode n = 1 ∧ d.canOff n = true then
      ((d.setBit (canReg n 0) 1 false).setBit (canReg n 0) 2 false).setFld (canReg n 0x18) 0 16 0
    else d
  d.canShow n

/-- CAN_MODE_WRITE (R601, R605). -/
def execCanModeWrite (port n : Nat) (v : Word) (s : State) : Host.Outcome State Fault Refusal :=
  s.onChip fun c => if 2 ≤ n then c else c.store port (canReg n 4) fun c => c.canCtlStore port n v

/-- The first enabled filter that accepts a frame (R602). -/
def Chip.canFilter (c : Chip) (n fmt id : Nat) : Option Nat :=
  (List.range 32).find? fun f =>
    let x := (c.act (canReg n (0x100 + 8 * f))).toNat
    let m := (c.act (canReg n (0x104 + 8 * f))).toNat
    nbit m 31 && decide (x / 2 ^ 30 = 0 ∨ x / 2 ^ 30 = fmt + 1) && decide ((x ^^^ id) &&& (m % 2 ^ 29) = 0)

/-- The error state as the counters of ISO 11898-1 give it (PRESUMED, log entry 17). -/
def Chip.canCount (c : Chip) (n tec rec_ : Nat) : Chip :=
  ((c.setFld (canReg n 0x18) 0 8 (sat 8 tec)).setFld (canReg n 0x18) 8 8 (sat 8 rec_)).setBit (canReg n 0) 2
    (decide (128 ≤ tec ∨ 128 ≤ rec_))

/-- A frame without error goes through the filters to a ring (R602); `e` is its entry, FILT and STAMP still open. -/
def Chip.canAccept (c : Chip) (n : Nat) (e : List Byte) : Chip :=
  let put := fun (c : Chip) (filt r : Nat) =>
    c.rxPut (canReg n 0) (canReg n r) (splice (splice e 5 (leBytes 1 filt)) 8 (leBytes 4 (c.stamp 0)))
  match c.canFilter n (leAt e 4 1 % 4) (leAt e 0 4) with
  | some f => put c f (if c.bit (canReg n (0x104 + 8 * f)) 29 then 0x60 else 0x50)
  | none => if c.bit (canReg n 4) 4 then put c 0xFF 0x60 else c.incFld (canReg n 0x18) 16 16 1

/-- CAN_FRAME_RECEIVE (R601, R602): a frame of the bus, as an entry of Table 16-1. XL frames on a controller without XL make it
integrate (Table 16-2). -/
def execCanFrameReceive (n : Nat) (e : List Byte) (s : State) : Host.Outcome State Fault Refusal :=
  s.onChip fun c =>
    let m := c.canMode n
    if 2 ≤ n ∨ c.dom 3 = false ∨ m = 0 ∨ m = 4 ∨ c.canOff n = true ∨ (leAt e 4 1 % 4 = 2 ∧ c.canXl n = false) then c
    else
      let tec := Machine.fld (c.reg (canReg n 0x18)) 0 8
      let errs := Machine.fld (c.reg (canReg n 0x18)) 8 8
      (c.canCount n tec (if 128 ≤ errs then 127 else errs - 1)).canAccept n e

/-- LEN values of CAN FD (Table 16-1). -/
def fdLens : List Nat := [0, 1, 2, 3, 4, 5, 6, 7, 8, 12, 16, 20, 24, 32, 48, 64]

/-- A transmit entry of controller `n` breaks Table 16-1 (R599). -/
def Chip.canBad (c : Chip) (n r : Nat) (h : List Byte) : Bool :=
  let id := leAt h 0 4
  let fmt := leAt h 4 1
  let len := leAt h 6 2
  let f := fmt % 4
  decide (f = 3 ∨ 8 ≤ fmt ∨ leAt h 5 1 ≠ 0 ∨ c.slotSize r < 16 + len) ||
    match f with
    | 0 => decide (8 < len ∨ 2 ^ 31 ≤ id ∨ 4 ≤ fmt ∨ leAt h 12 4 ≠ 0)
    | 1 => !fdLens.contains len || decide (2 ^ 30 ≤ id ∨ leAt h 12 4 ≠ 0)
    | _ => !c.canXl n || decide (len = 0 ∨ 2048 < len ∨ 2 ^ 29 ≤ id ∨ id / 256 % 2 = 1)

/-- What the bus took, recorded for controller or MAC `k`. -/
def Chip.onBus (c : Chip) (k : Nat) (e : List Byte) : Chip := { c with vif.sent := upd c.vif.sent k fun _ => e }

/-- How an offered CAN frame ended: sent (on the bus, but inside the device in LOOPBACK), lost to arbitration, or destroyed by an error. -/
def Chip.canOffer (c : Chip) (n : Nat) (outcome : CanEnd) (e : List Byte) (won : Chip → Chip) : Chip :=
  let tec := Machine.fld (c.reg (canReg n 0x18)) 0 8
  let errs := Machine.fld (c.reg (canReg n 0x18)) 8 8
  match outcome with
  | .sent => won ((if c.canMode n = 4 then c else c.onBus n e).canCount n (tec - 1) errs)
  | .lost => c
  | .error => c.canCount n (tec + 8) errs

/-- The safety frame of controller `n` as an entry. -/
def Chip.safeEntry (c : Chip) (n : Nat) : List Byte :=
  let b := (List.range 20).flatMap fun i => leBytes 4 (c.reg (canReg n (0x200 + 4 * i))).toNat
  b.take (16 + min 64 (leAt b 6 2))

/-- The safety frame has been sent: SENT sets, GO reads 0, and a newer message that fell due follows (R604, R703). -/
def Chip.safeSent (c : Chip) (n : Nat) : Chip :=
  let due := (nth c.can n default).safeDue
  let c := { c with can := upd c.can n fun k => { k with safeGo := false } }.setBit (canReg n 0x250) 1 true
  if due then c.safeWrite n else c.canShow n

/-- CAN_FRAME_TRANSMIT (R597, R599, R602 to R604): the frame that controller `n` offers next, and how the offer ended. -/
def execCanFrameTransmit (n : Nat) (outcome : CanEnd) (s : State) : Host.Outcome State Fault Refusal :=
  s.onChip fun c =>
    let m := c.canMode n
    if 2 ≤ n ∨ c.dom 3 = false ∨ (m ≠ 1 ∧ m ≠ 4) ∨ c.canOff n = true then c
    else if m = 1 ∧ (nth c.can n default).safeGo = true then c.canOffer n outcome (c.safeEntry n) fun c => c.safeSent n
    else
      let r := canReg n 0x40
      match c.txSlot r with
      | none => c
      | some a =>
        match c.dmaRead a 16 with
        | (none, c) => (c.dmaFault (canReg n 0)).txDone r
        | (some h, c) =>
          if c.canBad n r h then (c.setBit (canReg n 0) 4 true).txDone r
          else
            let (d, c) := if leAt h 6 2 = 0 then (some [], c) else c.dmaRead (a + 16) (leAt h 6 2)
            match d with
            | none => (c.dmaFault (canReg n 0)).txDone r
            | some d =>
              c.canOffer n outcome (h ++ d) fun c =>
                (if m = 4 then c.canAccept n (h ++ d) else c).txDone r

/-- A store to CANn_SAFE_CTL: Belfry's GO queues the safety frame (R604). -/
def Chip.safeCtlStore (c : Chip) (port n : Nat) (v : Word) : Chip :=
  if port ≠ 40 then (if v &&& 3 ≠ 0 then c.misuse (canReg n 0) else c)
  else
    let c := c.storeReg port (canReg n 0x250) v
    if Machine.bit v 0 then { c with can := upd c.can n fun k => { k with safeGo := true } }.canShow n else c

/-- CAN_SAFE_GO (R604): a store to CANn_SAFE_CTL. -/
def execCanSafeGo (port n : Nat) (v : Word) (s : State) : Host.Outcome State Fault Refusal :=
  s.onChip fun c => if 2 ≤ n then c else c.store port (canReg n 0x250) fun c => c.safeCtlStore port n v

/-- CAN_BUS_OFF (R605). -/
def execCanBusOff (n : Nat) (s : State) : Host.Outcome State Fault Refusal :=
  s.onChip fun c => if 2 ≤ n ∨ c.canMode n = 0 ∨ c.dom 3 = false then c else (c.setBit (canReg n 0) 1 true).canShow n

/-- CAN_BUS_OFF_RECOVERY (R605): the recovery sequence that AUTO_REC started has completed. -/
def execCanBusOffRecovery (n : Nat) (s : State) : Host.Outcome State Fault Refusal :=
  s.onChip fun c =>
    if 2 ≤ n ∨ c.canOff n = false ∨ c.bit (canReg n 4) 3 = false ∨ c.canMode n = 0 then c
    else ((((c.setBit (canReg n 0) 1 false).setBit (canReg n 0) 2 false).setFld (canReg n 0x18) 0 16 0).canShow n)

/-! ### T1S and Ethernet -/

/-- The 48-bit address in a pair of registers, in the order its bytes leave: bits [7:0] of the low register first. -/
def Chip.macAt (c : Chip) (lo hi : Nat) : List Byte := leBytes 4 (c.act lo).toNat ++ leBytes 2 (c.act hi).toNat

/-- The filter that accepts a destination address (R608). -/
def Chip.macFilter (c : Chip) (b : Nat) (dst : List Byte) : Option Nat :=
  (List.range 4).find? fun k => c.bit (b + 0x24 + 8 * k) 31 && decide (c.macAt (b + 0x20 + 8 * k) (b + 0x24 + 8 * k) = dst)

/-- A received frame without its FCS at the MAC of block `b` (R608): counted in ERR, discarded, or put into RX1 or RX0. -/
def Chip.macReceive (c : Chip) (b : Nat) (f : List Byte) (fcsOk : Bool) : Chip :=
  if !c.dom 3 || !c.bit (b + 4) 0 then c
  else if !fcsOk || decide (f.length < 60 ∨ 1518 < f.length) then c.incFld (b + 0x18) 0 16 1
  else
    let dst := f.take 6
    let filt := c.macFilter b dst
    if decide (dst = c.macAt (b + 12) (b + 16)) || decide (dst = List.replicate 6 0xFF) || filt.isSome || c.bit (b + 4) 2 then
      let e := leBytes 4 0 ++ leBytes 1 0 ++ leBytes 1 (filt.getD 0xFF) ++ leBytes 2 f.length ++
        leBytes 4 (c.stamp (c.fld (b + 0x14) 0 16)) ++ leBytes 4 0 ++ f
      c.rxPut b (if slice f 12 2 = [0x88, 0xF7] then b + 0x60 else b + 0x50) e
    else c

/-- ETH_FRAME_RECEIVE (R608). -/
def execEthFrameReceive (f : List Byte) (fcsOk : Bool) (s : State) : Host.Outcome State Fault Refusal :=
  s.onChip fun c => c.macReceive 0x40053000 f fcsOk

/-- T1S_FRAME_RECEIVE (R608). -/
def execT1sFrameReceive (f : List Byte) (fcsOk : Bool) (s : State) : Host.Outcome State Fault Refusal :=
  s.onChip fun c => c.macReceive 0x40052000 f fcsOk

/-- The frame at RD of ring `r` sent by the MAC of block `b` (R595, R597, R599, R609): padded, with its FCS, and its transmit stamp
written into the entry when TS_REQ is set. -/
def Chip.macSend (c : Chip) (b k r a : Nat) : Chip :=
  match c.dmaRead a 16 with
  | (none, c) => (c.dmaFault b).txDone r
  | (some h, c) =>
    let len := leAt h 6 2
    if leAt h 0 4 ≥ 2 ∨ leAt h 4 2 ≠ 0 ∨ leAt h 12 4 ≠ 0 ∨ len < 14 ∨ 1518 < len ∨ c.slotSize r < 16 + len then
      (c.setBit b 4 true).txDone r
    else match c.dmaRead (a + 16) len with
      | (none, c) => (c.dmaFault b).txDone r
      | (some d, c) =>
        let f := padTo (max 60 len) d
        let c := c.onBus k (f ++ leBytes 4 (crc32 f))
        if leAt h 0 4 = 1 then
          match c.write 48 (c.portCls 48) (a + 8) (leBytes 4 (c.stamp (c.fld (b + 0x14) 16 16))) with
          | (.ok _, c) => c.txDone r
          | (_, c) => (c.dmaFault b).txDone r
        else c.txDone r

/-- ETH_FRAME_TRANSMIT (R609, R610): TX1 before TX0. -/
def execEthFrameTransmit (s : State) : Host.Outcome State Fault Refusal :=
  s.onChip fun c =>
    if !c.dom 3 || !c.bit 0x40053004 0 then c
    else match c.txSlot 0x40053070 with
      | some a => c.macSend 0x40053000 3 0x40053070 a
      | none => match c.txSlot 0x40053040 with
        | some a => c.macSend 0x40053000 3 0x40053040 a
        | none => c

/-- T1S_FRAME_TRANSMIT (R606, R609, R610): `collided` says that the attempt met a collision, which is counted and the frame kept. -/
def execT1sFrameTransmit (collided : Bool) (s : State) : Host.Outcome State Fault Refusal :=
  s.onChip fun c =>
    if !c.dom 3 || !c.bit 0x40052004 0 then c
    else match c.txSlot 0x40052040 with
      | some a => if collided then c.incFld 0x40052018 16 16 1 else c.macSend 0x40052000 2 0x40052040 a
      | none => c

/-- A store to a MAC's CTL; PLCA_ACTIVE reads 1 while PLCA runs (R606; PRESUMED, log entry 17). -/
def Chip.macCtlStore (c : Chip) (port b : Nat) (v : Word) : Chip :=
  let d := c.storeReg port (b + 4) v
  if b = 0x40052000 then d.setBit b 1 (d.bit (b + 4) 0 && d.bit (b + 4) 1) else d

/-- A store to ETH_MDIO (R607): a PHY access starts; one in progress is not disturbed (PRESUMED, log entry 17). -/
def Chip.mdioStore (c : Chip) (port : Nat) (v : Word) : Chip :=
  let c := c.storeReg port 0x40053080 v
  if c.vif.mdio.isSome then c.misuse 0x40053080 else { c with vif.mdio := some v }.setBit 0x40053084 0 true

/-- ETH_MDIO (R607). -/
def execEthMdio (port : Nat) (v : Word) (s : State) : Host.Outcome State Fault Refusal :=
  s.onChip fun c => c.store port 0x40053080 fun c => c.mdioStore port v

/-- ETH_MDIO_DONE (R607): the frame ends; `data` is what the PHY drove in a read. -/
def execEthMdioDone (data : Nat) (s : State) : Host.Outcome State Fault Refusal :=
  s.onChip fun c => match c.vif.mdio with
    | none => c
    | some v =>
      let c := { c with vif.mdio := none }.setBit 0x40053084 0 false
      if Machine.bit v 11 then c.setFld 0x40053084 16 16 data else c

/-- SGMII_LINK_STATUS (R607): the PHY's in-band control word; `speed` 0 is 10, 1 is 100 and 2 is 1000 Mb/s. -/
def execSgmiiLinkStatus (up : Bool) (speed : Nat) (s : State) : Host.Outcome State Fault Refusal :=
  s.onChip fun c => if c.dom 3 = false ∨ 3 ≤ speed then c else (c.setBit 0x40053000 1 up).setFld 0x40053000 2 2 speed

/-! ### Pack time -/

/-- A store to PTM_CTL: STEP adds the signed step, unless the Henlink time unit owns the counter (R614). -/
def Chip.ptmCtlStore (c : Chip) (port : Nat) (v : Word) : Chip :=
  let d := c.storeReg port 0x40080018 v
  if Machine.bit v 0 ∧ ¬ Machine.bit (c.reg 0x4008001C) 3 then
    let step := (c.act 0x40080010).toNat + 2 ^ 32 * (c.act 0x40080014).toNat
    { d with clocks.packNs := (c.clocks.packNs + step) % 2 ^ 64 }.setBit 0x4008001C 1 true
  else d

/-- PTM_STEP (R614): PTM_CTL.STEP is written. -/
def execPtmStep (port : Nat) (v : Word) (s : State) : Host.Outcome State Fault Refusal :=
  s.onChip fun c => c.store port 0x40080018 fun c => c.ptmCtlStore port v

/-- What a read of PTM_NS_LO returns and latches (R615). -/
def Chip.ptmLoad (c : Chip) : Nat × Chip :=
  let t := c.clocks.packNs
  (t % 2 ^ 32, (c.setReg 0x40080000 (BitVec.ofNat 32 t)).setReg 0x40080004 (BitVec.ofNat 32 (t / 2 ^ 32)))

/-- PTM_NS_LO_READ (R615). -/
def execPtmNsLoRead (port : Nat) (s : State) : Host.Outcome State Fault Refusal :=
  s.onChip fun c => c.load port 0x40080000 fun c => let (x, c) := c.ptmLoad; c.respond (leBytes 4 x)

/-! ### TDM -/

/-- The registers of TDM port `t`. -/
def tdmReg (t o : Nat) : Nat := 0x40054000 + 0x800 * t + o

/-- The slots that a mask enables, ascending. -/
def Chip.tdmSlots (c : Chip) (t lo : Nat) : List Nat :=
  (List.range (c.fld (tdmReg t 0) 3 4 + 1)).filter fun i => c.bit (tdmReg t 4) (lo + i)

/-- A 16-bit slot keeps bits [31:16] (R622). -/
def Chip.tdmTrim (c : Chip) (t : Nat) (d : List Byte) : List Byte :=
  if c.bit (tdmReg t 0) 7 then d.zipIdx.map fun x => if x.2 % 4 < 2 then 0 else x.1 else d

/-- The entry for the next frame fetched (R623): zeros, counted in UNDERRUN, when the ring is empty. -/
def Chip.tdmFetch (c : Chip) (t : Nat) : List Byte × Chip :=
  let n := 4 * (c.tdmSlots t 0).length
  let zero := List.replicate n (0 : Byte)
  let r := tdmReg t 0x40
  match c.txSlot r with
  | none => (zero, c.incFld (tdmReg t 8) 16 16 1)
  | some a =>
    if n = 0 then ([], c.txDone r)
    else match c.dmaRead a n with
      | (some d, c) => (c.tdmTrim t d, c.txDone r)
      | (none, c) => (zero, (c.dmaFault (tdmReg t 8)).txDone r)

/-- TDM_FSYNC (R623 to R625): the frame is counted and stamped, DOUT takes the entry fetched before, and the next is fetched. -/
def execTdmFsync (t : Nat) (s : State) : Host.Outcome State Fault Refusal :=
  s.onChip fun c =>
    if 2 ≤ t ∨ c.dom 3 = false ∨ c.bit (tdmReg t 0) 0 = false then c
    else
      let now := (nth c.vif.tdm t default).next
      let c := c.setReg (tdmReg t 12) (c.reg (tdmReg t 12) + 1)
      let at' := c.stamp 0
      let (next, c) := c.tdmFetch t
      { c with vif.tdm := upd c.vif.tdm t fun _ => ⟨next, at', some now⟩ }

/-- TDM_FRAME_RECEIVED (R622, R623): the values of the frame's slots, slot 0 first. -/
def execTdmFrameReceived (t : Nat) (slots : List Nat) (s : State) : Host.Outcome State Fault Refusal :=
  s.onChip fun c =>
    if 2 ≤ t ∨ c.dom 3 = false ∨ c.bit (tdmReg t 0) 0 = false ∨ (nth c.vif.tdm t default).dout = none then c
    else
      let wide := if c.bit (tdmReg t 0) 7 then 65536 else 1
      c.rxPut (tdmReg t 8) (tdmReg t 0x50) ((c.tdmSlots t 16).flatMap fun i => leBytes 4 (nth slots i 0 * wide))

/-- What a read of TDMn_FCNT returns and latches (R624). -/
def Chip.fcntLoad (c : Chip) (t : Nat) : Nat × Chip :=
  ((c.reg (tdmReg t 12)).toNat, c.setReg (tdmReg t 16) (BitVec.ofNat 32 (nth c.vif.tdm t default).stamp))

/-- TDM_FCNT_READ (R624). -/
def execTdmFcntRead (port t : Nat) (s : State) : Host.Outcome State Fault Refusal :=
  s.onChip fun c => if 2 ≤ t then c else c.load port (tdmReg t 12) fun c => let (x, c) := c.fcntLoad t; c.respond (leBytes 4 x)

/-- CLK_LOST (R625): a slave port has had no FSYNC for 4 frame periods. -/
def execClkLost (t : Nat) (s : State) : Host.Outcome State Fault Refusal :=
  s.onChip fun c =>
    if 2 ≤ t ∨ c.dom 3 = false ∨ c.bit (tdmReg t 0) 0 = false ∨ c.bit (tdmReg t 0) 1 = true then c
    else { c with vif.tdm := upd c.vif.tdm t fun x => { x with dout := none } }.setBit (tdmReg t 8) 1 true

/-! ### I3C -/

/-- A store to I3C_CMD (R627): ignored with MISUSE while BUSY = 1; a disabled controller starts nothing (PRESUMED, log entry 17). -/
def Chip.i3cStore (c : Chip) (port : Nat) (v : Word) : Chip :=
  if Machine.bit (c.reg 0x40056008) 0 then c.misuse 0x40056004
  else
    let c := c.storeReg port 0x40056004 v
    if c.bit 0x40056000 0 then
      let out := ((List.range 8).flatMap fun i => leBytes 4 (c.act (0x40056020 + 4 * i)).toNat).take (Machine.fld v 8 5 + 1)
      { c with vif.i3c := some v, vif.i3cOut := if Machine.bit v 7 then [] else out }.setBit 0x40056008 0 true
    else c

/-- I3C_CMD (R627). -/
def execI3cCmd (port : Nat) (v : Word) (s : State) : Host.Outcome State Fault Refusal :=
  s.onChip fun c => c.store port 0x40056004 fun c => c.i3cStore port v

/-- Bytes put into the data window. -/
def Chip.i3cFill (c : Chip) (d : List Byte) : Chip :=
  let old := (List.range 8).flatMap fun i => leBytes 4 (c.act (0x40056020 + 4 * i)).toNat
  let new := splice old 0 d
  (List.range 8).foldl (fun c i => c.setReg (0x40056020 + 4 * i) (BitVec.ofNat 32 (leAt new (4 * i) 4))) c

/-- I3C_CMD_DONE (R627): the command ends with DONE, and with what the target drove in a read, or with NACK. -/
def execI3cCmdDone (ack : Bool) (data : List Byte) (s : State) : Host.Outcome State Fault Refusal :=
  s.onChip fun c => match c.vif.i3c with
    | none => c
    | some v =>
      let c := { c with vif.i3c := none }.setBit 0x40056008 0 false
      if !ack then c.setBit 0x40056008 2 true
      else (if Machine.bit v 7 then c.i3cFill (data.take (Machine.fld v 8 5 + 1)) else c).setBit 0x40056008 1 true

/-- I3C_TIMEOUT (R628). -/
def execI3cTimeout (s : State) : Host.Outcome State Fault Refusal :=
  s.onChip fun c => match c.vif.i3c with
    | none => c
    | some _ => ({ c with vif.i3c := none }.setBit 0x40056008 0 false).setBit 0x40056008 3 true

end Sys2Proof.Machine
end

