-- ==== Sys2Proof/Machine/Bus.lean ====
section
/-! DEFINITION. What a load or a store of any register does, whoever makes it, and accesses on the fabric as a whole (00_scope.md,
"Registers"; 08_memory_and_fabric.md). -/
namespace Sys2Proof.Machine

/-! ### Register stores -/

/-- Stores below 0x4001_0000: power and clocks. -/
def Chip.sysStore (c : Chip) (port a : Nat) (v : Word) : Chip :=
  if a = 0x40000000 then
    let c := c.storeReg port a v
    match Machine.fld v 4 3 with
    | 1 => c.askWatch false
    | 3 => c.askRun
    | _ => c
  else if 0x40000018 ≤ a ∧ a ≤ 0x40000020 then c.pwrEngStore port ((a - 0x40000018) / 4) v
  else if a = 0x40000024 then c.writeGrp port v
  else if a = 0x40000028 then c.pwrLinkStore port v
  else if a = 0x4000002C then (c.storeReg port a v).applySd
  else c.storeReg port a v

/-- Stores at 0x4001_0000: the sense bridge. -/
def Chip.senseStore (c : Chip) (port a : Nat) (v : Word) : Chip :=
  let o := a - 0x40010000
  if o = 4 ∨ o = 8 then (c.storeReg port a v).balLive
  else if o = 0x18 then c.tdacStore port v
  else if 0x40 ≤ o ∧ o < 0x90 then c.dutyStore port ((o - 0x40) / 4 + 1) v
  else if o = 0x104 then c.calStore v
  else if 0x1000 ≤ o ∧ o < 0x3000 then
    let n := (o - 0x1000) / 0x1000
    let i := o % 0x1000
    if i = 0 then c.seqCtlStore port n v
    else if i = 0x20 then c.swtrigStore port n v
    else if 0x400 ≤ i then
      let bank := (i - 0x400) / 0x400
      let k := (i - 0x400) % 0x400 / 8
      if i % 8 = 0 then c.beadLowStore port n bank k v else c.beadHighStore port n bank k v
    else c.storeReg port a v
  else if 0x3000 ≤ o ∧ o < 0x3F00 then
    let p := (o - 0x3000) / 0x200
    if o % 0x200 = 0 then c.fltStore port p v else (c.storeReg port a v).fltShow p
  else if 0x4000 ≤ o ∧ o < 0x4200 ∧ o % 0x20 < 0x10 then c.winStore port ((o - 0x4000) / 0x20) (o % 0x20) v
  else if 0x4800 ≤ o ∧ o < 0x4900 ∧ o % 0x10 = 4 then c.ringStore port ((o - 0x4800) / 0x10) v
  else c.storeReg port a v

/-- Stores at 0x4002_0000 to 0x4004_FFFF: fabric, engines and Henlink. -/
def Chip.coreStore (c : Chip) (port cls a : Nat) (v : Word) : Chip :=
  let o := a % 0x10000
  match a / 0x10000 with
  | 0x4002 =>
    if 0x900 ≤ o ∧ o < 0xB00 ∧ o % 0x20 < 0x14 then c.partStore port ((o - 0x900) / 0x20) (o % 0x20 / 4) v else c.storeReg port a v
  | 0x4003 =>
    if 0x100 ≤ o ∧ o < 0x190 then c.ring port cls ((o - 0x100) / 4) v.toNat
    else if o = 0x300 then c.flushStore port v
    else c.storeReg port a v
  | _ =>
    if 0x100 ≤ o ∧ o < 0x200 ∧ o % 0x40 = 0 then c.hlCtlStore port ((o - 0x100) / 0x40) v
    else if o = 0x10 then (c.storeReg port a v).timeShow
    else if 0x400 ≤ o ∧ o < 0xC00 ∧ o % 0x200 = 8 then c.mailStore port cls ((o - 0x400) / 0x200) v
    else if o = 0xC04 then c.eqCtlStore port v
    else c.storeReg port a v

/-- Stores at 0x4005_0000 (but XSPI_CMD) and 0x4008_0000: the vehicle interfaces and pack time. -/
def Chip.vifStore (c : Chip) (port a : Nat) (v : Word) : Chip :=
  match vringAt a with
  | some r => c.vringStore port r (a - r) v
  | none =>
    if a = 0x40050004 ∨ a = 0x40051004 then c.canCtlStore port ((a - 0x40050000) / 0x1000) v
    else if a = 0x40050250 ∨ a = 0x40051250 then c.safeCtlStore port ((a - 0x40050000) / 0x1000) v
    else if a = 0x40052004 ∨ a = 0x40053004 then c.macCtlStore port (a - 4) v
    else if a = 0x40053080 then c.mdioStore port v
    else if a = 0x40056004 then c.i3cStore port v
    else if a = 0x40080018 then c.ptmCtlStore port v
    else c.storeReg port a v

/-- Stores at 0x4006_0000 (but SEC_REVOKE) and 0x4009_0000: security, log and dumps; `o` is the OTP. -/
def Chip.secStore (c : Chip) (o : OtpView) (port a : Nat) (v : Word) : Chip :=
  if a = 0x400600B8 then
    let c := c.storeReg port a v
    let c := if Machine.bit v 0 then c.otpStore o port (c.act 0x400600B0).toNat (c.act 0x400600B4).toNat else c
    if Machine.bit v 1 then c.otpStore o port 0xC0 1 else c
  else if a = 0x40060140 then c.kclrStore v
  else if 0x40060200 ≤ a ∧ a < 0x40060300 ∧ a % 0x40 = 0x28 then
    let p := (a - 0x40060200) / 0x40
    match v.toNat with
    | 1 => c.keyStart p
    | 2 => c.keyInstall p |>.timeShow
    | _ => c.storeReg port a v
  else if a = 0x40090004 then
    let c := c.storeReg port a v
    if Machine.bit v 0 then c.captureStore else c
  else if a = 0x40090020 then c.logStore port v
  else if a = 0x40090040 then
    let c := c.storeReg port a v
    if Machine.fld v 0 3 ≤ 4 then c.dumpReqStore (Machine.fld v 0 3) else c
  else if a = 0x40090044 then c.reqAckStore v
  else c.storeReg port a v

/-- A 32-bit store that the fabric has let through, to any register (R4, R6). -/
def State.storeAny (s : State) (port cls a : Nat) (v : Word) : State :=
  let on := fun (c : Chip) => { s with chip := c }
  let c := s.chip
  match a / 0x10000 with
  | 0x4000 => on (c.sysStore port a v)
  | 0x4001 => on (c.senseStore port a v)
  | 0x4002 => on (c.coreStore port cls a v)
  | 0x4003 => on (c.coreStore port cls a v)
  | 0x4004 => on (c.coreStore port cls a v)
  | 0x4005 =>
    if a = 0x40055014 then
      let s := on (c.storeReg port a v)
      if 1 ≤ Machine.fld v 0 3 ∧ Machine.fld v 0 3 ≤ 4 then s.xspiStore (Machine.fld v 0 3) else s
    else on (c.vifStore port a v)
  | 0x4008 => on (c.vifStore port a v)
  | 0x4006 => if a = 0x400600A8 then s.revokeStore port v else on (c.secStore s.otp port a v)
  | 0x4009 => on (c.secStore s.otp port a v)
  | _ => on (c.storeReg port a v)

/-! ### Register loads -/

/-- A 32-bit load that the fabric has let through: its value and what the load does (R80, R234, R615, R624, and the cards of
ENG_FRAME, PTM_US, SEC_OTP_DATA and SEC_RNG). The levels at the GPIO pins are open (DESIGN CHOICE, log entry 4). -/
def Chip.loadAny (c : Chip) (a : Nat) : Nat × Chip :=
  if a = 0x40000040 then
    ((c.power.qsup % 2 ^ 32, (c.setReg a (BitVec.ofNat 32 c.power.qsup)).setReg 0x40000044 (BitVec.ofNat 32 (c.power.qsup / 2 ^ 32))))
  else if a = 0x40011030 ∨ a = 0x40012030 then c.evtLoad ((a - 0x40011030) / 0x1000)
  else if a = 0x40030014 then (c.frameOff + 65536 * (c.clocks.packNs / 10000000 % 65536), c)
  else if a = 0x40080000 then c.ptmLoad
  else if a = 0x40080008 then (c.packUs, c)
  else if a = 0x4005400C ∨ a = 0x4005480C then c.fcntLoad ((a - 0x4005400C) / 0x800)
  else if a = 0x400600B4 then
    let off := (c.act 0x400600B0).toNat
    (if 0x10 ≤ off ∧ off < 0x50 then 0 else (c.reg a).toNat, c)
  else if a = 0x40060150 then let (b, c) := c.drawRng 4; (leNat b, c)
  else if a = 0x40057008 then let (w, c) := c.drawWord; (w % 2 ^ 24, c)
  else ((c.reg a).toNat, c)

/-! ### Accesses of any kind -/

/-- The words of a register access in ascending order (R4, R728). -/
def regWords (a n : Nat) : List Nat := (List.range (n / 4)).map fun i => a + 4 * i

/-- A read of `n` bytes that the fabric has let through: none when it meets an uncorrectable error. -/
def Chip.readOpen (c : Chip) (a n : Nat) : Option (List Byte) × Chip :=
  if isReg a && !isOutBuf a then
    let (d, c) := (regWords a n).foldl (fun (p : List Byte × Chip) w => let (x, c) := p.2.loadAny w; (p.1 ++ leBytes 4 x, c)) ([], c)
    (some d, c)
  else c.memRead a n

/-- Bytes written that the fabric has let through; the Boolean says that every word was written. -/
def State.writeOpen (s : State) (port cls a : Nat) (d : List Byte) : Bool × State :=
  if isReg a && !isOutBuf a then
    (true, (regWords a d.length).foldl (fun s w => s.storeAny port cls w (BitVec.ofNat 32 (leAt d (w - a) 4))) s)
  else
    let (b, c) := s.chip.memWrite a d
    (b, { s with chip := c })

/-- A read by any initiator to any address, checked as R796 states. -/
def State.busRead (s : State) (port cls a n srcId : Nat) : AccRes × State :=
  match s.chip.gate port cls a n false with
  | .open =>
    match s.chip.readOpen a n with
    | (some d, c) => (.ok d, { s with chip := c })
    | (none, c) => (.uncorrectable, { s with chip := c })
  | .refused r l => (.refused l, { s with chip := s.chip.gateFail (.refused r l) port cls a srcId false })
  | g => (.busError, { s with chip := s.chip.gateFail g port cls a srcId false })

/-- A write by any initiator to any address, checked as R796 states. -/
def State.busWrite (s : State) (port cls a : Nat) (d : List Byte) (srcId : Nat) : AccRes × State :=
  match s.chip.gate port cls a d.length true with
  | .open =>
    match s.writeOpen port cls a d with
    | (true, s) => (.ok [], s)
    | (false, s) => (.uncorrectable, s)
  | .refused r l => (.refused l, { s with chip := s.chip.gateFail (.refused r l) port cls a srcId true })
  | g => (.busError, { s with chip := s.chip.gateFail g port cls a srcId true })

/-- REGISTER_WRITE (R4 to R6, R796). -/
def execRegisterWrite (port addr size : Nat) (v : Word) (s : State) : Host.Outcome State Fault Refusal :=
  let cls := s.chip.portCls port
  match s.chip.gate port cls addr size true with
  | .open =>
    if isReg addr ∧ isOutBuf addr = false ∧ size = 4 then .next ({ s with chip.bus := ⟨[], false⟩ }.storeAny port cls addr v)
    else .next s
  | g => s.onChip fun c => (c.gateFail g port cls addr 0 true).busError 0

/-- The class an access carries: that of its descriptor or packet, or its port's (Table 08-3). -/
def Chip.accCls (c : Chip) (x : Access) : Nat := if x.port < 36 ∨ (43 ≤ x.port ∧ x.port ≤ 46) then x.cls else c.portCls x.port

/-- What an atomic operation makes of the old word. -/
def amoApply (op : Amo) (old v : Word) : Word :=
  match op with
  | .swap => v
  | .add => old + v
  | .xor => old ^^^ v
  | .and => old &&& v
  | .or => old ||| v
  | .min => if old.toInt ≤ v.toInt then old else v
  | .max => if old.toInt ≤ v.toInt then v else old
  | .minu => if old.toNat ≤ v.toNat then old else v
  | .maxu => if old.toNat ≤ v.toNat then v else old

/-- An address an atomic operation or an LR/SC pair may name: an aligned word of shared or steward SRAM (R297). -/
def amoAddr (a len : Nat) : Bool :=
  decide (len = 4 ∧ a % 4 = 0) && decide (canon a < 0x800000 ∨ (0x30000000 ≤ a ∧ a < 0x30040000))

/-- An access that has passed the fabric's checks, performed at its target (R297, R299, R300). -/
def State.performAccess (s : State) (x : Access) (cls : Nat) : State :=
  let on := fun (c : Chip) => { s with chip := c }
  let w := canon (x.addr / 8 * 8)
  match x.kind with
  | .read =>
    match s.chip.readOpen x.addr x.len with
    | (some d, c) => on (c.respond d)
    | (none, c) => on (c.busError x.len)
  | .write =>
    match s.writeOpen x.port cls x.addr (padTo x.len x.data) with
    | (true, s) => { s with chip := s.chip.respond [] }
    | (false, s) => { s with chip := s.chip.busError 0 }
  | .amo op =>
    match s.chip.memRead x.addr 4 with
    | (some d, c) =>
      let new := amoApply op (BitVec.ofNat 32 (leNat d)) (BitVec.ofNat 32 (leAt x.data 0 4))
      on ((c.memWrite x.addr (leBytes 4 new.toNat)).2.respond d)
    | (none, c) => on (c.busError 4)
  | .loadReserved =>
    match s.chip.memRead x.addr 4 with
    | (some d, c) => on ({ c with resv := (x.port, w) :: c.resv.filter fun r => decide (r.1 ≠ x.port) }.respond d)
    | (none, c) => on (c.busError 4)
  | .storeConditional =>
    let held := s.chip.resv.contains (x.port, w)
    let c : Chip := { s.chip with resv := s.chip.resv.filter fun r => decide (r.1 ≠ x.port) }
    if held then
      match c.memWrite x.addr (padTo 4 x.data) with
      | (true, c) => on (c.respond (leBytes 4 0))
      | (false, c) => on (c.busError 4)
    else on (c.respond (leBytes 4 1))

/-- The access needs the right to write. -/
def accWrites (x : Access) : Bool := decide (x.kind ≠ .read ∧ x.kind ≠ .loadReserved)

/-- An access waits for its group: it is being filled or in retention (R61, R63, R797). -/
def Chip.mustWait (c : Chip) (a len : Nat) : Bool :=
  decide (canon a < 0x800000) && (linesOf a len).any fun l =>
    let x := nth c.power.grp (grpOf l) .off
    decide (x = .filling ∨ x = .retained)

/-- One access on the fabric: checked, made to wait, or performed. -/
def State.access (s : State) (x : Access) : State :=
  let c := s.chip
  let cls := c.accCls x
  let plain := decide (x.kind = .read ∨ x.kind = .write)
  match c.gate x.port cls x.addr x.len (accWrites x) with
  | .open =>
    if !plain && !(amoAddr x.addr x.len && decide (36 ≤ x.port ∧ x.port < 40)) then { s with chip := c.busError x.len }
    else if c.mustWait x.addr x.len then { s with chip.stalled := c.stalled ++ [x] }
    else s.performAccess x cls
  | g => { s with chip := (c.gateFail g x.port cls x.addr x.srcId (accWrites x)).busError (if x.kind = .write then 0 else x.len) }

/-- FABRIC_ACCESS (R796): an access of one initiator, with the bit errors that have arisen in stored words since (DESIGN CHOICE, log entry 2). -/
def execFabricAccess (x : Access) (s : State) : Host.Outcome State Fault Refusal :=
  if 48 < x.port then .next s else .next ({ s with chip := s.chip.ariseAll x.upsets }.access x)

/-- The accesses that waited for group `g` are served in order (R61, R63); a doorbell waits for its FIFO instead. -/
def State.serveGrp (s : State) (g : Nat) : State :=
  let mine := fun (x : Access) => decide (canon x.addr < 0x800000) && (linesOf x.addr x.len).any fun l => decide (grpOf l = g)
  let ready := s.chip.stalled.filter fun x => mine x && !s.chip.mustWait x.addr x.len
  let s : State := { s with chip.stalled := s.chip.stalled.filter fun x => !(mine x && !s.chip.mustWait x.addr x.len) }
  ready.foldl (fun s x => s.performAccess x (s.chip.accCls x)) s

/-- GROUP_RETENTION_EXIT (R61, R797): the group wakes and serves what waited; a group in RET, or held since the core power-up, then
returns to retention. -/
def execGroupRetentionExit (g : Nat) (s : State) : Host.Outcome State Fault Refusal :=
  let c := s.chip
  let mine := fun (x : Access) => decide (canon x.addr < 0x800000) && (linesOf x.addr x.len).any fun l => decide (grpOf l = g)
  if 8 ≤ g ∨ nth c.power.grp g .off ≠ .retained ∨ c.stalled.any mine = false then .next s
  else
    let back := c.power.grpHold || decide (c.fld 0x40000024 (2 * g) 2 = 2)
    let s := { s with chip := c.setGrp g .awake }.serveGrp g
    .next (if back then { s with chip := s.chip.setGrp g .retained } else s)

/-- GROUP_ZERO_FILL_DONE (R63): a group set to RET enters retention; otherwise what waited proceeds. -/
def execGroupZeroFillDone (g : Nat) (s : State) : Host.Outcome State Fault Refusal :=
  let c := s.chip
  if 8 ≤ g ∨ nth c.power.grp g .off ≠ .filling then .next s
  else if c.fld 0x40000024 (2 * g) 2 = 2 then .next { s with chip := c.setGrp g .retained }
  else .next ({ s with chip := c.setGrp g .awake }.serveGrp g)

end Sys2Proof.Machine
end

