-- ==== Sys2Proof/Machine/Firmware.lean ====
section
/-! DEFINITION. What the image's firmware does with messages, mailboxes and its discovery record (15_manager_operation.md, "Protocol
messages" and "Discovery"). Firmware works on memory directly: the image gives its accesses their places (R465, R571; DESIGN CHOICE, log entry 21). -/
namespace Sys2Proof.Machine

/-- Firmware runs: an image has started it, and its cores are on. -/
def Chip.fwRuns (c : Chip) : Bool :=
  c.fw.conf.isSome && decide (c.boot.rom = .done) && c.dom 2 && decide (c.power.mode = .start ∨ c.power.mode = .run ∨ c.power.mode = .scan)

/-- Firmware acts with its settings; nothing happens while none runs. -/
def Chip.withConf (c : Chip) (f : SysConf → Chip) : Chip :=
  match c.fw.conf with
  | some k => if c.fwRuns then f k else c
  | none => c

/-- Bytes firmware writes. -/
def Chip.fwPut (c : Chip) (a : Nat) (d : List Byte) : Chip := (c.memWrite a d).2

/-- A register firmware writes through core 0's port. -/
def Chip.fwReg (c : Chip) (a v : Nat) : Chip := c.store 36 a fun c => c.storeReg 36 a (BitVec.ofNat 32 v)

/-- A steward's log entry of firmware. -/
def Chip.fwLog (c : Chip) (code arg : Nat) : Chip := c.logStw 36 code (arg % 2 ^ 24)

/-- The device is a manager by its role code (Table 01-1). -/
def Chip.isMgr (c : Chip) : Bool := decide (c.boot.role = 1 ∨ c.boot.role = 2)

/-! ### Mailboxes -/

/-- Mailbox `q` is sending. -/
def Chip.mbBusy (c : Chip) (q : Nat) : Bool := decide (c.fld (mbReg q 12) 0 2 = 1)

/-- A mailbox filled and started (R535). -/
def Chip.fwLoad (c : Chip) (q : Nat) (o : FwOut) : Chip :=
  let n := o.data.length
  let c := c.fwReg (mbReg q 0) (o.kind + 16 * o.vc + 256 * (n - 1) + 65536 * o.dest)
  let c := c.fwReg (mbReg q 4) o.addr
  let c := (List.range ((n + 3) / 4)).foldl (fun c i => c.fwReg (mbReg q (0x100 + 4 * i)) (leAt o.data (4 * i) 4)) c
  let cls := c.portCls 36
  c.store 36 (mbReg q 8) fun c => c.mailStore 36 cls q 1

/-- What waits goes out while a mailbox is free; one transaction to a receiver at a time, and one try to each in `k` packets (R560). A
message stays in the list until it has completed OK. -/
def Chip.fwPump (c : Chip) (tried : List Nat) : Nat → Chip
  | 0 => c
  | k + 1 =>
    let busyTo := ((List.range 4).filter c.mbBusy).map fun q => c.fld (mbReg q 0) 16 10
    match (List.range 4).find? (fun q => !c.mbBusy q), c.fw.out.find? (fun o => !busyTo.contains o.dest && !tried.contains o.dest) with
    | some q, some o =>
      let d : Chip := if o.msg then c else { c with fw.out := c.fw.out.erase o }
      Chip.fwPump (d.fwLoad q o) (if o.msg then o.dest :: tried else tried) k
    | _, _ => c

/-- Packets handed to the mailboxes in order. -/
def Chip.fwSend (c : Chip) (os : List FwOut) : Chip := if c.fwRuns then { c with fw.out := c.fw.out ++ os }.fwPump [] 8 else c

/-- A mailbox's transaction has ended: a message that completed OK leaves the list, and what waits goes on (R560). -/
def Chip.fwSent (c : Chip) (dest : Nat) (pay : List Byte) (ok : Bool) : Chip :=
  if !c.fwRuns then c
  else
    let mine := fun (o : FwOut) => o.msg && decide (o.dest = dest ∧ o.data = pay)
    let c : Chip := if ok then { c with fw.out := c.fw.out.eraseP mine } else c
    c.fwPump (if ok then [] else [dest]) 8

/-! ### Messages -/

/-- Fields of the device table by ID. -/
def Mgr.dev (m : Mgr) (id : Nat) : Option MDev := m.devs.find? fun d => decide (d.id = id)

/-- A device table entry changed. -/
def Chip.onDev (c : Chip) (id : Nat) (f : MDev → MDev) : Chip :=
  { c with mgr.devs := c.mgr.devs.map fun d => if d.id = id then f d else d }

/-- INBOX_BASE of a receiver: from the device table, or as this device's own image has it. -/
def Chip.inboxOf (c : Chip) (k : SysConf) (id : Nat) : Nat :=
  match c.mgr.dev id with
  | some d => d.inbox
  | none => k.inbox

/-- A message (R558, Table 15-1). -/
def Chip.fwTell (c : Chip) (dest type : Nat) (body : List Byte) : Chip :=
  match c.fw.conf, c.hlId with
  | some k, some id =>
    let seq := ((Sparse.find dest c.fw.said).getD 0 + 1) % 2 ^ 32
    let term := if c.isMgr then c.mgr.term else 0
    let msg := leBytes 1 type ++ leBytes 1 1 ++ leBytes 2 id ++ leBytes 4 seq ++ leBytes 4 term ++ leBytes 4 0 ++ padTo 48 body
    { c with fw.said := Sparse.put dest seq c.fw.said }.fwSend [⟨true, 1, 0, dest, c.inboxOf k dest + 64 * id, msg⟩]
  | _, _ => c

/-- The message in the slot of sender `src`, when it is new and of this type, with the slot marked processed (R559); a new one that
breaks R561 is discarded and logged, and one of another type waits for its own row. -/
def Chip.fwHear (c : Chip) (src type : Nat) : Option (List Byte) × Chip :=
  match c.fw.conf with
  | none => (none, c)
  | some k =>
    if !c.fwRuns || decide (1024 ≤ src) then (none, c)
    else
      let b := c.peekN (k.inbox + 64 * src) 64
      let pair := (leAt b 8 4, leAt b 4 4)
      let known := decide (Sparse.find src c.fw.heard = some pair)
      let seen : Chip := { c with fw.heard := Sparse.put src pair c.fw.heard }
      if known then (none, c)
      else if leAt b 0 1 = 0 ∨ 12 < leAt b 0 1 ∨ leAt b 1 1 ≠ 1 ∨ leAt b 2 2 ≠ src then (none, seen.fwLog 0x59 src)
      else if leAt b 0 1 ≠ type then (none, c)
      else (some b, seen)

/-- A row that processes one message; nothing when there is none for it. -/
def State.hear (s : State) (src type : Nat) (f : Chip → List Byte → Chip) : Host.Outcome State Fault Refusal :=
  s.onChip fun c => match c.fwHear src type with
    | (some b, c) => f c b
    | (none, c) => c

/-- An ID field of a message: none for 0xFFFF. -/
def idAt (b : List Byte) (off : Nat) : Option Nat := if leAt b off 2 = 0xFFFF then none else some (leAt b off 2 % 1024)

/-- An ID field's bytes. -/
def idBytes (x : Option Nat) : List Byte := leBytes 2 (x.getD 0xFFFF)

/-! ### Discovery record -/

/-- The code of MGR_STATE. -/
def MgrState.code (m : MgrState) : Nat :=
  match m with
  | .none => 0
  | .candidate => 1
  | .active => 2
  | .standby => 3
  | .excluded => 4

/-- Context slots of this device (R30, R31, R464). -/
def Chip.slotCount (c : Chip) : Nat := if c.isMgr then 2048 else 256

/-- The address of context slot `i` (R464). -/
def ctxAt (k : SysConf) (i : Nat) : Nat := k.ctxBase + 2048 * i

/-- A slot holds a context (R467): its MAGIC and VERSION are right and its reserved bytes are zero. -/
def ctxLive (b : List Byte) : Bool :=
  decide (leAt b 0 4 = 0x58544E43 ∧ leAt b 4 1 = 1 ∧ leAt b 0x3A 6 = 0 ∧ leAt b 0xAC 4 = 0 ∧ leAt b 0xB8 8 = 0 ∧ leAt b 5 1 < 4 ∧
    leAt b 8 2 < 1024 ∧ leAt b 0x38 2 < 1024)

/-- The context in slot `i`. -/
def Chip.ctx (c : Chip) (k : SysConf) (i : Nat) : List Byte := c.peekN (ctxAt k i) 2048

/-- Slots that hold a context. -/
def Chip.hosted (c : Chip) (k : SysConf) : List Nat := (List.range c.slotCount).filter fun i => ctxLive (c.peekN (ctxAt k i) 256)

/-- Context slots that are free. -/
def Chip.freeSlots (c : Chip) (k : SysConf) : Nat := c.slotCount - (c.hosted k).length

/-- The discovery record (Table 15-3). -/
def Chip.discRecord (c : Chip) (k : SysConf) (serial : List Byte) : List Byte :=
  let f := c.fw
  let ok := decide (f.tagStat = 0)
  let b := leBytes 4 0x43534944 ++ leBytes 1 (c.boot.role % 16 + 16 * c.mgr.state.code + 128) ++ leBytes 1 f.tagStat ++
    leBytes 2 (if ok then leAt f.tag 0x1A 2 else 0xFFFF) ++ padTo 8 serial ++
    (if ok then padTo 16 (slice f.tag 8 16) else List.replicate 16 0) ++ leBytes 4 (leAt f.tag 0x1C 4) ++ leBytes 1 (leAt f.tag 6 1) ++
    leBytes 1 c.boot.rollback ++ leBytes 2 (c.freeSlots k) ++ leBytes 4 k.inbox ++ leBytes 4 k.retBase ++ leBytes 4 k.ctxBase ++
    leBytes 4 k.locketIn ++ leBytes 4 c.mgr.term
  b ++ leBytes 4 (crc32 b)

/-- The device serial as the security block shows it. -/
def Chip.ownSerial (c : Chip) : List Byte := c.serial.take 8

/-- The discovery record rewritten whole (R563). -/
def Chip.discShow (c : Chip) : Chip :=
  c.withConf fun k =>
    let b := c.discRecord k c.ownSerial
    (List.range 16).foldl (fun c i => c.fwReg (0x40040040 + 4 * i) (leAt b (4 * i) 4)) c

/-! ### Times -/

/-- The full pack time in µs (R612). -/
def Chip.fullUs (c : Chip) : Nat := c.clocks.packNs / 1000

/-- The epoch of a full pack time in µs (R578). -/
def epochOf (k : SysConf) (us : Nat) : Nat := us / (max 1 k.epochMs * 1000) % 2 ^ 32

/-- REST_UNKNOWN. -/
def Chip.restUnknown (c : Chip) : Bool := Machine.bit (c.reg 0x40000100) 5

/-- A number of seconds in FP32 from a count of 1/32,768 s. -/
def rtcSeconds (n : Nat) : Nat := fp32.enc false n 32768 0

end Sys2Proof.Machine
end

