-- ==== Sys2Proof/Machine/MgrCore.lean ====
section
/-! DEFINITION. What the manager's firmware does when a message of its own has been delivered (15_manager_operation.md, R560, R581, R588). -/
namespace Sys2Proof.Machine

/-- The cell table entry of a cell changed. -/
def Chip.onCell (c : Chip) (ref : Nat) (f : MCell → MCell) : Chip :=
  { c with mgr.cells := c.mgr.cells.map fun x => if x.ref = ref then f x else x }

/-- The COMMIT of the snapshot in replication has completed OK: its epoch is committed (R581). -/
def Chip.commitDone (c : Chip) (epoch : Nat) : Chip :=
  match c.mgr.snap with
  | some n =>
    if n.commitSent = true ∧ n.epoch = epoch then
      { c with mgr.committed := some epoch, mgr.snap := none, mgr.buf := 1 - n.buf, mgr.lost := 0 }
    else c
  | none => c

/-- The RELEASE of an accepted delegation has reached the cell's host: the cell table names the new one (R588 step 6). -/
def Chip.releaseDone (c : Chip) (ref source : Nat) : Chip :=
  match c.mgr.moves.find? fun m => decide (m.ref = ref ∧ m.source = source ∧ m.accepted = true) with
  | some m =>
    { c with mgr.moves := c.mgr.moves.erase m }.onCell ref fun x => { x with host := m.target, slot := m.slot, kind := 3 }
  | none => c

/-- A mailbox's transaction of this device has ended (R560). -/
def Chip.mailAnswer (c : Chip) (dest : Nat) (pay : List Byte) (ok : Bool) : Chip :=
  let own := c.fw.out.any fun o => o.msg && decide (o.dest = dest ∧ o.data = pay)
  let c :=
    if !(own && ok && c.fwRuns) then c
    else match leAt pay 0 1 with
      | 4 => c.commitDone (leAt pay 0x10 4)
      | 6 => if leAt pay 0x12 1 = 1 then c.releaseDone (leAt pay 0x10 2) dest else c
      | _ => c
  c.fwSent dest pay ok

end Sys2Proof.Machine
end

