-- ==== Sys2Proof/Machine/Formats.lean ====
section
/-! DEFINITION. The storage formats of Table 11-1 by their codes, their decoding to FP32 patterns (exact, R410), the narrowing conversions
(R411, R412) and the scale of a row (R426). -/
namespace Sys2Proof.Machine

/-- Bits of an element (Tables 10-2 and 11-1). -/
def fmtBits (f : Nat) : Nat :=
  match f with
  | 1 => 32 | 2 => 16 | 3 => 16 | 4 => 8 | 5 => 8 | 6 => 8 | 7 => 4 | 8 => 4 | 9 => 8 | 10 => 4 | 11 => 8 | 12 => 32 | 13 => 128
  | 14 => 32 | 15 => 64 | _ => 0

/-- Bytes of an element; 1 for a 4-bit one. -/
def fmtSize (f : Nat) : Nat := max 1 (fmtBits f / 8)

/-- E5M2 (Table 11-2). -/
def e5m2 : Fmt := ⟨3, 5, -16⟩

/-- E4M3 decoded (R404, Table 11-2). -/
def e4m3Dec (b : Nat) : Fv :=
  let e := b / 8 % 16
  let m := b % 8
  let s := decide (128 ≤ b % 256)
  if b % 128 = 127 then .nan else if e = 0 then .num s m (-9) else .num s (8 + m) ((e : Int) - 10)

/-- NG4's FP16 values (Table 11-3); code 15 is 0 outside escape mode (R408). -/
def ng4 : List Nat :=
  [0xBC00, 0xB997, 0xB838, 0xB65A, 0xB493, 0xB1F1, 0xADDD, 0x0000, 0x2DDD, 0x31F1, 0x3493, 0x365A, 0x3838, 0x3997, 0x3C00, 0]

/-- 2^(j/8) for j = 0 to 7, in 2^-23, rounded to nearest. -/
def eighths : List Nat := [8388608, 9147843, 9975792, 10878680, 11863283, 12937002, 14107902, 15384776]

/-- UL8[c] as an FP32 pattern (R409). -/
def ul8 (c : Nat) : Nat := if c = 0 then 0 else (127 + c / 8 - 16) * 2 ^ 23 + (nth eighths (c % 8) 0 - 2 ^ 23)

/-- The FP32 pattern an element's code stands for before scaling, for every format without a codebook; INT8 less its zero point `z`. -/
def dec32 (f z code : Nat) : Nat :=
  match f with
  | 1 => fp32.ofFv (fp32.dec code)
  | 2 => fp16.to fp32 code
  | 3 => bf16.to fp32 code
  | 4 => fp32.ofFv (e4m3Dec code)
  | 5 => e5m2.to fp32 code
  | 6 => fp32.ofInt (sext 8 code - sext 8 z) 0
  | 7 => fp32.ofInt (sext 4 code) 0
  | 10 => fp16.to fp32 (nth ng4 code 0)
  | 11 => ul8 code
  | 14 => fp32.ofInt (sext 32 code) 0
  | 15 => fp32.ofInt (sext 64 code) (-32)
  | _ => 0

/-- The element's integer for INT8 (less its zero point, R406) and INT4. -/
def decInt (f z code : Nat) : Int := if f = 6 then sext 8 code - sext 8 z else sext 4 code

/-- Element `i` of packed elements (R401). -/
def elemAt (f : Nat) (row : List Byte) (i : Nat) : Nat :=
  if fmtBits f = 4 then leAt row (i / 2) 1 / (if i % 2 = 0 then 1 else 16) % 16 else leAt row (i * fmtSize f) (fmtSize f)

/-- `n` packed elements of a raw array as FP32 patterns. -/
def raw32 (f : Nat) (bs : List Byte) (n : Nat) : List Nat := (List.range n).map fun i => dec32 f 0 (elemAt f bs i)

/-- The nearest UL8 code to an FP32 pattern (R411, Table 11-4). -/
def ul8Enc (x : Nat) : Nat :=
  if fp32.isNan x ∨ fp32.signBit ≤ x then 0
  else if x = fp32.infBits then 255
  else
    let c := ((List.range 256).filter fun c => ul8 c ≤ x).length - 1
    if c = 255 then 255
    else match fp32.toQ x, fp32.toQ (ul8 c), fp32.toQ (ul8 (c + 1)) with
      | some v, some lo, some hi =>
        let up := hi.sub v
        let dn := v.sub lo
        if dn.lt up then c else if up.lt dn then c + 1 else c + c % 2
      | _, _, _ => 0

/-- An FP32 pattern narrowed to a storage format's code (R411, Table 11-4); `z` is INT8's zero point. -/
def enc32 (f z x : Nat) : Nat :=
  match f with
  | 1 => fp32.ofFv (fp32.dec x)
  | 2 => fp32.to fp16 x
  | 3 => fp32.to bf16 x
  | 4 =>
    match fp32.dec x with
    | .nan => 0x7F
    | .inf s => (if s then 128 else 0) + 0x7E
    | .num s m q => (if s then 128 else 0) + min 0x7E ((⟨4, 4, -9⟩ : Fmt).magBits m 1 q)
  | 5 =>
    match fp32.dec x with
    | .nan => 0x7E
    | .inf s => (if s then 128 else 0) + 0x7B
    | .num s m q => (if s then 128 else 0) + min 0x7B (e5m2.magBits m 1 q)
  | 6 =>
    match fp32.dec x with
    | .nan => z % 256
    | .inf s => if s then 0x80 else 0x7F
    | .num _ _ _ => tc 8 (clampI (-128) 127 (((fp32.toQ x).getD ⟨0, 1⟩).round + sext 8 z))
  | 11 => ul8Enc x
  | _ => 0

/-- A code's bytes. -/
def encBytes (f z x : Nat) : List Byte := leBytes (fmtSize f) (enc32 f z x)

/-- encode(x, s) (R412). -/
def encScaled (f z x s : Nat) : Nat := enc32 f z (fp32.div x s)

/-- The greatest value of a scaled output format (R426). -/
def qmax (f : Nat) : Nat :=
  match f with
  | 4 => fp32.ofInt 448 0
  | 5 => fp32.ofInt 57344 0
  | 6 => fp32.ofInt 127 0
  | _ => ul8 255

/-- The largest finite FP32 pattern. -/
def fp32Max : Nat := 0x7F7FFFFF

/-- The row maximum (R426): NaN excluded, an infinity counts as the largest finite value. -/
def rowMax (xs : List Nat) : Nat :=
  xs.foldl (fun a x => if fp32.isNan x then a else max a (min (x % fp32.signBit) fp32Max)) 0

/-- The exact quotient of two positive FP32 values rounded up to BF16 (R426, R447), as a BF16 pattern. -/
def roundUpBf16 (a b : Nat) : Nat :=
  match fp32.toQ a, fp32.toQ b with
  | some x, some y =>
    let q := x.div y
    let n := bf16.ofQ q
    match bf16.toQ n with
    | some v => if v.lt q then n + 1 else n
    | none => n
  | _, _ => 0

/-- The FLY scale of a row maximum, as a BF16 pattern (R426). -/
def flyScale (f amax : Nat) : Nat := if amax = 0 then 0x3F80 else roundUpBf16 amax (qmax f)

/-- Whether a row misses under scale `s` (R441, R442): over and under. -/
def missOf (f amax s : Nat) : Bool × Bool :=
  let normal := decide (0x00800000 ≤ s ∧ s < fp32.infBits)
  if amax = 0 then (false, false)
  else if !normal then (true, false)
  else match fp32.toQ amax, fp32.toQ s, fp32.toQ (qmax f) with
    | some a, some s, some q => ((s.mul q).lt a, (a.mul ⟨16, 1⟩).lt (s.mul q))
    | _, _, _ => (true, false)

end Sys2Proof.Machine
end

