-- ==== Sys2Proof/Machine/Nonlin.lean ====
section
/-! DEFINITION. The nonlinearities of Table 10-5 (R367, R368): any FP32 result within the stated bound of the exact value, the choice
being the unit's own (Config.nonlinear). -/
namespace Sys2Proof.Machine

/-- A finite FP32 pattern in the fixed-point form, rounded down. -/
def fxOf32 (x : Nat) : Int :=
  match fp32.dec x with
  | .num s m q =>
    let v : Int := if 0 ≤ q + 96 then ((m * 2 ^ (q + 96).toNat : Nat) : Int) else ((m / 2 ^ (-(q + 96)).toNat : Nat) : Int)
    if s then -v else v
  | _ => 0

/-- A fixed-point value rounded to FP32. -/
def fxTo32 (z : Int) : Nat := fp32.ofInt z (-96)

/-- e^x in the fixed-point form for x up to 100 in magnitude. -/
def fxExpVal (x : Int) : Int :=
  let (m, k) := fxExp (clampI (-100 * fxOne) (100 * fxOne) x)
  if 0 ≤ k then m * 2 ^ k.toNat else m / 2 ^ (-k).toNat

/-- sigmoid of a fixed-point value. -/
def fxSigmoid (x : Int) : Int := fxOne * fxOne / (fxOne + fxExpVal (-x))

/-- tanh of a fixed-point value. -/
def fxTanh (x : Int) : Int := 2 * fxSigmoid (2 * x) - fxOne

/-- The candidate where it is finite and `ok`, and otherwise the exact value rounded. -/
def withinOr (cand exact : Nat) (ok : Bool) : Nat := if fp32.isFin cand && ok then cand else exact

/-- What a nonlinearity gives, and whether NL_SAT and NL_DOMAIN are set. -/
structure NlOut where
  y : Nat
  sat : Bool
  dom : Bool
  deriving DecidableEq, Repr

/-- The largest finite value of an output format, as FP32. -/
def fmtMax (f : Nat) : Nat :=
  match f with
  | 2 => fp32.ofInt 65504 0
  | 3 => 0x7F7F0000
  | 4 => fp32.ofInt 448 0
  | 5 => fp32.ofInt 57344 0
  | 6 => fp32.ofInt 127 0
  | 14 => fp32.ofInt 2147483647 0
  | _ => fp32Max

/-- exp within its range: relative 2^-12. -/
def nlExp (x : Nat) : Nat :=
  let (m, k) := fxExp (fxOf32 x)
  let cand := (Config.nonlinear 2 x).toNat
  let exact := fp32.ofInt m (k - 96)
  let ok := match fp32.dec cand with
    | .num s n q =>
      let e := min q (k - 96)
      let d := fixAt s n q e - m * 2 ^ (k - 96 - e).toNat
      decide ((d.natAbs : Int) * 4096 ≤ m * 2 ^ (k - 96 - e).toNat)
    | _ => false
  withinOr cand exact ok

/-- rsqrt of a normal positive value: relative 2^-13. -/
def nlRsqrt (x : Nat) : Nat :=
  match fp32.dec x with
  | .num _ m q =>
    let (m, q) := if q % 2 = 0 then (m, q) else (2 * m, q - 1)
    let r := isqrt 120 (2 ^ 240 / m)
    let e : Int := -(q / 2) - 120
    let cand := (Config.nonlinear 3 x).toNat
    let ok := match fp32.dec cand with
      | .num s n p =>
        let b := min p e
        let d := fixAt s n p b - (r : Int) * 2 ^ (e - b).toNat
        decide ((d.natAbs : Int) * 8192 ≤ (r : Int) * 2 ^ (e - b).toNat)
      | _ => false
    withinOr cand (fp32.ofInt r e) ok
  | _ => (Config.openValue 3 [x]).toNat

/-- A nonlinearity of an FP32 input for output format `f`: 0 sigmoid, 1 tanh, 2 exp, 3 rsqrt (Table 10-5, R368). -/
def nonlin (fn f x : Nat) : NlOut :=
  let neg := decide (fp32.signBit ≤ x)
  if fp32.isNan x then ⟨if f = 6 ∨ f = 11 ∨ f = 14 then fp32.infBits else fp32.nanBits, false, false⟩
  else match fn with
    | 0 =>
      if !fp32.isFin x then ⟨if neg then 0 else 0x3F800000, false, false⟩
      else
        let v := fxSigmoid (fxOf32 x)
        let cand := (Config.nonlinear 0 x).toNat
        ⟨withinOr cand (fxTo32 v) (decide ((fxOf32 cand - v).natAbs ≤ 2 ^ 85)), false, false⟩
    | 1 =>
      if !fp32.isFin x then ⟨if neg then 0xBF800000 else 0x3F800000, false, false⟩
      else
        let v := fxTanh (fxOf32 x)
        let cand := (Config.nonlinear 1 x).toNat
        ⟨withinOr cand (fxTo32 v) (decide ((fxOf32 cand - v).natAbs ≤ 2 ^ 86)), false, false⟩
    | 2 =>
      if fp32.lt x (fp32.ofInt (-87) 0) then ⟨0, false, false⟩
      else if fp32.lt (fp32.ofInt 88 0) x then ⟨fmtMax f, true, false⟩
      else ⟨nlExp x, false, false⟩
    | _ =>
      if x % fp32.signBit = 0 then ⟨fmtMax f, true, false⟩
      else if neg then ⟨0, false, true⟩
      else if x < 0x00800000 then ⟨fmtMax f, true, false⟩
      else ⟨nlRsqrt x, false, false⟩

/-- RESULT[25] and RESULT[26] of a list of results. -/
def nlFlags (os : List NlOut) : Nat :=
  (if os.any fun o => o.sat then 2 ^ 25 else 0) + (if os.any fun o => o.dom then 2 ^ 26 else 0)

end Sys2Proof.Machine
end

