-- ==== Sys2Proof/Machine/Tensor.lean ====
section
/-! DEFINITION. What every engine operation shares: its accesses, the ways it ends, and the tensors it reads and writes
(R353, R362, R364, Table 10-3, 11_number_formats.md, 12_adaptation.md). -/
namespace Sys2Proof.Machine

/-- An engine's work: it changes the chip and ends with a value, or early with a result. -/
abbrev EngM := ExceptT OpRes (StateM Chip)

/-- Who works: the engine and the descriptor's class. -/
structure Who where
  e : Nat
  cls : Nat
  deriving DecidableEq, Repr

/-- The line-wise parts of a range, each an address and a length. -/
def lineParts (a n : Nat) : List (Nat × Nat) :=
  if n = 0 then [] else (linesOf a n).map fun l => (max a l, min (a + n) (l + 64) - max a l)

/-- ECC_UE's DETAIL (Table 09-5). -/
def ueDetail (a : Nat) : Nat := if 0x10000000 ≤ a ∧ a < 0x10480000 then 2 else 1

/-- One part read; a group that is OFF reads 0 (R62). -/
def readPart (w : Who) (p : Nat × Nat) : EngM (List Byte) := do
  let (r, c) := (← get).read w.e w.cls p.1 p.2
  set c
  match r with
  | .ok b => return b
  | .busError => return List.replicate p.2 0
  | .refused _ => throw ⟨4, 2, p.1, 0, 0, 0⟩
  | .uncorrectable => throw ⟨5, ueDetail p.1, p.1, 0, 0, 0⟩

/-- A range read line by line; a refused or uncorrectable access ends the descriptor (R353). -/
def eread (w : Who) (a n : Nat) : EngM (List Byte) := do
  let ps ← (lineParts a n).mapM (readPart w)
  return ps.flatten

/-- One part written. -/
def writePart (w : Who) (base : Nat) (d : List Byte) (p : Nat × Nat) : EngM Unit := do
  let (r, c) := (← get).write w.e w.cls p.1 (slice d (p.1 - base) p.2)
  set c
  match r with
  | .ok _ => return ()
  | .busError => return ()
  | .refused _ => throw ⟨4, 3, p.1, 0, 0, 0⟩
  | .uncorrectable => throw ⟨5, ueDetail p.1, p.1, 0, 0, 0⟩

/-- A range written line by line. -/
def ewrite (w : Who) (a : Nat) (d : List Byte) : EngM Unit := do
  let _ ← (lineParts a d.length).mapM (writePart w a d)
  return ()

/-- The descriptor ends OK with FAULT and a code of Table 10-3, and RESULT[23:0] (R364). -/
def efault {α : Type} (code : Nat) (res : Nat := 0) : EngM α := throw ⟨1, 0, 0, 2 ^ 31 + code * 2 ^ 24 + res % 2 ^ 24, 0, 0⟩

/-- An operation that ended as it should, with its result word. -/
def eok (res : Nat) : OpRes := ⟨1, 0, 0, res, 0, 0⟩

/-- Run an engine's work on the chip. -/
def Chip.runEng (c : Chip) (m : EngM OpRes) : OpRes × Chip :=
  match m.run c with
  | (.ok r, c) => (r, c)
  | (.error r, c) => (r, c)

/-- The running descriptor of engine `e` performed when its class and opcode are these; nothing otherwise. LB_CE tells of a corrected
error in the meantime (Table 09-4). An engine that an error of the work has powered off runs nothing any more (R359). -/
def Chip.perform (c : Chip) (e cls op : Nat) (work : Who → Desc → Opnd → EngM OpRes) : Chip :=
  match (c.engine e).run with
  | none => c
  | some r =>
    if r.done ∨ engClass e ≠ cls ∨ 36 ≤ e ∨ r.d.at 0 1 ≠ op then c
    else
      let had := Machine.bit (c.reg 0x40030000) 3
      let (res, c) := (c.setBit 0x40030000 3 false).runEng (work ⟨e, r.d.cls⟩ r.d r.d.opnd)
      let ce := Machine.bit (c.reg 0x40030000) 3
      let res := { res with flags := res.flags ||| (if ce then 32 else 0) }
      (c.setBit 0x40030000 3 (had || ce)).onEng e fun g => { g with run := g.run.map fun _ => { r with done := true, res := res } }

/-! ### Ranges -/

/-- The own local buffer of engine `e` holds the range. -/
def inOwnBuf (e a n : Nat) : Bool := decide (bufBase e ≤ a ∧ a + n ≤ bufBase e + bufSize e)

/-- The range lies in shared SRAM, in either view, or in the own buffer, aligned (R362); an empty range lies anywhere. -/
def rangeOk (e a n align : Nat) : Bool :=
  decide (a % align = 0) &&
    (decide (n = 0) || decide (a + n ≤ 0x800000) || decide (0x08000000 ≤ a ∧ a + n ≤ 0x08800000) || inOwnBuf e a n)

/-! ### Tensor headers -/

/-- A tensor header (Table 11-5). -/
structure Hdr where
  bytes : List Byte
  fmt : Nat
  flags : Nat
  smode : Nat
  sfmt : Nat
  zp : Nat
  rows : Nat
  cols : Nat
  data : Nat
  scale : Nat
  cb : Nat
  side : Nat
  soff : Nat
  sideLen : Nat
  rq : Nat
  nscale : Nat
  deriving DecidableEq, Repr

/-- A header's fields. -/
def hdrOf (b : List Byte) : Hdr :=
  { bytes := b, fmt := leAt b 2 1, flags := leAt b 3 1, smode := leAt b 4 1, sfmt := leAt b 5 1, zp := leAt b 6 1
    rows := leAt b 8 2, cols := leAt b 0xA 2, data := leAt b 0xC 4, scale := leAt b 0x10 4, cb := leAt b 0x14 4
    side := leAt b 0x18 4, soff := leAt b 0x1C 4, sideLen := leAt b 0x20 4, rq := leAt b 0x24 4, nscale := leAt b 0x28 4 }

/-- FLAGS bit `i`: 0 SCALE, 1 ZP, 2 ESC, 3 GROUP, 4 RQ. -/
def Hdr.flag (h : Hdr) (i : Nat) : Bool := nbit h.flags i
/-- Bytes of a stored row (R401). -/
def Hdr.rowBytes (h : Hdr) : Nat := (h.cols * fmtBits h.fmt + 7) / 8
/-- The INT8 zero point in force (R405). -/
def Hdr.z (h : Hdr) : Nat := if h.flag 1 then h.zp else 0
/-- Codebook entries, 0 for a format without codebooks. -/
def Hdr.entries (h : Hdr) : Nat := if h.fmt = 8 then 16 else if h.fmt = 9 then 256 else 0

/-- The FORMAT cases of R415 that the header alone shows, and the NSCALE rule of R439. -/
def Hdr.bad (h : Hdr) : Bool :=
  decide (leAt h.bytes 0 2 ≠ 0x5354 ∨ h.fmt = 0 ∨ 11 < h.fmt ∨ leAt h.bytes 7 1 ≠ 0 ∨ leAt h.bytes 0x2C 20 ≠ 0 ∨ 32 ≤ h.flags ∨
    2 < h.smode ∨ (h.sfmt ≠ 2 ∧ h.sfmt ≠ 3) ∨ h.rows = 0 ∨ h.cols = 0) ||
  (h.flag 1 && decide (h.fmt ≠ 6)) || (h.flag 2 && decide (h.fmt ≠ 8 ∧ h.fmt ≠ 9 ∧ h.fmt ≠ 10)) ||
  (h.flag 3 && decide (h.fmt ≠ 8 ∧ h.fmt ≠ 9)) ||
  (!h.flag 0 && decide (h.scale ≠ 0)) || (decide (h.entries = 0) && decide (h.cb ≠ 0)) ||
  (!h.flag 2 && decide (h.side ≠ 0 ∨ h.soff ≠ 0)) || (!h.flag 4 && decide (h.rq ≠ 0)) || (decide (h.smode ≠ 2) && decide (h.nscale ≠ 0))

/-- The RANGE cases of R416. -/
def Hdr.outside (h : Hdr) (e : Nat) : Bool :=
  !rangeOk e h.data (h.rows * h.rowBytes) (fmtSize h.fmt) ||
  (h.flag 0 && !rangeOk e h.scale (2 * h.rows) 2) ||
  (decide (h.entries ≠ 0) && !rangeOk e h.cb (2 * h.entries * (if h.flag 3 then (h.rows + 63) / 64 else 1)) 2) ||
  (h.flag 2 && (!rangeOk e h.side (2 * h.sideLen) 2 || !rangeOk e h.soff (2 * h.rows) 2)) ||
  (h.flag 4 && !rangeOk e h.rq (8 * h.rows) 8) || (decide (h.smode = 2 ∧ h.nscale ≠ 0) && !rangeOk e h.nscale (2 * h.rows) 2)

/-- A header read and checked; `ok` holds what the descriptor asks of it (R415, R416). -/
def ehdr (w : Who) (a : Nat) (ok : Hdr → Bool) : EngM Hdr := do
  let h := hdrOf (← eread w a 64)
  if h.bad || !ok h then efault 2
  else if h.outside w.e then efault 1
  else return h

/-- The header may be an output (R415, R438, R439): `delayed` says whether the operation honours DELAYED. -/
def Hdr.outOk (h : Hdr) (delayed : Bool) : Bool :=
  !(decide (h.smode = 1) && decide (h.fmt = 6) && h.flag 1) &&
  (decide (h.smode ≠ 2) ||
    (delayed && h.flag 0 && decide (h.nscale ≠ 0 ∧ h.sfmt = 3) && !h.flag 1 &&
      decide (h.scale + 2 * h.rows ≤ h.nscale ∨ h.nscale + 2 * h.rows ≤ h.scale))) &&
  (decide (h.smode ≠ 1) || h.flag 0)

/-- The scale of row `r` as FP32; 1 without a scale stream (R424). -/
def escale (w : Who) (h : Hdr) (r : Nat) : EngM Nat := do
  if h.flag 0 then
    let b := leNat (← eread w (h.scale + 2 * r) 2)
    return if h.sfmt = 2 then fp16.to fp32 b else bf16.to fp32 b
  else return 0x3F800000

/-- One decoded element of a row (R408, R419 to R421): its value before scaling, or an escape's side-list value. -/
inductive Elem
  | val (x : Nat)
  | esc (x : Nat)
  deriving DecidableEq, Repr

/-- The pattern of an element, whichever it is. -/
def Elem.x : Elem → Nat
  | .val x => x
  | .esc x => x

/-- The codebook a row uses, as FP32 patterns (R419). -/
def ebook (w : Who) (h : Hdr) (r : Nat) : EngM (List Nat) := do
  if h.entries = 0 then return []
  else
    let g := if h.flag 3 then r / 64 else 0
    let b ← eread w (h.cb + 2 * h.entries * g) (2 * h.entries)
    return (List.range h.entries).map fun i => fp16.to fp32 (leAt b (2 * i) 2)

/-- Row `r` decoded (R421, R422): an escape without an entry ends the descriptor with ESCAPE. -/
def erow (w : Who) (h : Hdr) (r : Nat) : EngM (List Elem) := do
  let bytes ← eread w (h.data + r * h.rowBytes) h.rowBytes
  let book ← ebook w h r
  let codes := (List.range h.cols).map fun k => elemAt h.fmt bytes k
  if h.flag 2 then
    let off := leNat (← eread w (h.soff + 2 * r) 2)
    let bound ← if r + 1 < h.rows then do pure (leNat (← eread w (h.soff + 2 * (r + 1)) 2)) else pure h.sideLen
    let escCode := if h.fmt = 9 then 255 else 15
    let n := (codes.filter fun c => decide (c = escCode)).length
    if 0 < n ∧ (255 < n ∨ bound < off + n) then efault 8
    else
      let side ← eread w (h.side + 2 * off) (2 * n)
      let (es, _) := codes.foldl (fun (p : List Elem × Nat) c =>
        if c = escCode then (Elem.esc (fp16.to fp32 (leAt side (2 * p.2) 2)) :: p.1, p.2 + 1)
        else (Elem.val (if h.entries = 0 then dec32 h.fmt 0 c else nth book c 0) :: p.1, p.2)) ([], 0)
      return es.reverse
  else
    return codes.map fun c => .val (if h.entries = 0 then dec32 h.fmt h.z c else nth book c 0)

/-- The integers of row `r` of an INT8 or INT4 tensor (R405 to R407). -/
def eints (w : Who) (h : Hdr) (r : Nat) : EngM (List Int) := do
  let bytes ← eread w (h.data + r * h.rowBytes) h.rowBytes
  return (List.range h.cols).map fun k => decInt h.fmt h.z (elemAt h.fmt bytes k)

/-- The dot product of R429: the rounded sums of the plain terms and of the escapes. -/
def dotSum (a : List Nat) (ws : List Elem) : Nat × Nat :=
  (a.zip ws).foldl (fun (p : Nat × Nat) (t : Nat × Elem) => match t.2 with
    | .esc v => (p.1, fp32.add p.2 (fp32.mul t.1 v))
    | .val v => (fp32.add p.1 (fp32.mul t.1 v), p.2)) (0, 0)

/-- y := s_a · fma(s_w, acc, esc) (R429). -/
def dotScale (sa sw acc esc : Nat) : Nat := fp32.mul sa (fp32.fma sw acc esc)

/-- The integer dot product, clamped once (R430). -/
def dotInt (a b : List Int) : Int :=
  clampI (-(2 ^ 31)) (2 ^ 31 - 1) ((a.zip b).foldl (fun s t => s + t.1 * t.2) 0)

/-! ### Outputs -/

/-- What the rows of an output came to: the misses and their flags, and the record's flags (R443, R444). -/
structure Misses where
  rows : Nat
  flags : Nat
  deriving DecidableEq, Repr

/-- The codes of a row under one scale. -/
def rowCodes (f z : Nat) (xs : List Nat) (s : Nat) : List Byte := xs.flatMap fun x => leBytes (fmtSize f) (encScaled f z x s)

/-- A row of a tensor output written under its header's SMODE (R412, R418, R426, R440 to R447); `live` values count for the row maximum,
and `pad` values follow as the code of 0 (R452). -/
def eoutRow (w : Who) (h : Hdr) (replay : Bool) (r : Nat) (live : List Nat) (pad : Nat) (ms : Misses) : EngM Misses := do
  let xs := live ++ List.replicate pad 0
  let at_ := h.data + r * h.rowBytes
  let amax := rowMax live
  let fly := flyScale h.fmt amax
  if h.smode = 1 then
    ewrite w at_ (rowCodes h.fmt h.z xs (bf16.to fp32 fly))
    ewrite w (h.scale + 2 * r) (leBytes 2 fly)
    return ms
  else
    let s ← escale w h r
    if h.smode = 0 then
      ewrite w at_ (rowCodes h.fmt h.z xs s)
      return ms
    else
      let (ovf, under) := missOf h.fmt amax s
      let again := replay && (ovf || under)
      if again then
        ewrite w at_ (rowCodes h.fmt h.z xs (bf16.to fp32 fly))
        ewrite w (h.scale + 2 * r) (leBytes 2 fly)
      else ewrite w at_ (rowCodes h.fmt h.z xs s)
      let old ← eread w (h.scale + 2 * r) 2
      ewrite w (h.nscale + 2 * r) (if amax = 0 then old else leBytes 2 (roundUpBf16 amax (qmax h.fmt)))
      return ⟨ms.rows + (if ovf || under then 1 else 0),
        ms.flags ||| (if ovf then 4 else 0) ||| (if under then 8 else 0) ||| (if again then 16 else 0)⟩

/-- A descriptor's result with its misses. -/
def Misses.res (m : Misses) (result : Nat) : OpRes := ⟨1, 0, 0, result, m.rows, m.flags⟩

end Sys2Proof.Machine
end

