-- ==== Sys2Proof/Machine/OpLimits.lean ====
section
/-! DEFINITION. Check 2 of Table 09-2: the opcodes of each class, and the limits its operands must keep (R360 to R363, R369, R374, R389 to
R391, R434 and the operand tables of 10_engine_catalogue.md). Log entry 13 lists the readings taken where a table is silent. -/
namespace Sys2Proof.Machine

/-- A range an operand names: address, bytes and element size. -/
structure Rng where
  a : Nat
  n : Nat
  al : Nat
  deriving DecidableEq, Repr

/-- What the operands of an operation come to. -/
structure Lim where
  /-- The counts, formats and parameters are allowed, and unused fields are zero. -/
  ok : Bool
  src : List Rng
  dst : List Rng
  /-- The pairs of a source and a destination, by place in their lists, that may be the same range ("in place"). -/
  same : List (Nat × Nat)
  deriving DecidableEq, Repr

/-- The bank-linear alias of shared SRAM (Table 08-1). -/
def inAlias (a : Nat) : Bool := decide (0x08000000 ≤ a ∧ a < 0x08800000)

/-- An alias range and an interleaved one share a byte: one of the alias's lines lies across the other (R293). -/
def Rng.meetsAlias (x y : Rng) : Bool :=
  (List.range ((x.a % 64 + x.n + 63) / 64)).any fun i =>
    let line := x.a - x.a % 64 + 64 * i
    let lo := max x.a line
    let hi := min (x.a + x.n) (line + 64)
    decide (canon lo < y.a + y.n ∧ y.a < canon lo + (hi - lo))

/-- Two ranges share a byte, whichever view of shared SRAM each names. -/
def Rng.meets (x y : Rng) : Bool :=
  decide (0 < x.n ∧ 0 < y.n) &&
    match inAlias x.a, inAlias y.a with
    | true, false => x.meetsAlias y
    | false, true => y.meetsAlias x
    | _, _ => decide (x.a < y.a + y.n ∧ y.a < x.a + x.n)

/-- The limits hold: fields, ranges (R362) and overlaps (R363). -/
def Lim.good (l : Lim) (e : Nat) : Bool :=
  l.ok && (l.src ++ l.dst).all (fun r => rangeOk e r.a r.n r.al) &&
    l.dst.zipIdx.all fun d => l.src.zipIdx.all fun s =>
      !s.1.meets d.1 || (l.same.contains (s.2, d.2) && decide (s.1.a = d.1.a ∧ s.1.n = d.1.n))

/-- `lo ≤ x ≤ hi`. -/
def inR (lo hi x : Nat) : Bool := decide (lo ≤ x ∧ x ≤ hi)

/-- The fields named by a mask must be zero: 1 A, 2 B, 4 C, 8 D, 16 N0, 32 N1, 64 N2, 128 A's format, 256 B's, 512 D's, 1,024 MODE,
2,048 P0, 4,096 P1 (R360). -/
def Opnd.zero (o : Opnd) (mask : Nat) : Bool :=
  [o.a, o.b, o.c, o.d, o.n0, o.n1, o.n2, o.fa, o.fb, o.fd, o.mode, o.p0, o.p1].zipIdx.all fun x => !nbit mask x.2 || decide (x.1 = 0)

/-- Gates of a learned model (Table 13-4), by SQE opcode. -/
def gatesOf (op : Nat) : Nat := if op = 1 then 3 else if op = 2 then 4 else 1

/-- Bytes of trace for one cell and step: the only size the spec ties to a trace (R389). -/
def traceBytes (h x : Nat) : Nat := 2 * (h + x)

/-- SQE operations (Table 10-6). -/
def limSqe (op : Nat) (o : Opnd) : Option Lim :=
  if 1 ≤ op ∧ op ≤ 4 then
    let trace := nbit o.mode 0
    let inp := (o.n2 - 1) * (o.p1 % 65536) + o.n1 * fmtSize o.fb
    some
      { ok := inR 1 128 o.n0 && inR 1 128 o.n1 && inR 1 32 o.n2 && o.zero 128 && inR 0 1 o.mode && [1, 2, 3, 6].contains o.fb &&
          decide (o.p0 % 8 ≤ 4 ∧ o.p1 < 65536) && (if op = 4 then decide (o.p0 % 256 < 8) && inR 1 16 (o.p0 / 256) else decide (o.p0 < 8)) &&
          (if trace then decide (o.fd = 3) else o.zero (8 + 512))
        src := [⟨o.a, 64, 64⟩, ⟨o.b, 2048 * o.n2, 2048⟩, ⟨o.c, inp, fmtSize o.fb⟩]
        dst := [⟨o.b, 2048 * o.n2, 2048⟩] ++ (if trace then [⟨o.d, o.n2 * traceBytes o.n0 o.n1, 2⟩] else [])
        same := [(1, 0)] }
  else if op = 0x10 then
    some
      { ok := inR 1 65535 o.n0 && o.zero (2 + 4 + 32 + 64 + 256 + 2048 + 4096) && [1, 2, 3].contains o.fa && [1, 2, 3].contains o.fd &&
          inR 0 3 o.mode
        src := [⟨o.a, o.n0 * fmtSize o.fa, fmtSize o.fa⟩], dst := [⟨o.d, o.n0 * fmtSize o.fd, fmtSize o.fd⟩], same := [] }
  else none

/-- INT8 or INT4. -/
def isIntFmt (f : Nat) : Bool := decide (f = 6 ∨ f = 7)

/-- MXE operations (Table 10-7, R374, R417, R434). -/
def limMxe (op : Nat) (o : Opnd) : Option Lim :=
  if op = 1 ∨ op = 2 then
    let act := o.p0 % 8
    let rs := o.p0 / 8
    let out : Rng := if o.fd = 4 ∨ o.fd = 5 ∨ o.fd = 6 then ⟨o.d, 64, 64⟩ else ⟨o.d, o.n0 * o.n1 * fmtSize o.fd, fmtSize o.fd⟩
    some
      { ok := inR 1 65535 o.n0 && inR 1 65535 o.n1 && inR 1 65535 o.n2 && [2, 3, 4, 5, 6, 7, 8, 9, 10].contains o.fa &&
          [2, 3, 4, 5, 6, 7, 8, 9, 10].contains o.fb && [1, 2, 3, 4, 5, 6, 14].contains o.fd && decide (isIntFmt o.fa = isIntFmt o.fb) &&
          o.zero (1024 + 4096) && decide (act ≤ 4 ∧ rs ≤ 2) && (decide (rs ≠ 1) || (isIntFmt o.fa && decide (o.fd = 6 ∧ act ≤ 1))) &&
          (decide (op = 2) || o.zero 4)
        src := [⟨o.a, 64, 64⟩, ⟨o.b, 64, 64⟩] ++ (if op = 2 then [⟨o.c, o.n0 * o.n1 * 4, 4⟩] else [])
        dst := [out], same := [] }
  else none

/-- Formats NONE or FP32 where an operation fixes FP32. -/
def fp32Only (f : Nat) : Bool := decide (f ≤ 1)

/-- KFE operations (Table 10-8). -/
def limKfe (op : Nat) (o : Opnd) : Option Lim :=
  let f := fp32Only o.fa && fp32Only o.fb && fp32Only o.fd && decide (o.mode = 0)
  let sq := fun n => 4 * n * n
  let st := fun n => 4 * (n + n * n)
  match op with
  | 1 => some
    { ok := f && inR 1 16 o.n0 && inR 1 16 o.n1 && inR 1 16 o.n2 && decide (o.p0 ≤ 1) && o.zero (4096 + if o.p0 = 1 then 0 else 4)
      src := [⟨o.a, 4 * o.n0 * o.n1, 4⟩, ⟨o.b, 4 * o.n1 * o.n2, 4⟩] ++ (if o.p0 = 1 then [⟨o.c, 4 * o.n0 * o.n2, 4⟩] else [])
      dst := [⟨o.d, 4 * o.n0 * o.n2, 4⟩], same := [] }
  | 2 => some
    { ok := f && inR 1 16 o.n0 && o.zero (2 + 4 + 32 + 64 + 2048 + 4096), src := [⟨o.a, sq o.n0, 4⟩], dst := [⟨o.d, sq o.n0, 4⟩]
      same := [] }
  | 3 => some
    { ok := f && inR 1 16 o.n0 && inR 1 16 o.n2 && decide (o.p0 ≤ 1) && o.zero (4 + 32 + 4096)
      src := [⟨o.a, sq o.n0, 4⟩, ⟨o.b, 4 * o.n0 * o.n2, 4⟩], dst := [⟨o.d, 4 * o.n0 * o.n2, 4⟩], same := [] }
  | 4 => some
    { ok := f && inR 1 16 o.n0 && o.zero (32 + 64 + 2048 + 4096)
      src := [⟨o.a, sq o.n0, 4⟩, ⟨o.b, sq o.n0, 4⟩, ⟨o.c, sq o.n0, 4⟩], dst := [⟨o.d, sq o.n0, 4⟩], same := [(1, 0)] }
  | 5 => some
    { ok := f && inR 1 16 o.n0 && inR 1 4 o.n1 && o.zero (64 + 2048 + 4096)
      src := [⟨o.a, st o.n0, 4⟩, ⟨o.b, 4 * o.n1 * o.n0, 4⟩, ⟨o.c, 4 * (2 * o.n1 + o.n1 * o.n1), 4⟩]
      dst := [⟨o.d, st o.n0, 4⟩], same := [(0, 0)] }
  | 6 => some
    { ok := f && inR 1 16 o.n0 && o.zero (2 + 4 + 32 + 64 + 4096), src := [⟨o.a, st o.n0, 4⟩]
      dst := [⟨o.d, 4 * (2 * o.n0 + 1) * o.n0, 4⟩], same := [] }
  | 7 => some
    { ok := f && inR 1 32 o.n2 && o.zero (4 + 16 + 32 + 4096)
      src := [⟨o.a, 4 * o.n2, 4⟩, ⟨o.b, 2048 * o.n2, 2048⟩], dst := [⟨o.d, 16 * o.n2, 4⟩, ⟨o.b, 2048 * o.n2, 2048⟩], same := [(1, 1)] }
  | 8 => some
    { ok := f && inR 1 4096 o.n1 && inR 1 32 o.n2 && o.zero (4 + 8 + 16 + 4096)
      src := [⟨o.a, 4 * o.n1 * o.n2, 4⟩, ⟨o.b, 2048 * o.n2, 2048⟩], dst := [⟨o.b, 2048 * o.n2, 2048⟩], same := [(1, 0)] }
  | _ => none

/-- ZLE operations (Table 10-9). -/
def limZle (op : Nat) (o : Opnd) : Option Lim :=
  let none' : Lim := ⟨o.zero 8191, [], [], []⟩
  match op with
  | 1 => some ⟨inR 1 32 o.n0 && inR 0 4095 o.n1 && fp32Only o.fa && o.zero (2 + 4 + 8 + 64 + 256 + 512 + 1024 + 4096),
      [⟨o.a, 12 * o.n0, 4⟩], [], []⟩
  | 2 => some none'
  | 3 => some ⟨inR 1 4096 o.n0 && decide (o.fa = 0 ∨ o.fa = 13) && decide (o.p0 < 64) &&
      o.zero (2 + 4 + 8 + 32 + 64 + 256 + 512 + 1024), [⟨o.a, 16 * o.n0, 16⟩], [], []⟩
  | 4 => some ⟨o.zero (1 + 2 + 4 + 16 + 32 + 64 + 128 + 256 + 1024 + 4096) && fp32Only o.fd, [], [⟨o.d, 62, 4⟩], []⟩
  | 5 => some none'
  | _ => none

/-- SPE operations (Table 10-10). A spectrum holds N complex values; a real time signal holds N values a frame. -/
def limSpe (op : Nat) (o : Opnd) : Option Lim :=
  if op = 0 ∨ 5 < op then none
  else
    let n := 2 ^ o.n0
    let sa := fmtSize o.fa
    let sd := fmtSize o.fd
    let t := if nbit o.p0 0 then 1 else 2
    let base := inR 6 12 o.n0 && inR 1 4096 o.n1 && [1, 2, 3].contains o.fa && [1, 2, 3].contains o.fd && decide (o.mode = 0 ∧ o.p0 ≤ 1) &&
      o.zero 4096
    match op with
    | 1 => some ⟨base && o.zero (2 + 4 + 64 + 256), [⟨o.a, n * t * o.n1 * sa, sa⟩], [⟨o.d, 2 * n * o.n1 * sd, sd⟩], []⟩
    | 2 => some ⟨base && o.zero (2 + 4 + 64 + 256), [⟨o.a, 2 * n * o.n1 * sa, sa⟩], [⟨o.d, n * t * o.n1 * sd, sd⟩], []⟩
    | 3 => some ⟨base && o.zero 4 && fp32Only o.fb && inR 1 n o.n2,
        [⟨o.a, ((o.n1 - 1) * o.n2 + n) * t * sa, sa⟩, ⟨o.b, 4 * n, 4⟩], [⟨o.d, 2 * n * o.n1 * sd, sd⟩], []⟩
    | 4 => some ⟨base && fp32Only o.fb && inR 1 n o.n2,
        [⟨o.a, 2 * n * o.n1 * sa, sa⟩, ⟨o.b, 4 * n, 4⟩, ⟨o.c, 4 * n * t, 4⟩], [⟨o.d, o.n1 * o.n2 * t * sd, sd⟩, ⟨o.c, 4 * n * t, 4⟩], [(2, 1)]⟩
    | _ => some ⟨base && o.zero (2 + 4 + 64 + 256 + 2048), [⟨o.a, 2 * n * o.n1 * sa, sa⟩], [⟨o.d, n * o.n1 * sd, sd⟩], []⟩

/-- FLE operations (Table 10-11, R386). -/
def limFle (op : Nat) (o : Opnd) : Option Lim :=
  let sa := fmtSize o.fa
  let inp := [1, 2, 3, 12, 13].contains o.fa && fp32Only o.fb && decide (o.mode = 0)
  let rec_ := decide (o.fa = 12 ∨ o.fa = 13)
  match op with
  | 1 => some ⟨inp && inR 1 4096 o.n0 && inR 1 1024 o.n1 && [1, 2, 3].contains o.fd && o.zero (64 + 4096) &&
        decide (o.p0 < if rec_ then 256 else 1),
      [⟨o.a, o.n0 * sa, sa⟩, ⟨o.b, 4 * o.n1, 4⟩, ⟨o.c, 4 * (o.n1 - 1), 4⟩],
      [⟨o.d, o.n0 * fmtSize o.fd, fmtSize o.fd⟩, ⟨o.c, 4 * (o.n1 - 1), 4⟩], [(2, 1)]⟩
  | 2 => some ⟨inp && inR 1 4096 o.n0 && inR 1 16 o.n1 && [1, 2, 3].contains o.fd && o.zero (64 + 4096) &&
        decide (o.p0 < if rec_ then 256 else 1),
      [⟨o.a, o.n0 * sa, sa⟩, ⟨o.b, 20 * o.n1, 4⟩, ⟨o.c, 8 * o.n1, 4⟩],
      [⟨o.d, o.n0 * fmtSize o.fd, fmtSize o.fd⟩, ⟨o.c, 8 * o.n1, 4⟩], [(2, 1)]⟩
  | 3 => some ⟨inp && inR 1 4096 o.n0 && inR 1 1024 o.n1 && o.zero (8 + 64 + 512),
      [⟨o.a, (o.n0 + o.n1 - 1) * sa, sa⟩, ⟨o.b, 4 * o.n1, 4⟩, ⟨o.c, 4 * o.n0, 4⟩], [⟨o.b, 4 * o.n1, 4⟩], [(1, 0)]⟩
  | _ => none

/-- TUE operations (Table 10-12, R389). -/
def limTue (op : Nat) (o : Opnd) : Option Lim :=
  match op with
  | 1 => some ⟨inR 1 128 o.n0 && inR 1 128 o.n1 && inR 1 256 o.n2 && inR 1 4 o.p0 && inR 1 4 o.mode && o.zero (128 + 256) &&
        decide (o.fd = 0 ∨ o.fd = 5) && decide (o.n2 * (o.n0 + o.n1) * 2 ≤ 49152),
      [⟨o.a, 64, 64⟩, ⟨o.b, 2048, 2048⟩, ⟨o.c, o.n2 * traceBytes o.n0 o.n1, 2⟩, ⟨o.p1, 8 * o.n2, 4⟩], [⟨o.d, 64, 64⟩], []⟩
  | 2 => some ⟨inR 1 65535 o.n0 && o.zero (32 + 64 + 1024) && decide (o.fa = 0 ∨ o.fa = 5) && decide (o.fb = 0) &&
        decide (o.fd = 0 ∨ o.fd = 3),
      [⟨o.a, 64, 64⟩, ⟨o.b, 160, 64⟩, ⟨o.c, 4 * o.n0, 4⟩], [⟨o.d, 2 * o.n0, 2⟩, ⟨o.c, 4 * o.n0, 4⟩], [(2, 1)]⟩
  | _ => none

/-- Bytes of an element of a CXE operation. -/
def cxeSize (o : Opnd) : Nat := if o.mode = 3 then fmtSize o.fa else 2 ^ (o.p1 % 4)

/-- CXE operations (Table 10-13, R390). -/
def limCxe (op : Nat) (o : Opnd) : Option Lim :=
  let cap := o.p1 / 256
  match op with
  | 1 =>
    let n := (o.n0 * 64 + o.n1) * cxeSize o
    let par := match o.mode with
      | 2 => inR 1 64 o.p0
      | 3 => decide (o.p0 % 256 = 0 ∧ o.p0 / 8192 % 8 = 0 ∧ o.p0 < 2 ^ 20) && inR 1 23 (o.p0 / 256 % 32) && inR 4 10 (o.p0 / 65536) &&
          [1, 2, 3].contains o.fa && decide (o.p1 % 256 = 0)
      | _ => o.zero 2048
    some ⟨inR 0 3 o.mode && par && (decide (o.mode = 3) || (decide (o.p1 % 256 ≤ 2) && o.zero 128)) && o.zero (2 + 4 + 64 + 256 + 512) &&
        decide (n + 16 ≤ cap),
      [⟨o.a, n, cxeSize o⟩], [⟨o.d, cap, 1⟩], []⟩
  | 2 => some ⟨o.zero (2 + 4 + 16 + 32 + 64 + 128 + 256 + 512 + 1024 + 2048) && decide (o.p1 % 256 = 0),
      [⟨o.a, 16, 1⟩], [⟨o.d, cap, 1⟩], []⟩
  | _ => none

/-- CRE operations (Table 10-16). -/
def limCre (op : Nat) (o : Opnd) : Option Lim :=
  let gcm := inR 1 16777216 o.p1 && decide (o.p0 < 256) && o.zero (32 + 64 + 128 + 256 + 512 + 1024)
  match op with
  | 1 => some ⟨gcm, [⟨o.a, o.p1, 1⟩, ⟨o.b, o.n0, 1⟩, ⟨o.c, 12, 1⟩], [⟨o.d, o.p1 + 16, 1⟩], []⟩
  | 2 => some ⟨gcm, [⟨o.a, o.p1 + 16, 1⟩, ⟨o.b, o.n0, 1⟩, ⟨o.c, 12, 1⟩], [⟨o.d, o.p1, 1⟩], []⟩
  | 3 => some ⟨o.zero (2 + 4 + 16 + 32 + 64 + 128 + 256 + 512 + 1024 + 2048), [⟨o.a, o.p1, 1⟩], [⟨o.d, 32, 1⟩], []⟩
  | 4 => some ⟨o.zero (8 + 16 + 32 + 64 + 128 + 256 + 512 + 1024 + 2048 + 4096), [⟨o.a, 32, 1⟩, ⟨o.b, 64, 1⟩, ⟨o.c, 64, 1⟩], [], []⟩
  | _ => none

/-- RDE operations (Table 10-17). -/
def limRde (op : Nat) (o : Opnd) : Option Lim :=
  let fs := [1, 2, 3, 6, 14, 15]
  let sa := fmtSize o.fa
  match op with
  | 1 => some ⟨inR 1 65535 o.n0 && fs.contains o.fa && fs.contains o.fb && fp32Only o.fd && o.zero (4 + 32 + 64 + 1024 + 2048 + 4096),
      [⟨o.a, o.n0 * sa, sa⟩, ⟨o.b, o.n0 * fmtSize o.fb, fmtSize o.fb⟩], [⟨o.d, 4 * o.n0, 4⟩], []⟩
  | 2 => some ⟨inR 1 64 o.n0 && inR 1 2048 o.n1 && fs.contains o.fa && fs.contains o.fb && fp32Only o.fd && o.zero (4 + 64 + 1024),
      [⟨o.a, (o.n1 - 1) * o.p0 + o.n0 * sa, sa⟩, ⟨o.b, (o.n1 - 1) * o.p1 + o.n0 * fmtSize o.fb, fmtSize o.fb⟩],
      [⟨o.d, 4 * o.n0 * o.n1, 4⟩], []⟩
  | 3 => some ⟨inR 1 65535 o.n0 && fs.contains o.fa && fp32Only o.fd && inR 0 4 o.mode && o.zero (2 + 4 + 32 + 64 + 256 + 2048 + 4096),
      [⟨o.a, o.n0 * sa, sa⟩], [⟨o.d, 4, 4⟩], []⟩
  | 4 => some ⟨inR 1 65535 o.n0 && fs.contains o.fa && o.zero (2 + 32 + 64 + 256 + 512 + 1024 + 2048 + 4096),
      [⟨o.a, o.n0 * sa, sa⟩, ⟨o.c, 8, 4⟩], [⟨o.d, (o.n0 + 7) / 8, 1⟩], []⟩
  | _ => none

/-- Index bytes of GTE GATHER: two bits cannot spell 4, which is taken as 0 (DEDUCED, log entry 13). -/
def gatherWidth (o : Opnd) : Nat := if o.p0 = 0 then 4 else o.p0

/-- GTE operations (Table 10-18). -/
def limGte (op : Nat) (o : Opnd) : Option Lim :=
  let f := fp32Only o.fa && fp32Only o.fb && fp32Only o.fd && decide (o.mode = 0)
  match op with
  | 1 => some ⟨f && inR 1 65535 o.n0 && inR 2 1024 o.n1 && o.zero (4 + 64 + 2048 + 4096),
      [⟨o.a, 4 * o.n0, 4⟩, ⟨o.b, 8 * o.n1, 4⟩], [⟨o.d, 4 * o.n0, 4⟩], []⟩
  | 2 => some ⟨f && inR 1 65535 o.n0 && inR 2 64 o.n1 && inR 2 64 o.n2 && o.zero (4 + 2048 + 4096),
      [⟨o.a, 8 * o.n0, 4⟩, ⟨o.b, 4 * (o.n1 + o.n2 + o.n1 * o.n2), 4⟩], [⟨o.d, 4 * o.n0, 4⟩], []⟩
  | 3 => some ⟨inR 1 65535 o.n0 && decide (o.p0 < 3) && inR 1 64 o.p1 && o.zero (4 + 64 + 128 + 256 + 512 + 1024),
      [⟨o.a, gatherWidth o * o.n0, gatherWidth o⟩, ⟨o.b, o.n1 * o.p1, 1⟩], [⟨o.d, o.n0 * o.p1, 1⟩], []⟩
  | 4 => some ⟨o.zero (2 + 4 + 16 + 32 + 64 + 256 + 1024 + 2048 + 4096) && decide (o.fa = 0 ∨ o.fa = 8 ∨ o.fa = 9 ∨ o.fa = 10) &&
      decide (o.fd = 0 ∨ o.fd = 2), [⟨o.a, 64, 64⟩], [⟨o.d, 2, 2⟩], []⟩
  | _ => none

/-- A range wholly within one area that Table 08-1 maps (R391). -/
def mapped (r : Rng) : Bool := decide (r.n = 0) || inArea r.a r.n

/-- DME operations (Table 10-15, R391), whose addresses may name any mapped address; `own` is the device's ID, if it has one: before
it has, R393 lets the descriptor run and end with REMOTE. A remote side is checked where it is reached. -/
def limDme (own : Option Nat) (op : Nat) (o : Opnd) : Bool :=
  let ids := nbit o.p0 31
  let srcHere := !ids || decide (own = some (o.p0 % 1024))
  let dstHere := !ids || decide (own = some (o.p0 / 65536 % 1024))
  let here := fun (b : Bool) (r : Rng) => !b || mapped r
  let base := decide (o.p0 / 1024 % 64 = 0 ∧ o.p0 / 2 ^ 27 % 16 = 0) && o.zero (32 + 64 + 128 + 256 + 512 + 1024) &&
    (srcHere || dstHere || own.isNone)
  let len := inR 1 16777216 o.p1
  base && match op with
    | 1 => len && o.zero (2 + 4 + 16) && here srcHere ⟨o.a, o.p1, 1⟩ && here dstHere ⟨o.d, o.p1, 1⟩ &&
        !(srcHere && dstHere && (Rng.mk o.a o.p1 1).meets ⟨o.d, o.p1, 1⟩)
    | 2 => len && o.zero (1 + 4 + 16) && decide (o.p1 % 4 = 0) && here dstHere ⟨o.d, o.p1, 1⟩
    | 3 => inR 1 4096 o.n0 && o.zero (1 + 4 + 4096) && mapped ⟨o.b, 8 * o.n0, 1⟩
    | 4 => inR 1 4096 o.n0 && o.zero (4 + 8 + 4096) && mapped ⟨o.b, 8 * o.n0, 1⟩
    | 5 => o.zero (4 + 16 + 4096) && here srcHere ⟨o.a, 8, 8⟩ && decide (o.a % 8 = 0) && mapped ⟨o.b, 8, 1⟩ && here dstHere ⟨o.d, 8, 1⟩
    | _ => false

/-- The limits of a class other than DME. -/
def limOf (cls op : Nat) (o : Opnd) : Option Lim :=
  match cls with
  | 0 => limSqe op o
  | 1 => limMxe op o
  | 2 => limKfe op o
  | 3 => limZle op o
  | 4 => limSpe op o
  | 5 => limFle op o
  | 6 => limTue op o
  | 7 => limCxe op o
  | 9 => limCre op o
  | 10 => limRde op o
  | 11 => limGte op o
  | _ => none

/-- The device's own ID while HL_ID.VALID = 1 (R523). -/
def Chip.ownId (c : Chip) : Option Nat := if c.bit 0x40040004 31 then some (c.fld 0x40040004 0 10) else none

/-- Check 2 of Table 09-2 for a descriptor of engine `e`. -/
def Chip.opOk (c : Chip) (e : Nat) (d : Desc) : Bool :=
  if engClass e = 8 then limDme c.ownId (d.at 0 1) d.opnd
  else match limOf (engClass e) (d.at 0 1) d.opnd with
    | some l => l.good e
    | none => false

/-- DOORBELL_PROCESS (R328, R330, R334). -/
def execDoorbellProcess (e : Nat) (s : State) : Host.Outcome State Fault Refusal :=
  s.onChip fun c => if 36 ≤ e then c else c.doorbellHead c.opOk e

end Sys2Proof.Machine
end

