-- ==== Sys2Proof/Machine/EngKfe.lean ====
section
/-! DEFINITION. Estimator engines (Table 10-8): small FP32 matrices, row-major. Sums of products run in index order, each product fused with
its addition (Table 10-4 counts FP32 FMAs); DESIGN CHOICE, log entry 14. -/
namespace Sys2Proof.Machine

/-- A matrix of FP32 patterns. -/
structure Mat where
  r : Nat
  c : Nat
  v : List Nat
  deriving DecidableEq, Repr

/-- One element. -/
def Mat.at (m : Mat) (i j : Nat) : Nat := nth m.v (i * m.c + j) 0
/-- A matrix from its elements. -/
def Mat.mk' (r c : Nat) (f : Nat → Nat → Nat) : Mat := ⟨r, c, (List.range (r * c)).map fun k => f (k / c) (k % c)⟩
/-- Transposed. -/
def Mat.t (m : Mat) : Mat := Mat.mk' m.c m.r fun i j => m.at j i
/-- A sum of fused products in index order. -/
def fmas (xs ys : List Nat) (s : Nat := 0) : Nat := (xs.zip ys).foldl (fun s t => fp32.fma t.1 t.2 s) s
/-- Row `i`. -/
def Mat.row (m : Mat) (i : Nat) : List Nat := (List.range m.c).map (m.at i)
/-- Column `j`. -/
def Mat.col (m : Mat) (j : Nat) : List Nat := (List.range m.r).map fun i => m.at i j
/-- A·B. -/
def Mat.mul (a b : Mat) : Mat := Mat.mk' a.r b.c fun i j => fmas (a.row i) (b.col j)
/-- A + B. -/
def Mat.add (a b : Mat) : Mat := Mat.mk' a.r a.c fun i j => fp32.add (a.at i j) (b.at i j)
/-- A − B. -/
def Mat.sub (a b : Mat) : Mat := Mat.mk' a.r a.c fun i j => fp32.sub (a.at i j) (b.at i j)
/-- The unit matrix. -/
def Mat.one (n : Nat) : Mat := Mat.mk' n n fun i j => if i = j then 0x3F800000 else 0
/-- (P + Pᵀ) ÷ 2 (R376). -/
def Mat.sym (m : Mat) : Mat := Mat.mk' m.r m.c fun i j => fp32.mul 0x3F000000 (fp32.add (m.at i j) (m.at j i))
/-- Every element times a factor. -/
def Mat.scale (m : Mat) (k : Nat) : Mat := Mat.mk' m.r m.c fun i j => fp32.mul k (m.at i j)
/-- The bytes of a matrix. -/
def Mat.bytes (m : Mat) : List Byte := m.v.flatMap (leBytes 4)

/-- `a` less a sum of fused products. -/
def lessSum (a : Nat) (xs ys : List Nat) : Nat := (xs.zip ys).foldl (fun s t => fp32.fma (fp32.neg t.1) t.2 s) a

/-- Column `j` of a Cholesky factor whose earlier columns are `l`; none when the pivot is not greater than zero. -/
def cholCol (a l : Mat) (j : Nat) : Option Mat :=
  let p := lessSum (a.at j j) ((l.row j).take j) ((l.row j).take j)
  if !fp32.lt 0 p then none
  else
    let d := fp32.sqrt p
    some (Mat.mk' a.r a.r fun i k =>
      if k ≠ j then l.at i k
      else if i < j then 0
      else if i = j then d
      else fp32.div (lessSum (a.at i j) ((l.row i).take j) ((l.row j).take j)) d)

/-- A Cholesky factor, column by column; the second part is the failing column, from which on the columns are zero (R376). -/
def cholFrom (a : Mat) : Nat → Nat → Mat → Mat × Option Nat
  | 0, _, l => (l, none)
  | k + 1, j, l => match cholCol a l j with
    | some l => cholFrom a k (j + 1) l
    | none => (l, some j)

/-- L with L·Lᵀ = A. -/
def Mat.chol (a : Mat) : Mat × Option Nat := cholFrom a a.r 0 (Mat.mk' a.r a.r fun _ _ => 0)

/-- One column of L⁻¹·B, from the top. -/
def forwardSub (l : Mat) (b : List Nat) : List Nat :=
  (List.range l.r).foldl (fun x i => x ++ [fp32.div (lessSum (nth b i 0) ((l.row i).take i) x) (l.at i i)]) []

/-- One column of L⁻ᵀ·B, from the bottom. -/
def backwardSub (l : Mat) (b : List Nat) : List Nat :=
  (List.range l.r).reverse.foldl (fun x i =>
    fp32.div (lessSum (nth b i 0) (((List.range l.r).drop (i + 1)).map fun k => l.at k i) x) (l.at i i) :: x) []

/-- A matrix from its columns. -/
def ofCols (r : Nat) (cs : List (List Nat)) : Mat := Mat.mk' r cs.length fun i j => nth (nth cs j []) i 0

/-- A matrix read from memory. -/
def emat (w : Who) (a r c : Nat) : EngM Mat := do
  return ⟨r, c, raw32 1 (← eread w a (4 * r * c)) (r * c)⟩

/-- MATMUL's work. -/
def matmul (w : Who) (_ : Desc) (o : Opnd) : EngM OpRes := do
  let p := (← emat w o.a o.n0 o.n1).mul (← emat w o.b o.n1 o.n2)
  let p ← if o.p0 = 1 then do pure (p.add (← emat w o.c o.n0 o.n2)) else pure p
  ewrite w o.d p.bytes
  return eok 0

/-- CHOL's work (R376). -/
def cholWork (w : Who) (_ : Desc) (o : Opnd) : EngM OpRes := do
  let (l, bad) := (← emat w o.a o.n0 o.n0).chol
  ewrite w o.d l.bytes
  match bad with
  | some j => efault 4 j
  | none => return eok 0

/-- TRISOLVE's work. -/
def trisolve (w : Who) (_ : Desc) (o : Opnd) : EngM OpRes := do
  let l ← emat w o.a o.n0 o.n0
  let b ← emat w o.b o.n0 o.n2
  ewrite w o.d (ofCols o.n0 ((List.range o.n2).map fun j => if o.p0 = 1 then backwardSub l (b.col j) else forwardSub l (b.col j))).bytes
  return eok 0

/-- F·P·Fᵀ + Q, symmetrised (R376). -/
def covPredict (f p q : Mat) : Mat := (((f.mul p).mul f.t).add q).sym

/-- COV_PREDICT's work. -/
def covWork (w : Who) (_ : Desc) (o : Opnd) : EngM OpRes := do
  ewrite w o.d (covPredict (← emat w o.a o.n0 o.n0) (← emat w o.b o.n0 o.n0) (← emat w o.c o.n0 o.n0)).bytes
  return eok 0

/-- The Joseph-form update of a state x and covariance P: none with the failing column when the innovation covariance is not
positive definite (R376). -/
def ekf (x p h y hx r : Mat) : (Mat × Mat) ⊕ Nat :=
  let s := ((h.mul p).mul h.t).add r
  match s.chol with
  | (_, some j) => .inr j
  | (l, none) =>
    let hp := h.mul p
    let z := ofCols h.r ((List.range p.r).map fun j => backwardSub l (forwardSub l (hp.col j)))
    let k := z.t
    let a := (Mat.one p.r).sub (k.mul h)
    .inl (x.add (k.mul (y.sub hx)), (((a.mul p).mul a.t).add ((k.mul r).mul k.t)).sym)

/-- EKF_UPDATE's work. -/
def ekfWork (w : Who) (_ : Desc) (o : Opnd) : EngM OpRes := do
  let n := o.n0
  let m := o.n1
  let x ← emat w o.a n 1
  let p ← emat w (o.a + 4 * n) n n
  let h ← emat w o.b m n
  let y ← emat w o.c m 1
  let hx ← emat w (o.c + 4 * m) m 1
  let r ← emat w (o.c + 8 * m) m m
  match ekf x p h y hx r with
  | .inl (x, p) => do
    ewrite w o.d (x.bytes ++ p.bytes)
    return eok 0
  | .inr j => do
    ewrite w o.d (← eread w o.a (4 * (n + n * n)))
    efault 4 j

/-- UKF_SIGMA's work: x, then x + each column of chol((n + λ)·P), then x − each column. -/
def ukfWork (w : Who) (_ : Desc) (o : Opnd) : EngM OpRes := do
  let n := o.n0
  let x ← emat w o.a n 1
  let p ← emat w (o.a + 4 * n) n n
  match (p.scale (fp32.add (fp32.ofInt n 0) o.p0)).chol with
  | (l, none) => do
    let col := fun (f : Nat → Nat → Nat) j => ((List.range n).map fun i => f (x.at i 0) (l.at i j))
    ewrite w o.d ((x.v ++ ((List.range n).flatMap (col fp32.add)) ++ ((List.range n).flatMap (col fp32.sub))).flatMap (leBytes 4))
    return eok 0
  | (_, some j) => efault 4 j

/-- An FP32 field of a context. -/
def ectx (w : Who) (ctx off : Nat) : EngM Nat := do
  return leNat (← eread w (ctx + off) 4)

/-- One RC pair advanced: e = exp(−dt ÷ (R·C)) and e·V + R·(1 − e)·I (R377). -/
def rcStep (dt i r c v : Nat) : NlOut × Nat :=
  let e := nonlin 2 1 (fp32.neg (fp32.div dt (fp32.mul r c)))
  (e, fp32.fma e.y v (fp32.mul (fp32.mul r (fp32.sub 0x3F800000 e.y)) i))

/-- V of the circuit (R377). -/
def ecmVolt (ocv i rser va vb : Nat) : Nat := fp32.sub (fp32.sub (fp32.fma (fp32.neg i) rser ocv) va) vb

/-- ECM_EVAL for one cell (R377, R468). -/
def ecmCell (w : Who) (o : Opnd) (k : Nat) : EngM Nat := do
  let ctx := o.b + 2048 * k
  let i := leNat (← eread w (o.a + 4 * k) 4)
  let va ← ectx w ctx 0x44
  let vb ← ectx w ctx 0x48
  let rser ← ectx w ctx 0x4C
  let ocv ← ectx w ctx 0x90
  let (ea, va) := rcStep o.p0 i (← ectx w ctx 0x98) (← ectx w ctx 0x9C) va
  let (eb, vb) := rcStep o.p0 i (← ectx w ctx 0xA0) (← ectx w ctx 0xA4) vb
  ewrite w (ctx + 0x44) (leBytes 4 va ++ leBytes 4 vb)
  ewrite w (o.d + 16 * k) ([ecmVolt ocv i rser va vb, ea.y, eb.y, rser].flatMap (leBytes 4))
  return nlFlags [ea, eb]

/-- ECM_EVAL's work. -/
def ecmWork (w : Who) (_ : Desc) (o : Opnd) : EngM OpRes := do
  let fs ← (List.range o.n2).mapM (ecmCell w o)
  return eok (fs.foldl (· ||| ·) 0)

/-- A product of two FP32 values in Q32.32, ties to even; the spec states none where one is not finite (R378). -/
def coulombs (i dt : Nat) : Int :=
  match fp32.toQ i, fp32.toQ dt with
  | some x, some y => ((x.mul y).scale 32).round
  | _, _ => sext 32 (Config.openValue 8 [i, dt]).toNat

/-- An integrator after one product; the Boolean says it saturated (R378). -/
def coulombAdd (p : Int × Bool) (z : Int) : Int × Bool :=
  let s := p.1 + z
  let t := clampI (-(2 ^ 63)) (2 ^ 63 - 1) s
  (t, p.2 || decide (s ≠ t))

/-- COULOMB for one cell. -/
def coulombCell (w : Who) (o : Opnd) (k : Nat) : EngM Bool := do
  let is := raw32 1 (← eread w (o.a + 4 * o.n1 * k) (4 * o.n1)) o.n1
  let at_ := o.b + 2048 * k + 0xB0
  let old := sext 64 (leNat (← eread w at_ 8))
  let r := is.foldl (fun p i => coulombAdd p (coulombs i o.p0)) (old, false)
  ewrite w at_ (leBytes 8 (tc 64 r.1))
  return r.2

/-- COULOMB's work (R378). -/
def coulombWork (w : Who) (_ : Desc) (o : Opnd) : EngM OpRes := do
  let ss ← (List.range o.n2).mapM (coulombCell w o)
  return eok (if ss.any id then 2 ^ 24 else 0)

/-- MATMUL (Table 10-8, R379). -/
def execMatmul (e : Nat) (s : State) : Host.Outcome State Fault Refusal := s.onChip fun c => c.perform e 2 1 matmul

/-- CHOL (R376). -/
def execChol (e : Nat) (s : State) : Host.Outcome State Fault Refusal := s.onChip fun c => c.perform e 2 2 cholWork

/-- TRISOLVE (Table 10-8). -/
def execTrisolve (e : Nat) (s : State) : Host.Outcome State Fault Refusal := s.onChip fun c => c.perform e 2 3 trisolve

/-- COV_PREDICT (R376). -/
def execCovPredict (e : Nat) (s : State) : Host.Outcome State Fault Refusal := s.onChip fun c => c.perform e 2 4 covWork

/-- EKF_UPDATE (R376). -/
def execEkfUpdate (e : Nat) (s : State) : Host.Outcome State Fault Refusal := s.onChip fun c => c.perform e 2 5 ekfWork

/-- UKF_SIGMA (Table 10-8). -/
def execUkfSigma (e : Nat) (s : State) : Host.Outcome State Fault Refusal := s.onChip fun c => c.perform e 2 6 ukfWork

/-- ECM_EVAL (R377). -/
def execEcmEval (e : Nat) (s : State) : Host.Outcome State Fault Refusal := s.onChip fun c => c.perform e 2 7 ecmWork

/-- COULOMB (R378). -/
def execCoulomb (e : Nat) (s : State) : Host.Outcome State Fault Refusal := s.onChip fun c => c.perform e 2 8 coulombWork

end Sys2Proof.Machine
end

