-- ==== Sys2Proof/Machine/Stream.lean ====
section
/-! DEFINITION. The CXE stream format (R642 to R648, Table 17-6). Bits are packed least significant first within each byte, and every block
begins on a byte boundary. -/
namespace Sys2Proof.Machine

/-- The low `n` bits of a number, least significant first. -/
def bitsOf (n v : Nat) : List Bool := (List.range n).map fun i => v.testBit i

/-- The number that bits spell, least significant first. -/
def bitsNat : List Bool → Nat
  | [] => 0
  | b :: r => (if b then 1 else 0) + 2 * bitsNat r

/-- Bits packed into `n` bytes. -/
def packBits : Nat → List Bool → List Byte
  | 0, _ => []
  | n + 1, bs => BitVec.ofNat 8 (bitsNat (bs.take 8)) :: packBits n (bs.drop 8)

/-- Bits packed into as many bytes as they fill. -/
def packAll (bs : List Bool) : List Byte := packBits ((bs.length + 7) / 8) bs

/-- 0, −1, 1, −2, … to 0, 1, 2, 3, … (R645). -/
def zigzag (d : Int) : Nat := if 0 ≤ d then (2 * d).toNat else (-2 * d - 1).toNat

/-- Back again. -/
def unzigzag (u : Nat) : Int := if u % 2 = 0 then (u / 2 : Nat) else -((u + 1) / 2 : Nat)

/-- Bits of one Rice code (R645). -/
def riceLen (w k u : Nat) : Nat := if u / 2 ^ k < 24 then u / 2 ^ k + 1 + k else 24 + w

/-- One Rice code. -/
def riceCode (w k u : Nat) : List Bool :=
  if u / 2 ^ k < 24 then List.replicate (u / 2 ^ k) true ++ [false] ++ bitsOf k u else List.replicate 24 true ++ bitsOf w u

/-- The k that gives the fewest bits, the lowest of several. -/
def riceBest (w : Nat) (us : List Nat) : Nat :=
  let cost := fun k => us.foldl (fun s u => s + riceLen w k u) 0
  ((List.range w).foldl (fun (b : Nat × Nat) k => let c := cost k; if c < b.2 then (k, c) else b) (0, cost 0)).1

/-- A LOSSLESS or NEAR block from its zigzag values (R645). -/
def riceBlock (w : Nat) (us : List Nat) : List Byte :=
  let k := riceBest w us
  leBytes 1 k ++ packAll (us.flatMap (riceCode w k))

/-- The number of leading ones, at most 24, and the bits after them and their closing zero; none where the bits end. -/
def riceUnary : Nat → List Bool → Option (Nat × List Bool)
  | 0, bs => some (0, bs)
  | _, [] => none
  | _ + 1, false :: r => some (0, r)
  | n + 1, true :: r => (riceUnary n r).map fun x => (x.1 + 1, x.2)

/-- One code read. -/
def riceRead (w k : Nat) (bs : List Bool) : Option (Nat × List Bool) :=
  match riceUnary 24 bs with
  | none => none
  | some (q, r) =>
    let n := if q < 24 then k else w
    if r.length < n then none
    else some ((if q < 24 then q * 2 ^ k else 0) + bitsNat (r.take n), r.drop n)

/-- `n` codes read. -/
def riceReads (w k : Nat) : Nat → List Bool → Option (List Nat × List Bool)
  | 0, bs => some ([], bs)
  | n + 1, bs => match riceRead w k bs with
    | none => none
    | some (u, r) => (riceReads w k n r).map fun x => (u :: x.1, x.2)

/-- The quantised residual and reconstruction of one NEAR element (R646). -/
def nearStep (wd e : Nat) (prev x : Int) : Int × Int :=
  let d := x - prev
  let w := 2 * e + 1
  let q : Int := (if d < 0 then -1 else 1) * (((d.natAbs + e) / w : Nat) : Int)
  (q, clampI (-(2 ^ (wd - 1) : Nat)) ((2 ^ (wd - 1) : Nat) - 1) (prev + q * w))

/-- The zigzag values of a block's elements, from what came before: LOSSLESS (mode 1) and NEAR (mode 2). -/
def resid (mode wd e : Nat) (prev : Int) : List Nat → List Nat × Int
  | [] => ([], prev)
  | x :: r =>
    if mode = 1 then
      let (us, p) := resid mode wd e (sext wd x) r
      (zigzag (sext wd (tc wd (sext wd x - prev))) :: us, p)
    else
      let (q, rec_) := nearStep wd e prev (sext wd x)
      let (us, p) := resid mode wd e rec_ r
      (zigzag q :: us, p)

/-- The elements that zigzag values restore. -/
def restore (mode wd e : Nat) (prev : Int) : List Nat → List Nat × Int
  | [] => ([], prev)
  | u :: r =>
    let x : Int := if mode = 1 then sext wd (tc wd (prev + unzigzag u))
      else clampI (-(2 ^ (wd - 1) : Nat)) ((2 ^ (wd - 1) : Nat) - 1) (prev + unzigzag u * (2 * e + 1 : Nat))
    let (xs, p) := restore mode wd e x r
    (tc wd x :: xs, p)

/-- The binary format of a BFP element type (Table 17-6). -/
def bfpFmt (f : Nat) : Fmt := if f = 1 then fp32 else if f = 2 then fp16 else bf16

/-- A BFP block (R647): 16-bit EXP, then its elements. -/
def bfpBlock (f m : Nat) (xs : List Nat) : List Byte :=
  let g := bfpFmt f
  if xs.any fun x => !g.isFin x then leBytes 2 0x7FFF ++ xs.flatMap (leBytes (fmtSize f))
  else
    let a := xs.foldl (fun a x => max a (x % g.signBit)) 0
    match g.dec a with
    | .num _ n q =>
      if n = 0 then leBytes 2 0x8000
      else
        let ex : Int := (Nat.log2 n : Int) + q
        let mag := fun (x : Nat) => match g.dec x with
          | .num _ n q =>
            let sh := q + m - ex
            let r : Int := if 0 ≤ sh then ((n * 2 ^ sh.toNat : Nat) : Int) else shrEven n (-sh).toNat
            min r.toNat (2 ^ (m + 1) - 1)
          | _ => 0
        leBytes 2 (tc 16 ex) ++ packAll (xs.flatMap fun x => decide (g.signBit ≤ x) :: bitsOf (m + 1) (mag x))
    | _ => leBytes 2 0x8000

/-- The bytes of one coded block. -/
def codedBlock (mode f wd par : Nat) (prev : Int) (xs : List Nat) : List Byte × Int :=
  if mode = 3 then (bfpBlock f par xs, 0)
  else let (us, p) := resid mode wd par prev xs; (riceBlock wd us, p)

/-- Blocks coded while they fit the capacity (R644): the bytes, the index of the first raw block and what follows it raw. -/
def codeBlocks (mode f wd par bl cap : Nat) : Nat → Nat → Nat → Int → List Nat → List Byte × Nat
  | 0, j, _, _, _ => ([], j)
  | k + 1, j, used, prev, xs =>
    let (b, p) := codedBlock mode f wd par prev (xs.take bl)
    let later := (xs.drop bl).length * (wd / 8)
    if 16 + used + b.length + later ≤ cap then
      let (bs, raw) := codeBlocks mode f wd par bl cap k (j + 1) (used + b.length) p (xs.drop bl)
      (b ++ bs, raw)
    else (xs.flatMap (leBytes (wd / 8)), j)

/-- A stream (R642 to R647) from elements of `wd` bits, and whether it fell back to raw blocks (R390): `f` is the BFP format code, `par`
E or m, `blog` the BFP block size. -/
def compressOf (mode f wd par blog cap : Nat) (xs : List Nat) : List Byte × Bool :=
  let etype := if mode = 3 then f else wd / 16
  let bl := if mode = 3 then blog else 6
  let n := xs.length
  let nb := if mode = 0 then 0 else (n + 2 ^ bl - 1) / 2 ^ bl
  let (body, raw) := if mode = 0 then (xs.flatMap (leBytes (wd / 8)), 0) else codeBlocks mode f wd par (2 ^ bl) cap nb 0 0 0 xs
  (leBytes 1 0xC5 ++ leBytes 1 (mode + 4 * etype) ++ leBytes 1 (if mode < 2 then 0 else par) ++ leBytes 1 (if mode = 0 then 0 else bl) ++
    leBytes 4 n ++ leBytes 4 (16 + body.length) ++ leBytes 4 raw ++ body, decide (raw < nb))

/-- A stream header. -/
structure CxHdr where
  mode : Nat
  etype : Nat
  par : Nat
  blog : Nat
  count : Nat
  len : Nat
  raw : Nat
  deriving DecidableEq, Repr

/-- Bits of an element. -/
def CxHdr.wd (h : CxHdr) : Nat := if h.mode = 3 then fmtBits h.etype else 8 * 2 ^ h.etype
/-- Blocks. -/
def CxHdr.blocks (h : CxHdr) : Nat := if h.mode = 0 then 0 else (h.count + 2 ^ h.blog - 1) / 2 ^ h.blog

/-- A header that keeps Table 17-6 (R648). -/
def cxHdr (b : List Byte) : Option CxHdr :=
  let m := leAt b 1 1
  let h : CxHdr := ⟨m % 4, m / 4 % 4, leAt b 2 1, leAt b 3 1, leAt b 4 4, leAt b 8 4, leAt b 12 4⟩
  let ok := decide (b.length = 16 ∧ leAt b 0 1 = 0xC5 ∧ m < 16) &&
    (if h.mode = 3 then decide (1 ≤ h.etype ∧ 1 ≤ h.par ∧ h.par ≤ 23 ∧ 4 ≤ h.blog ∧ h.blog ≤ 10)
      else decide (h.etype < 3) && decide (h.blog = if h.mode = 0 then 0 else 6) &&
        (if h.mode = 2 then decide (1 ≤ h.par ∧ h.par ≤ 64) else decide (h.par = 0)))
  if ok && decide (h.raw ≤ h.blocks) then some h else none

/-- The value ±M × 2^(EXP − m) in the stream's format (R647). -/
def bfpValue (f m : Nat) (ex : Int) (bits : List Bool) : Nat :=
  (bfpFmt f).enc (bits.headD false) (bitsNat (bits.drop 1)) 1 (ex - m)

/-- One coded block read: its elements, what it leaves as the previous element, and the bytes after it. -/
def readBlock (h : CxHdr) (n : Nat) (prev : Int) (bs : List Byte) : Option (List Nat × Int × List Byte) :=
  if h.mode = 3 then
    let ex := leAt bs 0 2
    let r := bs.drop 2
    let sz := fmtSize h.etype
    if bs.length < 2 then none
    else if ex = 0x7FFF then
      if r.length < n * sz then none else some ((List.range n).map fun i => leAt r (i * sz) sz, 0, r.drop (n * sz))
    else if ex = 0x8000 then some (List.replicate n 0, 0, r)
    else
      let nb := (n * (h.par + 2) + 7) / 8
      if r.length < nb then none
      else
        let bits := (r.take nb).flatMap fun b => bitsOf 8 b.toNat
        some ((List.range n).map fun i => bfpValue h.etype h.par (sext 16 ex) ((bits.drop (i * (h.par + 2))).take (h.par + 2)), 0, r.drop nb)
  else match bs with
    | [] => none
    | b :: r =>
      let k := b.toNat
      if h.wd ≤ k then none
      else match riceReads h.wd k n (r.flatMap fun b => bitsOf 8 b.toNat) with
        | none => none
        | some (us, left) =>
          let (xs, p) := restore h.mode h.wd h.par prev us
          some (xs, p, r.drop (r.length - left.length / 8))

/-- The elements of a stream's body up to its first faulty block, and whether none is faulty (R648). -/
def readBlocks (h : CxHdr) : Nat → Nat → Int → List Byte → List Nat × Bool
  | 0, _, _, _ => ([], true)
  | k + 1, j, prev, bs =>
    let bl := 2 ^ h.blog
    let n := min bl (h.count - j * bl)
    let sz := h.wd / 8
    let got := if h.raw ≤ j then
        (if bs.length < n * sz then none else some ((List.range n).map fun i => leAt bs (i * sz) sz, prev, bs.drop (n * sz)))
      else readBlock h n prev bs
    match got with
    | none => ([], false)
    | some (xs, p, r) => let (ys, ok) := readBlocks h k (j + 1) p r; (xs ++ ys, ok)

/-- The elements a stream's body decodes to, and whether it is well formed. -/
def expand (h : CxHdr) (body : List Byte) : List Nat × Bool :=
  if h.mode = 0 then
    let sz := h.wd / 8
    if body.length < h.count * sz then ([], false) else ((List.range h.count).map fun i => leAt body (i * sz) sz, true)
  else readBlocks h h.blocks 0 0 body

end Sys2Proof.Machine
end

