-- ==== Sys2Proof/Machine/EngMisc.lean ====
section
/-! DEFINITION. Compression, crypto, reduce and table engines (Tables 10-13 to 10-18). -/
namespace Sys2Proof.Machine

/-! ### CXE -/

/-- COMPRESS's work (R390, R644). -/
def compressWork (w : Who) (_ : Desc) (o : Opnd) : EngM OpRes := do
  let sz := cxeSize o
  let n := o.n0 * 64 + o.n1
  let b ← eread w o.a (n * sz)
  let (out, fell) := compressOf o.mode o.fa (8 * sz) (if o.mode = 3 then o.p0 / 256 % 32 else o.p0 % 256) (o.p0 / 65536) (o.p1 / 256)
    ((List.range n).map fun i => leAt b (i * sz) sz)
  ewrite w o.d out
  return eok (out.length % 2 ^ 24 + if fell then 2 ^ 24 else 0)

/-- DECOMPRESS's work (R648). -/
def decompressWork (w : Who) (_ : Desc) (o : Opnd) : EngM OpRes := do
  match cxHdr (← eread w o.a 16) with
  | none => efault 7
  | some h =>
    let sz := h.wd / 8
    if h.len < 16 then efault 7
    else if !rangeOk w.e o.a h.len 1 then efault 1
    else if o.p1 / 256 < h.count * sz then efault 7
    else
      let (xs, ok) := expand h (← eread w (o.a + 16) (h.len - 16))
      ewrite w o.d (xs.flatMap (leBytes sz))
      if ok then return eok (h.count * sz % 2 ^ 24) else efault 7

/-- COMPRESS (R644). -/
def execCompress (e : Nat) (s : State) : Host.Outcome State Fault Refusal := s.onChip fun c => c.perform e 7 1 compressWork

/-- DECOMPRESS (R648). -/
def execDecompress (e : Nat) (s : State) : Host.Outcome State Fault Refusal := s.onChip fun c => c.perform e 7 2 decompressWork

/-! ### CRE -/

/-- The key of a slot that the descriptor's class may use (R395, Table 20-4). -/
def Chip.creKey (c : Chip) (slot cls : Nat) : Option (List Byte) :=
  match nth c.sec.slots slot none with
  | some k => if nbit k.cls cls then some k.key else none
  | none => none

/-- GCM_ENC's work (R395). -/
def gcmEncWork (w : Who) (_ : Desc) (o : Opnd) : EngM OpRes := do
  match (← get).creKey (o.p0 % 256) w.cls with
  | none => efault 6
  | some key =>
    let iv ← eread w o.c 12
    let aad ← eread w o.b o.n0
    let ct := gcmCrypt key iv (← eread w o.a o.p1)
    ewrite w o.d (ct ++ gcmTag key iv aad ct)
    return eok 0

/-- GCM_DEC's work (R395, R396): on a mismatch the output range is zeros. -/
def gcmDecWork (w : Who) (_ : Desc) (o : Opnd) : EngM OpRes := do
  match (← get).creKey (o.p0 % 256) w.cls with
  | none => efault 6
  | some key =>
    let iv ← eread w o.c 12
    let aad ← eread w o.b o.n0
    let ct ← eread w o.a o.p1
    let tag ← eread w (o.a + o.p1) 16
    let ok := gcmTag key iv aad ct == tag
    ewrite w o.d (if ok then gcmCrypt key iv ct else List.replicate o.p1 0)
    return eok (if ok then 1 else 0)

/-- SHA256's work. -/
def shaWork (w : Who) (_ : Desc) (o : Opnd) : EngM OpRes := do
  ewrite w o.d (sha256 (← eread w o.a o.p1))
  return eok 0

/-- ECDSA_VERIFY's work (R396). -/
def ecdsaWork (w : Who) (_ : Desc) (o : Opnd) : EngM OpRes := do
  return eok (if ecdsaOk (← eread w o.a 32) (← eread w o.b 64) (← eread w o.c 64) then 1 else 0)

/-- GCM_ENC (R395). -/
def execGcmEnc (e : Nat) (s : State) : Host.Outcome State Fault Refusal := s.onChip fun c => c.perform e 9 1 gcmEncWork

/-- GCM_DEC (R396). -/
def execGcmDec (e : Nat) (s : State) : Host.Outcome State Fault Refusal := s.onChip fun c => c.perform e 9 2 gcmDecWork

/-- SHA256 (Table 10-16). -/
def execSha256 (e : Nat) (s : State) : Host.Outcome State Fault Refusal := s.onChip fun c => c.perform e 9 3 shaWork

/-- ECDSA_VERIFY (R396). -/
def execEcdsaVerify (e : Nat) (s : State) : Host.Outcome State Fault Refusal := s.onChip fun c => c.perform e 9 4 ecdsaWork

/-! ### RDE -/

/-- DIFF's work. -/
def diffWork (w : Who) (_ : Desc) (o : Opnd) : EngM OpRes := do
  let a := raw32 o.fa (← eread w o.a (o.n0 * fmtSize o.fa)) o.n0
  let b := raw32 o.fb (← eread w o.b (o.n0 * fmtSize o.fb)) o.n0
  ewrite w o.d ((a.zip b).flatMap fun x => leBytes 4 (fp32.sub x.1 x.2))
  return eok 0

/-- STRIDED_DIFF's work (R486). -/
def stridedWork (w : Who) (_ : Desc) (o : Opnd) : EngM OpRes := do
  (List.range o.n1).forM fun r => do
    let a := raw32 o.fa (← eread w (o.a + r * o.p0) (o.n0 * fmtSize o.fa)) o.n0
    let b := raw32 o.fb (← eread w (o.b + r * o.p1) (o.n0 * fmtSize o.fb)) o.n0
    ewrite w (o.d + 4 * o.n0 * r) ((a.zip b).flatMap fun x => leBytes 4 (fp32.sub x.1 x.2))
  return eok 0

/-- Neighbours added in pairs; one left over stays. -/
def pairUp : List Nat → List Nat
  | a :: b :: r => fp32.add a b :: pairUp r
  | l => l

/-- The pairwise tree of R397, level by level. -/
def treeSum : Nat → List Nat → Nat
  | 0, l => l.headD 0
  | k + 1, l => match l with
    | [] => 0
    | [x] => x
    | l => treeSum k (pairUp l)

/-- The first index at which `better` holds against every element before it, and that element. -/
def firstBest (better : Nat → Nat → Bool) : List (Nat × Nat) → Option (Nat × Nat)
  | [] => none
  | x :: r => match firstBest better r with
    | none => some x
    | some y => if better y.1 x.1 then some y else some x

/-- REDUCE of FP32 values (R397): the value and RESULT. -/
def reduceOf (mode : Nat) (xs : List Nat) : Nat × Nat :=
  let live := xs.zipIdx.filter fun x => !fp32.isNan x.1
  let nans := sat 8 (xs.length - live.length)
  let vs := live.map fun x => x.1
  let out := fun (y : Nat) (idx : Nat) =>
    let ovf := !fp32.isNan y && !fp32.isFin y
    (if ovf then (if fp32.signBit ≤ y then fp32Max + fp32.signBit else fp32Max) else y,
      idx + 65536 * nans + if ovf then 2 ^ 24 else 0)
  let pick := fun (o : Option (Nat × Nat)) => match o with
    | some x => out x.1 x.2
    | none => ((Config.openValue 40 [mode]).toNat, 65536 * nans)
  match mode with
  | 0 => out (treeSum 17 vs) 0
  | 1 => out (treeSum 17 (vs.map fun x => fp32.mul x x)) 0
  | 2 => pick (firstBest fp32.lt live)
  | 3 => pick (firstBest (fun y x => fp32.lt x y) live)
  | _ => pick (firstBest (fun y x => fp32.lt x y) (live.map fun x => (fp32.abs x.1, x.2)))

/-- REDUCE's work. -/
def reduceWork (w : Who) (_ : Desc) (o : Opnd) : EngM OpRes := do
  let (y, res) := reduceOf o.mode (raw32 o.fa (← eread w o.a (o.n0 * fmtSize o.fa)) o.n0)
  ewrite w o.d (leBytes 4 y)
  return eok res

/-- BAND's work: bit i of the mask tells that element i is outside [lo, hi]. -/
def bandWork (w : Who) (_ : Desc) (o : Opnd) : EngM OpRes := do
  let xs := raw32 o.fa (← eread w o.a (o.n0 * fmtSize o.fa)) o.n0
  let b ← eread w o.c 8
  let out := xs.map fun x => !(fp32.le (leAt b 0 4) x && fp32.le x (leAt b 4 4))
  ewrite w o.d (packAll out)
  return eok (out.filter id).length

/-- DIFF (Table 10-17). -/
def execDiff (e : Nat) (s : State) : Host.Outcome State Fault Refusal := s.onChip fun c => c.perform e 10 1 diffWork

/-- STRIDED_DIFF (R486). -/
def execStridedDiff (e : Nat) (s : State) : Host.Outcome State Fault Refusal := s.onChip fun c => c.perform e 10 2 stridedWork

/-- REDUCE (R397). -/
def execReduce (e : Nat) (s : State) : Host.Outcome State Fault Refusal := s.onChip fun c => c.perform e 10 3 reduceWork

/-- BAND (R397). -/
def execBand (e : Nat) (s : State) : Host.Outcome State Fault Refusal := s.onChip fun c => c.perform e 10 4 bandWork

/-! ### GTE -/

/-- The axis ascends strictly. -/
def axisUp : List Nat → Bool
  | a :: b :: r => fp32.lt a b && axisUp (b :: r)
  | _ => true

/-- Where an input falls on an axis: the segment, the fraction of it, and whether the input was clamped (R398). -/
def axisAt (ax : List Nat) (x : Nat) : Nat × Nat × Bool :=
  if fp32.lt x (ax.headD 0) then (0, 0, true)
  else if fp32.lt (ax.getLastD 0) x then (ax.length - 2, 0x3F800000, true)
  else
    let i := min (ax.length - 2) ((ax.filter fun a => fp32.le a x).length - 1)
    let a := nth ax i 0
    (i, fp32.div (fp32.sub x a) (fp32.sub (nth ax (i + 1) 0) a), false)

/-- y0 + t·(y1 − y0), exact at both ends. -/
def lerp (t y0 y1 : Nat) : Nat := if t = 0x3F800000 then y1 else fp32.fma t (fp32.sub y1 y0) y0

/-- One INTERP1 output. -/
def interp1 (ax ys : List Nat) (x : Nat) : Nat × Bool :=
  let (i, t, cl) := axisAt ax x
  (lerp t (nth ys i 0) (nth ys (i + 1) 0), cl)

/-- One INTERP2 output: along the second axis, then along the first. -/
def interp2 (ax ay vs : List Nat) (x y : Nat) : Nat × Bool :=
  let (i, t, c1) := axisAt ax x
  let (j, u, c2) := axisAt ay y
  let v := fun a b => nth vs (a * ay.length + b) 0
  (lerp t (lerp u (v i j) (v i (j + 1))) (lerp u (v (i + 1) j) (v (i + 1) (j + 1))), c1 || c2)

/-- Interpolated outputs written, with the count of clamped inputs; an axis that does not ascend gives zeros and TABLE (R398). -/
def interpOut (w : Who) (o : Opnd) (up : Bool) (outs : List (Nat × Bool)) : EngM OpRes := do
  if up then do
    ewrite w o.d (outs.flatMap fun x => leBytes 4 x.1)
    return eok (sat 16 (outs.filter fun x => x.2).length)
  else do
    ewrite w o.d (List.replicate (4 * o.n0) 0)
    efault 3

/-- INTERP1's work. -/
def interp1Work (w : Who) (_ : Desc) (o : Opnd) : EngM OpRes := do
  let t := raw32 1 (← eread w o.b (8 * o.n1)) (2 * o.n1)
  let xs := raw32 1 (← eread w o.a (4 * o.n0)) o.n0
  interpOut w o (axisUp (t.take o.n1)) (xs.map (interp1 (t.take o.n1) (t.drop o.n1)))

/-- INTERP2's work. -/
def interp2Work (w : Who) (_ : Desc) (o : Opnd) : EngM OpRes := do
  let k := o.n1 + o.n2 + o.n1 * o.n2
  let t := raw32 1 (← eread w o.b (4 * k)) k
  let ax := t.take o.n1
  let ay := (t.drop o.n1).take o.n2
  let xs := raw32 1 (← eread w o.a (8 * o.n0)) (2 * o.n0)
  interpOut w o (axisUp ax && axisUp ay)
    ((List.range o.n0).map fun i => interp2 ax ay (t.drop (o.n1 + o.n2)) (nth xs (2 * i) 0) (nth xs (2 * i + 1) 0))

/-- GATHER's work (R399). -/
def gteGatherWork (w : Who) (_ : Desc) (o : Opnd) : EngM OpRes := do
  let iw := gatherWidth o
  let b ← eread w o.a (iw * o.n0)
  let idx := (List.range o.n0).map fun i => leAt b (iw * i) iw
  let rows ← idx.mapM fun i => if i < o.n1 then eread w (o.b + i * o.p1) o.p1 else pure (List.replicate o.p1 0)
  ewrite w o.d rows.flatten
  return eok (sat 16 (idx.filter fun i => decide (o.n1 ≤ i)).length)

/-- DECODE's work (R399, R423). -/
def decodeWork (w : Who) (_ : Desc) (o : Opnd) : EngM OpRes := do
  let h ← ehdr w o.a fun h => decide ((h.fmt = 8 ∨ h.fmt = 9 ∨ h.fmt = 10) ∧ (o.fa = 0 ∨ o.fa = h.fmt))
  if !rangeOk w.e o.d (2 * h.rows * h.cols) 2 then efault 1
  else
    (List.range h.rows).forM fun r => do
      let s ← escale w h r
      let es ← erow w h r
      ewrite w (o.d + 2 * h.cols * r) (es.flatMap fun x => match x with
        | .esc v => encBytes 2 0 v
        | .val v => encBytes 2 0 (fp32.mul s v))
    return eok 0

/-- INTERP1 (R398). -/
def execInterp1 (e : Nat) (s : State) : Host.Outcome State Fault Refusal := s.onChip fun c => c.perform e 11 1 interp1Work

/-- INTERP2 (R398). -/
def execInterp2 (e : Nat) (s : State) : Host.Outcome State Fault Refusal := s.onChip fun c => c.perform e 11 2 interp2Work

/-- GTE GATHER (R399). -/
def execGteGather (e : Nat) (s : State) : Host.Outcome State Fault Refusal := s.onChip fun c => c.perform e 11 3 gteGatherWork

/-- DECODE (R423). -/
def execDecode (e : Nat) (s : State) : Host.Outcome State Fault Refusal := s.onChip fun c => c.perform e 11 4 decodeWork

end Sys2Proof.Machine
end

