-- ==== Sys2Proof/Machine/EngSqe.lean ====
section
/-! DEFINITION. Sequence engines and matrix engines (10_engine_catalogue.md, Tables 10-6 and 10-7). -/
namespace Sys2Proof.Machine

/-- State elements of a learned model (Table 13-4). -/
def stateCount (op h klen : Nat) : Nat := if op = 2 then 2 * h else if op = 4 then h * (klen - 1) else h

/-- Adapter parameters of a learned model (R470, R471): the down-projection, r rows of H, and the up-projection, G·H rows of r. -/
def adapterCount (op h r : Nat) : Nat := r * h * (1 + gatesOf op)

/-- `n` BF16 elements from an address, as FP32 patterns. -/
def ebf16 (w : Who) (a n : Nat) : EngM (List Nat) := do
  return raw32 3 (← eread w a (2 * n)) n

/-- A sum of rounded products in index order. -/
def macs (xs ys : List Nat) : Nat := (xs.zip ys).foldl (fun s t => fp32.add s (fp32.mul t.1 t.2)) 0

/-- B·(A·h) for output row `i` (R471). -/
def adapterTerm (ad hid : List Nat) (h r i : Nat) : Nat :=
  let down := (List.range r).map fun j => macs ((ad.drop (j * h)).take h) hid
  macs ((ad.drop (r * h + i * r)).take r) down

/-- A weight row: its scale and its elements. -/
abbrev WRow := Nat × List Elem

/-- Gate pre-activations of one cell (R429, R431, R432, R471): columns are the inputs, then the hidden state. -/
def preActs (rows : List WRow) (x hid ad : List Nat) (h r : Nat) : List Nat :=
  rows.zipIdx.map fun t =>
    let p := dotSum (x ++ hid) t.1.2
    let y := dotScale 0x3F800000 t.1.1 p.1 p.2
    if r = 0 then y else fp32.add y (adapterTerm ad hid h r t.2)

/-- One cell advanced (R373, R468, R470): its new state is written in place, and its trace where asked. -/
def sqeCell (w : Who) (o : Opnd) (op : Nat) (rows : List WRow) (i : Nat) : EngM Unit := do
  let ctx := o.b + 2048 * i
  let r := o.p0 % 8
  let n := stateCount op o.n0 (o.p0 / 256)
  let x := raw32 o.fb (← eread w (o.c + i * (o.p1 % 65536)) (o.n1 * fmtSize o.fb)) o.n1
  let st ← ebf16 w (ctx + 0x100) n
  let ad ← ebf16 w (ctx + 0x100 + 2 * n) (adapterCount op o.n0 r)
  let par := if op ≤ 2 then preActs rows x (st.take o.n0) ad o.n0 r else rows.flatMap (fun t => t.1 :: t.2.map Elem.x) ++ ad
  ewrite w (ctx + 0x100) ((List.range n).flatMap fun k => leBytes 2 (Config.cellState op par x st k).toNat)
  if nbit o.mode 0 then
    let tb := traceBytes o.n0 o.n1
    ewrite w (o.d + i * tb) ((List.range tb).map fun k => Config.cellTrace op par x st k)

/-- The step of a learned model for all cells of a descriptor (R369 to R373, R415, R416). -/
def sqeStep (op : Nat) (w : Who) (_ : Desc) (o : Opnd) : EngM OpRes := do
  let hd ← ehdr w o.a fun h => decide (2 < op) || decide (h.rows = gatesOf op * o.n0 ∧ h.cols = o.n1 + o.n0)
  let rows ← (List.range hd.rows).mapM fun r => do
    let s ← escale w hd r
    let es ← erow w hd r
    pure (s, es)
  (List.range o.n2).forM (sqeCell w o op rows)
  return eok 0

/-- GRU_STEP (R370 to R373). -/
def execGruStep (e : Nat) (s : State) : Host.Outcome State Fault Refusal := s.onChip fun c => c.perform e 0 1 (sqeStep 1)

/-- LSTM_STEP. -/
def execLstmStep (e : Nat) (s : State) : Host.Outcome State Fault Refusal := s.onChip fun c => c.perform e 0 2 (sqeStep 2)

/-- SSM_STEP. -/
def execSsmStep (e : Nat) (s : State) : Host.Outcome State Fault Refusal := s.onChip fun c => c.perform e 0 3 (sqeStep 3)

/-- CONV1D_STEP. -/
def execConv1dStep (e : Nat) (s : State) : Host.Outcome State Fault Refusal := s.onChip fun c => c.perform e 0 4 (sqeStep 4)

/-- NL_APPLY's work (R367, R368). -/
def nlApply (w : Who) (_ : Desc) (o : Opnd) : EngM OpRes := do
  let xs := raw32 o.fa (← eread w o.a (o.n0 * fmtSize o.fa)) o.n0
  let ys := xs.map (nonlin o.mode o.fd)
  ewrite w o.d (ys.flatMap fun y => encBytes o.fd 0 y.y)
  return eok (nlFlags ys)

/-- NL_APPLY. -/
def execNlApply (e : Nat) (s : State) : Host.Outcome State Fault Refusal := s.onChip fun c => c.perform e 0 0x10 nlApply

/-! ### MXE -/

/-- The activation of an epilogue (Table 10-7). -/
def epilogue (act f y : Nat) : NlOut :=
  match act with
  | 0 => ⟨y, false, false⟩
  | 1 => ⟨if fp32.lt y 0 then 0 else y, false, false⟩
  | k => nonlin (k - 2) f y

/-- A rescale table entry (Table 11-6): M and SH, none when reserved bits are set (R435). -/
def rqEntry (b : List Byte) : Option (Int × Nat) :=
  if leAt b 4 1 < 64 ∧ leAt b 5 3 = 0 then some (sext 32 (leAt b 0 4), leAt b 4 1) else none

/-- The integer rescale of one accumulator (R434). -/
def rescale (v : Int) (m : Int) (sh : Nat) (z : Int) (relu : Bool) : Int :=
  let p := shrEven (v * m) sh
  let q := p + z
  clampI (-128) 127 (if relu then max q z else q)

/-- One row of B as the product uses it: its scale, its elements and its integers. -/
structure BRow where
  s : Nat
  els : List Elem
  ints : List Int
  deriving Repr

/-- The FP32 outputs of row `m` before the epilogue (R429, R430, R433, R436); `cs` are the C elements where there are any. -/
def gemmRow (int : Bool) (sa : Nat) (a : List Elem) (ai : List Int) (bs : List BRow) (cs : Option (List Nat)) : List Nat :=
  bs.zipIdx.map fun t =>
    let y :=
      if int then dotScale sa t.1.s (fp32.ofInt (dotInt ai t.1.ints) 0) 0
      else if a.any fun x => match x with | .esc _ => true | .val _ => false then
        (Config.openValue 100 (sa :: t.1.s :: a.map Elem.x ++ t.1.els.map Elem.x)).toNat
      else let p := dotSum (a.map Elem.x) t.1.els; dotScale sa t.1.s p.1 p.2
    match cs with
    | some l => fp32.add y (nth l t.2 0)
    | none => y

/-- GEMM's work, with C where `acc` says so (R374, R375, R430 to R436). -/
def gemm (acc : Bool) (w : Who) (d : Desc) (o : Opnd) : EngM OpRes := do
  let int := isIntFmt o.fa
  let act := o.p0 % 8
  let rs := o.p0 / 8
  let ha ← ehdr w o.a fun h => decide (h.fmt = o.fa ∧ h.rows = o.n0 ∧ h.cols = o.n2)
  let hb ← ehdr w o.b fun h => decide (h.fmt = o.fb ∧ h.rows = o.n1 ∧ h.cols = o.n2) && (decide (rs ≠ 1) || h.flag 4)
  let tens := decide (o.fd = 4 ∨ o.fd = 5 ∨ o.fd = 6)
  let hd ← if tens then ehdr w o.d fun h => decide (h.fmt = o.fd ∧ h.rows = o.n0 ∧ h.cols = o.n1) && h.outOk true else pure ha
  let bs ← (List.range o.n1).mapM fun n => do
    let s ← if rs = 0 then escale w hb n else pure 0x3F800000
    if int then do let l ← eints w hb n; pure (BRow.mk s [] l) else do let l ← erow w hb n; pure (BRow.mk s l [])
  let (ms, fl) ← (List.range o.n0).foldlM (fun (p : Misses × Nat) m => do
    let sa ← if rs = 0 then escale w ha m else pure 0x3F800000
    let a ← if int then pure [] else erow w ha m
    let ai ← if int then eints w ha m else pure []
    let cb ← if acc then eread w (o.c + 4 * o.n1 * m) (4 * o.n1) else pure []
    let ci := (List.range o.n1).map fun n => if acc then sext 32 (leAt cb (4 * n) 4) else 0
    let sums := bs.zipIdx.map fun t => clampI (-(2 ^ 31)) (2 ^ 31 - 1) (dotInt ai t.1.ints + nth ci t.2 0)
    if rs = 1 then
      let zd := sext 8 hd.z
      let codes ← sums.zipIdx.mapM fun t => do
        match rqEntry (← eread w (hb.rq + 8 * t.2) 8) with
        | some (mul, sh) => pure (BitVec.ofNat 8 (tc 8 (rescale t.1 mul sh zd (decide (act = 1)))))
        | none => efault 3
      ewrite w (hd.data + m * hd.rowBytes) codes
      pure p
    else
      let cs := if acc then some ((List.range o.n1).map fun n => dec32 (if int then 14 else 1) 0 (leAt cb (4 * n) 4)) else none
      let ys := (gemmRow int sa a ai bs cs).map (epilogue act o.fd)
      let xs := ys.map NlOut.y
      let fl := p.2 ||| nlFlags ys
      if tens then do
        let ms ← eoutRow w hd (d.flag 1) m xs 0 p.1
        pure (ms, fl)
      else if o.fd = 14 then do
        ewrite w (o.d + 4 * o.n1 * m) (xs.zipIdx.flatMap fun t =>
          leBytes 4 (if int ∧ act ≤ 1 then tc 32 (if act = 1 then max 0 (nth sums t.2 0) else nth sums t.2 0)
            else (Config.openValue 14 [t.1]).toNat))
        pure (p.1, fl)
      else do
        ewrite w (o.d + fmtSize o.fd * o.n1 * m) (xs.flatMap (encBytes o.fd 0))
        pure (p.1, fl)) (⟨0, 0⟩, 0)
  return ms.res fl

/-- GEMM. -/
def execGemm (e : Nat) (s : State) : Host.Outcome State Fault Refusal := s.onChip fun c => c.perform e 1 1 (gemm false)

/-- GEMM_ACC. -/
def execGemmAcc (e : Nat) (s : State) : Host.Outcome State Fault Refusal := s.onChip fun c => c.perform e 1 2 (gemm true)

end Sys2Proof.Machine
end

