-- ==== Sys2Proof/Machine/Context.lean ====
section
/-! DEFINITION. Cell contexts, model records and Lockets (13_cell_estimation.md), and how a context is initialised (Table 03-5). -/
namespace Sys2Proof.Machine

/-! ### Model records -/

/-- An FP32 pattern at an offset. -/
def f32At (b : List Byte) (off : Nat) : Nat := leAt b off 4

/-- TYPE, RANK, H, X and KLEN of a model record. -/
def mType (m : List Byte) : Nat := leAt m 4 1
/-- RANK. -/
def mRank (m : List Byte) : Nat := leAt m 5 1
/-- H. -/
def mH (m : List Byte) : Nat := leAt m 6 2
/-- X. -/
def mX (m : List Byte) : Nat := leAt m 8 1
/-- KLEN. -/
def mKlen (m : List Byte) : Nat := leAt m 9 1
/-- State elements S. -/
def mS (m : List Byte) : Nat := stateCount (mType m) (mH m) (mKlen m)
/-- Adapter parameters N. -/
def mN (m : List Byte) : Nat := adapterCount (mType m) (mH m) (mRank m)
/-- The step period in µs. -/
def mPeriod (m : List Byte) : Nat := leAt m 0x0A 1 * 10000

/-- A model record keeps Table 13-3 and R470, and its features' sources are known (R474). -/
def modelOk (m : List Byte) : Bool :=
  decide (m.length = 192) && inR 1 4 (mType m) && decide (mRank m ≤ 4) && inR 2 128 (mH m) && inR 1 8 (mX m) &&
    (if mType m = 4 then inR 1 16 (mKlen m) else decide (mKlen m = 0)) && inR 1 100 (leAt m 0x0A 1) && decide (leAt m 0x0B 1 ≤ 8) &&
    decide (leAt m 0x68 2 ≤ leAt m 0x0A 1 * 10 ∧ leAt m 0x6A 2 = 0 ∧ leAt m 0xAC 20 = 0 ∧ mS m + mN m ≤ 896) &&
    (List.range (mX m)).all fun j => decide (leAt m (0x6C + 8 * j) 1 ≤ 5 ∧ leAt m (0x6D + 8 * j) 1 = 0)

/-- The model record at an index; an empty one where the image has none. -/
def modelRec (k : SysConf) (i : Nat) : List Byte := (nth k.models i ([], ⟨0, 0, []⟩)).1
/-- What the image gives beside it. -/
def modelMore (k : SysConf) (i : Nat) : ModelMore := (nth k.models i ([], ⟨0, 0, []⟩)).2
/-- The record for a CHEM_ID; 16, which names none, where the image maps it to nothing. -/
def modelFor (k : SysConf) (chem : Nat) : Nat := (Sparse.find chem k.chems).getD 16

/-- FP32 values in memory. -/
def Chip.f32s (c : Chip) (a n : Nat) : List Nat := (List.range n).map fun i => c.peekLe (a + 4 * i) 4

/-- An INTERP1 table in memory read at `x`: its breakpoints, then its values (Table 10-18). -/
def Chip.table (c : Chip) (a n x : Nat) : Nat := (interp1 (c.f32s a n) (c.f32s (a + 4 * n) n) x).1

/-- The breakpoint at which a table takes the value `y`: the table read with its columns exchanged (03, "From OCV"). -/
def Chip.tableBack (c : Chip) (a n y : Nat) : Nat := (interp1 (c.f32s (a + 4 * n) n) (c.f32s a n) y).1

/-- P_INIT on the diagonal times 2^INFL (03, "Inflated"). -/
def inflated (m : List Byte) : List Nat :=
  let f := fp32.ofInt (2 ^ leAt m 0x0B 1 : Nat) 0
  (List.range 16).map fun i => if i % 5 = 0 then fp32.mul (f32At m (0x20 + 4 * (i / 5))) f else 0

/-- The hidden state interpolated from the image's initial-state table at a SoC: element by element in FP32, then BF16. -/
def Chip.hiddenAt (c : Chip) (m : List Byte) (pts : List Nat) (soc : Nat) : List Byte :=
  let n := mS m
  let row := fun i => raw32 3 (c.peekN (leAt m 0x18 4 + 2 * n * i) (2 * n)) n
  let es := match pts with
    | [] => List.replicate n 0
    | [_] => row 0
    | ps =>
      let (i, t, _) := axisAt ps soc
      ((row i).zip (row (i + 1))).map fun (x : Nat × Nat) => lerp t x.1 x.2
  es.flatMap fun x => encBytes 3 0 x

/-! ### Contexts -/

/-- X of a context: SOC, VPA, VPB, RSER. -/
def ctxX (b : List Byte) (i : Nat) : Nat := f32At b (0x40 + 4 * i)

/-- FP32 patterns as bytes. -/
def f32Bytes (l : List Nat) : List Byte := l.flatMap (leBytes 4)

/-- Several fields of some bytes replaced. -/
def putAll (b : List Byte) (l : List (Nat × List Byte)) : List Byte := l.foldl (fun b x => splice b x.1 x.2) b

/-- What an initialisation needs to know of a cell: its model record's index, its tap, the tray tag, the cell's first settled voltage and
the current, in FP32. -/
structure CellStart where
  model : Nat
  tap : Nat
  volt : Nat
  amps : Nat
  deriving DecidableEq, Repr

/-- Header fields every initialisation sets (Table 13-2), LAST being empty until a first step (R100). -/
def Chip.ctxHead (c : Chip) (z : CellStart) (warm init : Nat) : List (Nat × List Byte) :=
  let id := c.fld 0x40040004 0 10
  let ok := decide (c.fw.tagStat = 0 ∨ c.fw.tagStat = 3)
  [(0, leBytes 4 0x58544E43 ++ leBytes 1 1 ++ leBytes 1 0 ++ leBytes 1 z.model ++ leBytes 1 warm ++ leBytes 2 id ++ leBytes 1 z.tap ++
      leBytes 1 init),
    (0x10, if ok then padTo 16 (slice c.fw.tag 8 16) else List.replicate 16 0),
    (0x20, if ok then padTo 8 (slice c.fw.tag (0x20 + 8 * z.tap) 8) else List.replicate 8 0),
    (0x38, leBytes 2 id), (0xC0, List.replicate 32 0)]

/-- A value of the Coulomb integrator that Table 03-5 takes from OCV or corrects by it, which no rule computes (DESIGN CHOICE, log entry 22). -/
def coulombOpen (code : Nat) (l : List Nat) : List Byte :=
  leBytes 4 (Config.openValue code (0 :: l)).toNat ++ leBytes 4 (Config.openValue code (1 :: l)).toNat

/-- The fields that Table 03-5 takes from OCV: X, P, OCV, DOCV, the hidden state and the integrator, with `rser` in use. -/
def Chip.fromOcv (c : Chip) (k : SysConf) (z : CellStart) (rser : Nat) : List (Nat × List Byte) :=
  let m := modelRec k z.model
  let e := modelMore k z.model
  let v := fp32.sub z.volt (fp32.mul rser z.amps)
  let soc := c.tableBack (leAt m 0x10 4) e.ocvN v
  [(0x40, f32Bytes ([soc, 0, 0, rser] ++ inflated m)),
    (0x90, f32Bytes [c.table (leAt m 0x10 4) e.ocvN soc, c.table (leAt m 0x14 4) e.docvN soc]),
    (0xB0, coulombOpen 52 [soc, v]), (0x100, c.hiddenAt m e.socPts soc)]

/-- Case 3 of Table 03-5: no usable Locket. -/
def Chip.startCase3 (c : Chip) (k : SysConf) (z : CellStart) : List Byte :=
  let m := modelRec k z.model
  let blank : List Byte := List.replicate 2048 0
  putAll blank (c.ctxHead z 64 3 ++ [(0x98, slice m 0x4C 16), (0xA8, slice m 0x5C 4)] ++ c.fromOcv k z (f32At m 0x48) ++
    [(0x100 + 2 * mS m, c.peekN (leAt m 0x1C 4) (2 * mN m))])

/-- A Locket's header fields (Table 13-8). -/
structure Locket where
  rtc : Nat
  step : Nat
  writer : List Byte
  ctx : List Byte
  deriving DecidableEq, Repr

/-- A Locket read back: none when it fails under R498 for the model record in force. -/
def locketOf (b : List Byte) (m : List Byte) : Option Locket :=
  let n := leAt b 6 2
  let st := slice b 64 n
  if leAt b 0 4 ≠ 0x544B434C ∨ leAt b 4 2 ≠ 1 ∨ b.length < 64 + n ∨ leAt b 0x3C 4 ≠ crc32 (b.take 0x3C ++ st) ∨
      leAt b 0x38 4 ≠ crc32 m then none
  else match cxHdr (st.take 16) with
    | none => none
    | some h =>
      let (xs, ok) := expand h (slice st 16 (h.len - 16))
      let d := xs.flatMap (leBytes (h.wd / 8))
      if 16 ≤ h.len ∧ ok = true ∧ d.length = 2048 then some ⟨leAt b 0x28 8, leAt b 0x30 4, slice b 0x20 8, d⟩ else none

/-- The Locket's tray serial and cell identity are those of the tag now read (R41, R39, R40). -/
def Chip.locketMatches (c : Chip) (b : List Byte) (tap : Nat) : Bool :=
  decide (c.fw.tagStat = 0 ∧ slice b 8 16 = slice c.fw.tag 8 16 ∧ slice b 0x18 8 = slice c.fw.tag (0x20 + 8 * tap) 8)

/-- A context restored from a Locket (Table 03-5, cases 1 and 2; R500): `rest` is the rest time in s, FP32, where it is known. -/
def Chip.startLocket (c : Chip) (k : SysConf) (z : CellStart) (l : Locket) (rest : Option Nat) : List Byte :=
  let m := modelRec k z.model
  let b := l.ctx
  let stamp : List (Nat × List Byte) := [(0x0C, leBytes 4 l.step), (0x30, leBytes 8 l.rtc)]
  match rest with
  | some t =>
    putAll b (c.ctxHead z 0 1 ++ stamp ++
      [(0x50, leBytes 4 (fp32.add (f32At b 0x50) (fp32.mul (f32At m 0x44) t))), (0xB0, coulombOpen 53 [leAt b 0xB0 4, leAt b 0xB4 4, z.volt])])
  | none => putAll b (c.ctxHead z 64 2 ++ stamp ++ c.fromOcv k z (ctxX b 3))

/-- The adapter and the equivalent-circuit parameters of a Locket put into a context (R107). -/
def takeParams (m : List Byte) (b l : List Byte) : List Byte :=
  let a := 0x100 + 2 * mS m
  putAll b [(0x4C, slice l 0x4C 4), (0x98, slice l 0x98 16), (a, slice l a (2 * mN m))]

/-- A Locket of a context (R497). -/
def Chip.makeLocket (c : Chip) (k : SysConf) (b : List Byte) : List Byte :=
  let m := modelRec k (leAt b 6 1)
  let st := (compressOf 1 0 16 0 0 2064 ((List.range 1024).map fun i => leAt b (2 * i) 2)).1
  let h := leBytes 4 0x544B434C ++ leBytes 2 1 ++ leBytes 2 st.length ++ slice b 0x10 16 ++ slice b 0x20 8 ++ padTo 8 c.ownSerial ++
    leBytes 8 c.clocks.rtc ++ slice b 0x0C 4 ++ leBytes 4 (leAt m 0 4) ++ leBytes 4 (crc32 m)
  h ++ leBytes 4 (crc32 (h ++ st)) ++ st

/-- The seconds since an RTC count, in FP32. -/
def Chip.sinceRtc (c : Chip) (t : Nat) : Nat := rtcSeconds (c.clocks.rtc - t)

end Sys2Proof.Machine
end

