-- ==== Sys2Proof/Machine/FwLoad.lean ====
section
/-! DEFINITION. What the image's firmware does when it starts and with its NVM stores: calibration restore, the tray tag, context
initialisation and Lockets (03_start_up.md, 01_system_roles.md, 06_converters_and_sequencing.md, 13_cell_estimation.md). -/
namespace Sys2Proof.Machine

/-! ### Calibration store -/

/-- The words of converter `n` that a record holds valid: 0 and 3 to 7 with CONV, 1 and 2 with the pair's interleave factors (R255). -/
def calWordValid (v n w : Nat) : Bool := if w = 1 ∨ w = 2 then nbit v (4 + n / 2) else nbit v n

/-- The factors of a calibration record loaded and their valid bits set (R101, R254, R255). -/
def Chip.calLoad (c : Chip) (r : List Byte) : Chip :=
  let v := leAt r 6 2
  let put := fun (c : Chip) (a off : Nat) => c.setReg a (BitVec.ofNat 32 (leAt r off 4))
  let c := (List.range 32).foldl (fun c i =>
    if calWordValid v (i / 8) (i % 8) && (cardOf (0x40010140 + 4 * i)).isSome then put c (0x40010140 + 4 * i) (0x20 + 4 * i) else c) c
  let c := (List.range 4).foldl (fun c i => if nbit v (6 + i / 2) then put c (0x40010120 + 4 * i) (0xC0 + 4 * i) else c) c
  let c := if nbit v 8 then (List.range 8).foldl (fun c i => put c (0x400101E0 + 4 * i) (0xA0 + 4 * i)) c else c
  c.setFld 0x40010110 0 9 (v % 512)

/-- Calibration restore (R101, R102, R255). -/
def State.calRestore (s : State) : State :=
  let (age, s) := s.slotsByAge calSlot 2 0
  match age with
  | [] => s
  | n :: _ =>
    let r := s.slotData (calSlot n)
    if leAt r 0 4 = 0x4C414343 ∧ leAt r 4 2 = 1 ∧ slice r 8 8 = s.chip.ownSerial then { s with chip := s.chip.calLoad r }
    else { s with chip := s.chip.fwLog 0x42 0 }

/-- The calibration record (Table 06-9); which DIE_TEMP code it holds is open (DESIGN CHOICE, log entry 4). -/
def Chip.calRecord (c : Chip) (zint : Bool) : List Byte × Chip :=
  let (t, c) := c.drawWord
  (leBytes 4 0x4C414343 ++ leBytes 2 1 ++ leBytes 2 (c.fld 0x40010110 0 9) ++ padTo 8 c.ownSerial ++ leBytes 8 c.clocks.rtc ++
    leBytes 2 t ++ leBytes 1 (if zint then 3 else 0) ++ leBytes 5 0 ++ c.block 0x40010140 32 ++ c.block 0x400101E0 8 ++
    c.block 0x40010120 4, c)

/-- CAL_END (R242, R248): firmware then stores the calibration record if a phase ended with OK. -/
def execCalEnd (s : State) : Host.Outcome State Fault Refusal :=
  let c := s.chip
  if !(c.sense.cal.started && c.sense.cal.req.isEmpty) then .next s
  else
    let ok := (List.range 5).any fun p => decide (Machine.fld (c.reg 0x4001010C) (4 * p) 4 = 2)
    let zint := c.sense.cal.zint
    let s : State := { s with chip := c.calFinish }
    if ok && s.chip.fwRuns then
      let (r, c) := s.chip.calRecord zint
      .next (State.storeWrite { s with chip := c } calSlot 2 0 r).2
    else .next s

/-! ### Tray tag -/

/-- MAGIC, LAYOUT and CRC of a tag are right (R36). -/
def tagReads (b : List Byte) : Bool :=
  decide (b.length = 256 ∧ leAt b 0 4 = 0x47544D4C ∧ leAt b 4 2 = 1 ∧ leAt b 0xFC 4 = crc32 (b.take 0xFC))

/-- SERIES, PARALLEL, TRAY_SERIAL and SLOT of a tag lie in their ranges (R37). -/
def tagFields (b : List Byte) : Bool :=
  inR 6 20 (leAt b 6 1) && inR 1 32 (leAt b 7 1) && decide (slice b 8 16 ≠ List.replicate 16 0) &&
    !(inR 1022 0xFFFE (leAt b 0x1A 2))

/-- The tag after one read, and a second where the first fails on MAGIC, LAYOUT or CRC (R36, R37): the bytes and TAGSTAT, a mismatch left
out. -/
def readTag (reads : List (Option (List Byte))) : List Byte × Nat :=
  let t1 := nth reads 0 none
  let t2 := nth reads 1 none
  let good := fun (t : Option (List Byte)) => match t with | some b => tagReads b | none => false
  let t := if good t1 then t1 else t2
  match t with
  | some b => if good t && tagFields b then (b, 0) else (b, 2)
  | none => if t1.isSome then ([], 2) else ([], 1)

/-- The tag taken into use (R36 to R40): TAGSTAT with TAG_MISMATCH, and its log entry. -/
def Chip.takeTag (c : Chip) (k : SysConf) (reads : List (Option (List Byte))) : Chip :=
  let (b, st) := readTag reads
  let chem := leAt b 0x1C 4
  let want := k.series.find? fun x => decide (x.1 = chem ∧ x.2.1 = leAt b 0x18 2)
  let st := match want with
    | some x => if st = 0 ∧ x.2.2 ≠ leAt b 6 1 then 3 else st
    | none => st
  let usable := decide (st = 0 ∨ st = 3)
  let series := if st = 0 then leAt b 6 1 else if st = 3 then (want.map fun x => x.2.2).getD 0 else k.defSeries
  let c := { c with
    fw.tag := if usable then b else [], fw.tagStat := st, fw.chem := if usable then chem else k.defChem, fw.series := series }
  if st = 0 ∨ (st = 1 ∧ k.defSeries = 0) then c else c.fwLog (0x42 + st) 0

/-! ### Contexts -/

/-- The rest time of a Locket of this device's own store is known (03, "First use with no history"; R54): none where it is not. -/
def Chip.ownRest (c : Chip) (l : Locket) : Option Nat :=
  if l.writer = padTo 8 c.ownSerial ∧ c.restUnknown = false ∧ c.power.restAt ≤ l.rtc ∧ l.rtc ≤ c.clocks.rtc then some (c.sinceRtc l.rtc)
  else none

/-- The usable Locket of a slot in the own store: the newest valid slot's, or the other's where that one is rejected (R103, R140). -/
def State.storedLocket (s : State) (m : List Byte) (i tap : Nat) : Option Locket × State :=
  let (age, s) := s.slotsByAge (locketSlot i) 3 i
  (age.findSome? fun n =>
    let b := s.slotData (locketSlot i n)
    match locketOf b m with
    | some l => if s.chip.locketMatches b tap then some l else none
    | none => none, s)

/-- Own cell `tap` initialised (R104, R500). -/
def State.startCell (s : State) (k : SysConf) (volts : List Nat) (amps tap : Nat) : State :=
  let z : CellStart := ⟨modelFor k s.chip.fw.chem, tap, nth volts tap 0, amps⟩
  let m := modelRec k z.model
  let (l, s) := s.storedLocket m tap tap
  let c := s.chip
  let (b, warm) := match l with
    | some l =>
      let rest := c.ownRest l
      (c.startLocket k z l rest, rest.isNone)
    | none => (c.startCase3 k z, true)
  let c := c.fwPut (ctxAt k tap) b
  { s with chip := { c with
    fw.reinit := if warm then c.fw.reinit ++ [tap] else c.fw.reinit
    fw.retrain := if l.isSome then c.fw.retrain ++ [tap] else c.fw.retrain } }

/-- Every context slot empty. -/
def Chip.clearSlots (c : Chip) (k : SysConf) : Chip :=
  (c.hosted k).foldl (fun c i => c.fwPut (ctxAt k i) (leBytes 4 0)) c

/-- IMAGE_LOADED (R129, R101, R36 to R41, R104, R563): the sections are loaded; `part` is what the PARTITION section writes, `conf` what
SYSCONF gives, `tags` what the reads of the tray tag brought, and `volts` and `amps` the first settled sweep and the current in FP32 (log
entries 2 and 20). A failing slot leaves only what the fallback makes (R132, R133). -/
def execImageLoaded (part : List (Nat × Word)) (conf : SysConf) (tags : List (Option (List Byte))) (volts : List Nat) (amps : Nat)
    (s : State) : Host.Outcome State Fault Refusal :=
  if s.chip.boot.rom ≠ .loading then .next s
  else
    match s.imageLoad part with
    | (false, s) => .next s
    | (true, s) =>
      let s : State := { s with chip := { s.chip with fw := { Fw.fresh with conf := some conf }, mgr := Mgr.fresh } }
      let s := s.calRestore
      let s : State := { s with chip := (s.chip.takeTag conf tags).clearSlots conf }
      let s := (List.range (min 20 s.chip.fw.series)).foldl (fun s i => s.startCell conf volts amps i) s
      .next { s with chip := s.chip.discShow }

/-! ### Lockets -/

/-- A Locket in staging slot `tap` of LOCKET_IN that is usable for own cell `tap` (R103). -/
def Chip.stagedLocket (c : Chip) (k : SysConf) (tap : Nat) : Option Locket :=
  let b := c.peekN (k.locketIn + 4096 * tap) 4096
  match locketOf b (modelRec k (leAt (c.ctx k tap) 6 1)) with
  | some l => if c.locketMatches b tap then some l else none
  | none => none

/-- The Locket of a staging slot taken for the next boundary by a context that started under case 2 or 3 (R107). -/
def Chip.lateLocket (c : Chip) (k : SysConf) (tap : Nat) : Chip :=
  let b := c.ctx k tap
  if c.fw.series ≤ tap ∨ ctxLive b = false ∨ leAt b 0x0B 1 < 2 then c
  else match c.stagedLocket k tap with
    | some l => { c with fw.late := Sparse.put tap l.ctx c.fw.late }
    | none => c

/-- LOCKET_LATE_ARRIVAL (R107, R41): the Locket delivered in staging slot `tap` serves the next boundary. -/
def execLocketLateArrival (tap : Nat) (s : State) : Host.Outcome State Fault Refusal :=
  s.onChip fun c => c.withConf fun k => if tap < 20 then c.lateLocket k tap else c

/-- What the boundary takes from Lockets that have arrived (R107, R463). -/
def Chip.applyLate (c : Chip) (k : SysConf) : Chip :=
  let c := c.fw.late.foldl (fun (c : Chip) x =>
    let b := c.ctx k x.1
    if ctxLive b then
      { c with fw.retrain := c.fw.retrain.filter (fun i => decide (i ≠ x.1)) ++ [x.1] }.fwPut (ctxAt k x.1)
        (takeParams (modelRec k (leAt b 6 1)) b x.2)
    else c) c
  { c with fw.late := [] }

/-- A data mover's copy into the context at `a` is running (R462). -/
def Chip.copyRuns (c : Chip) (a : Nat) : Bool :=
  [26, 27, 28, 29].any fun e => match (c.engine e).run with
    | some r => decide (r.d.opnd.d < a + 2048 ∧ a < r.d.opnd.d + max 1 r.d.opnd.p1)
    | none => false

/-- Slot `i` is a staging slot of a remote-resident context (R494). -/
def Chip.isStaging (c : Chip) (i : Nat) : Bool := c.fw.taken.any fun t => decide (t.slot = i ∧ t.remote = true)

/-- LOCKET_CAPTURE (R143, R462, R497, R499, R500): the context in slot `i` is compressed and stored; not from a staging slot, and not while a
copy into it runs. A manager notes the store in its cell table (Table 15-7). -/
def execLocketCapture (i : Nat) (s : State) : Host.Outcome State Fault Refusal :=
  let c := s.chip
  match c.fw.conf with
  | none => .next s
  | some k =>
    let b := c.ctx k i
    if !c.fwRuns || decide (c.slotCount ≤ i) || !ctxLive b || c.isStaging i || c.copyRuns (ctxAt k i) || c.xspi.isSome then .next s
    else
      let s := (s.storeWrite (locketSlot i) 3 i (c.makeLocket k b)).2
      .next { s with chip := s.chip.onCell (leAt b 8 2 + 1024 * leAt b 0x0A 1) fun x => { x with rtc := c.clocks.rtc } }

end Sys2Proof.Machine
end

