-- ==== Sys2Proof/Machine/Estimate.lean ====
section
/-! DEFINITION. The estimation step of the image's firmware: the input vector, the learned and the classical step, result records and the
hand-off to Belfry (13_cell_estimation.md). Each engine operation of a step is one descriptor that an engine of its class which is not OFF
performs; its limits, its refused accesses and its faults end it as they end any descriptor (R483; DESIGN CHOICE, log entry 21). -/
namespace Sys2Proof.Machine

/-! ### Filter outputs -/

/-- A filter output record as firmware reads it: VALUE, its TIME in pack time in ns, CHAN, PATH, and the five flags from SETTLING on. -/
structure OutRec where
  value : Int
  ns : Nat
  chan : Nat
  path : Nat
  flags : Nat
  seq : Nat
  deriving DecidableEq, Repr

/-- Pack time in ns of a TIME (R279), whose count is that many SD_CTL clocks of 12.5 ns ago. -/
def Chip.outNs (c : Chip) (time : Nat) : Nat :=
  c.clocks.packNs - (c.clocks.sd + 2 ^ 32 - time % 2 ^ 32) % 2 ^ 32 * 25 / 2

/-- A record of an output buffer. -/
def Chip.outRec (c : Chip) (b : List Byte) : OutRec :=
  let w := leAt b 8 4
  ⟨sext 32 (leAt b 0 4), c.outNs (leAt b 4 4), w % 64, w / 64 % 8, w / 512 % 32, leAt b 12 4⟩

/-- The valid records of path `p`'s output buffer (Table 07-3). -/
def Chip.outsOf (c : Chip) (p : Nat) : List OutRec :=
  (List.range 256).filterMap fun i =>
    let b := c.peekN (0x40018000 + 0x1000 * p + 16 * i) 16
    if nbit (leAt b 8 4) 14 then some (c.outRec b) else none

/-- All of them. -/
def Chip.outs (c : Chip) : List OutRec := (List.range 8).flatMap c.outsOf

/-- The newest record of a channel whose TIME is at or before `ns` (R479). -/
def newestOut (l : List OutRec) (chan ns : Nat) : Option OutRec :=
  l.foldl (fun b o =>
    if o.chan = chan ∧ o.ns ≤ ns then
      match b with
      | some x => if x.ns ≤ o.ns then some o else b
      | none => some o
    else b) none

/-- IFLAGS of a record: SETTLING, REF_UNSETTLED, HELD, OR, CAL_STALE (Table 13-5). -/
def iFlags (o : OutRec) : Nat :=
  o.flags % 2 + 2 * (o.flags / 8 % 2) + 4 * (o.flags / 2 % 2) + 8 * (o.flags / 4 % 2) + 16 * (o.flags / 16 % 2)

/-- The exact mean of some values. -/
def meanQ (l : List Q) : Q := (Q.sum l).div ⟨(l.length : Int), 1⟩

/-- The current of an ISNS output in A (Table 05-2): the path's gain, the image's shunt. -/
def Chip.outAmps (c : Chip) (k : SysConf) (o : OutRec) : Q :=
  let g := c.fld (fltReg o.path 0) 27 2
  (Q.mk' (o.value * 32) (256 * 100 * 8192 * 4 ^ g)).div ((fp32.toQ k.shunt).getD ⟨1, 1⟩)

/-- The voltage of a CELLk output in V (Table 05-2). -/
def outVolts (o : OutRec) : Q := Q.mk' (245000000 * 256 + o.value * 34375) (100000000 * 256)

/-- Bits set where their conditions hold, from bit 0 on. -/
def flagBits (l : List Bool) : Nat := (l.zipIdx.map fun x => if x.1 then 2 ^ x.2 else 0).sum

/-- The input vector of this device's cells (R479, R480, Table 13-5): boundary in µs, start of the step in ns where it has one, DT and
REST. -/
def Chip.vector (c : Chip) (k : SysConf) (bound : Nat) (since : Option Nat) (dt : Nat) (rest : Bool) : List Byte :=
  let ns := 1000 * bound
  let l := c.outs
  let cells := (List.range c.fw.series).map fun i => newestOut l i ns
  let amps := l.filter fun o => decide (o.chan = 0x14 ∧ o.ns ≤ ns) && (match since with | some t => decide (t < o.ns) | none => true)
  let aux := (List.range c.fw.series).map fun i => newestOut l (nth k.aux i 64) ns
  let used := (cells ++ aux).filterMap id ++ amps
  let stamp :=
    match used.map fun o => (o, o.ns) with
    | [] => (Config.openValue 54 [bound]).toNat
    | x :: r =>
      let o := (r.foldl (fun (b : OutRec × Nat) y => if y.2 < b.2 then y else b) x).1
      (o.ns / 1000 + 2 ^ 32 - nth k.span o.path 0) % 2 ^ 32
  let bad := amps.any fun o => decide (o.flags % 2 = 1 ∨ o.flags / 8 % 2 = 1)
  let odd := amps.any fun o => decide (4 ≤ iFlags o)
  let i := if amps.isEmpty then (Config.openValue 55 [bound]).toNat else fp32.ofQ (meanQ (amps.map (c.outAmps k)))
  let cell := fun (x : Option OutRec × Option OutRec) =>
    (match x.1 with
      | some o => leBytes 4 (fp32.ofQ (outVolts o))
      | none => leBytes 4 (Config.openValue 56 [bound]).toNat) ++
    (match x.2 with
      | some o => leBytes 2 (Config.thermistor o.chan o.value).toNat
      | none => leBytes 2 (Config.openValue 57 [bound]).toNat) ++
    leBytes 2 (match x.1 with | some o => iFlags o | none => 1)
  leBytes 2 (c.fld 0x40040004 0 10) ++ leBytes 1 c.fw.series ++ leBytes 1 (flagBits [rest, bad || amps.isEmpty, odd]) ++ leBytes 4 bound ++
    leBytes 4 stamp ++ leBytes 4 dt ++ leBytes 4 i ++ leBytes 4 c.fw.seq ++ leBytes 8 0 ++ (cells.zip aux).flatMap cell

/-- FLAGS bit `i` of an input vector. -/
def vecFlag (v : List Byte) (i : Nat) : Bool := nbit (leAt v 3 1) i
/-- IFLAGS of cell `i`. -/
def vecIf (v : List Byte) (i : Nat) : Nat := leAt v (0x26 + 8 * i) 2
/-- BOUND. -/
def vecBound (v : List Byte) : Nat := leAt v 4 4
/-- A cell is not stepped from this vector (R481). -/
def notStepped (v : List Byte) (tap : Nat) : Bool :=
  vecFlag v 1 || nbit (vecIf v tap) 0 || nbit (vecIf v tap) 1 || decide (leAt v 2 1 ≤ tap)

/-- `t` is at or after `b` on the 32-bit pack time. -/
def atOrAfter (t b : Nat) : Bool := decide ((t + 2 ^ 32 - b % 2 ^ 32) % 2 ^ 32 < 2 ^ 31)

/-! ### One step -/

/-- A context to be stepped or reported: its slot, and MIRROR and REMOTE of its record. -/
structure Seat where
  slot : Nat
  mirror : Bool
  remote : Bool
  deriving DecidableEq, Repr

/-- The first engine of a class that is not OFF. -/
def Chip.engineFor (c : Chip) (cls : Nat) : Option Nat :=
  (List.range 36).find? fun e => decide (engClass e = cls ∧ c.engSet e ≠ 2)

/-- One descriptor of a step, under class A. -/
def fwEng (cls op : Nat) (work : Who → Desc → Opnd → EngM OpRes) (o : Opnd) : EngM OpRes := do
  match (← get).engineFor cls, limOf cls op o with
  | some e, some l => if l.good e then work ⟨e, 0⟩ default o else throw (OpRes.bare 3 2)
  | some _, none => throw (OpRes.bare 3 2)
  | none, _ => throw (OpRes.bare 6 0)

/-- Bytes firmware writes in a step. -/
def fwSet (a : Nat) (d : List Byte) : EngM Unit := modify fun c => c.fwPut a d

/-- An FP32 value firmware reads in a step. -/
def fwGet (a : Nat) : EngM Nat := do return (← get).peekLe a 4

/-- Operands that are all zero. -/
def noOpnd : Opnd := ⟨0, 0, 0, 0, 0, 0, 0, 0, 0, 0, 0, 0, 0⟩

/-- The shadow copy of a context by a data mover (R483). -/
def shadowCopy (a : Nat) : EngM Unit := do
  match (← get).engineFor 8 with
  | some e => do
    let _ ← eread ⟨e, 0⟩ a 2048
  | none => throw (OpRes.bare 6 0)

/-- The input features of a cell whose context is `b` (R474). -/
def features (m v b : List Byte) : List Nat :=
  let tap := leAt b 0x0A 1
  (List.range (mX m)).map fun j =>
    let x := match leAt m (0x6C + 8 * j) 1 with
      | 0 => leAt v (0x20 + 8 * tap) 4
      | 1 => leAt v 0x10 4
      | 2 => fp16.to fp32 (leAt v (0x24 + 8 * tap) 2)
      | 3 => leAt v 0x0C 4
      | 4 => ctxX b 0
      | _ => 0x3F800000
    fp32.mul (fp32.sub x (leAt m (0x70 + 8 * j) 4)) (fp16.to fp32 (leAt m (0x6E + 8 * j) 2))

/-- The learned step of `n` consecutive contexts from `a` on (R473, R474, Table 10-6). -/
def learnedStep (w : Nat) (m v : List Byte) (a n : Nat) : EngM Unit := do
  let c ← get
  let x := mX m
  fwSet (w + 0x800) ((List.range n).flatMap fun i => f32Bytes (features m v (c.peekN (a + 2048 * i) 2048)))
  let o := { noOpnd with
    a := leAt m 0x0C 4, b := a, c := w + 0x800, n0 := mH m, n1 := x, n2 := n, fb := 1, p0 := mRank m + 256 * mKlen m, p1 := 4 * x }
  let _ ← fwEng 0 (mType m) (sqeStep (mType m)) o

/-- The OCV and DOCV tables read at SoC values packed at `w` + 0x100. -/
def ocvStep (k : SysConf) (w : Nat) (mi : Nat) (n : Nat) : EngM Unit := do
  let m := modelRec k mi
  let e := modelMore k mi
  let _ ← fwEng 11 1 interp1Work { noOpnd with a := w + 0x100, b := leAt m 0x10 4, d := w + 0x180, n0 := n, n1 := e.ocvN }
  let _ ← fwEng 11 1 interp1Work { noOpnd with a := w + 0x100, b := leAt m 0x14 4, d := w + 0x200, n0 := n, n1 := e.docvN }

/-- COV_PREDICT and EKF_UPDATE of one cell, whose prediction stands at `e` (R475, R476): the classical voltage, and whether the covariance
was reset. -/
def kalman (w : Nat) (m v : List Byte) (a e tap : Nat) : EngM (Nat × Bool) := do
  let dt := leAt v 0x0C 4
  let i := leAt v 0x10 4
  let vc ← fwGet e
  let ea ← fwGet (e + 4)
  let eb ← fwGet (e + 8)
  let docv ← fwGet (a + 0x94)
  let one := 0x3F800000
  let diag := fun (l : List Nat) => f32Bytes ((List.range 16).map fun j => if j % 5 = 0 then nth l (j / 5) 0 else 0)
  fwSet (w + 0x600) (diag [one, ea, eb, one] ++ diag ((List.range 4).map fun j => fp32.mul (leAt m (0x30 + 4 * j) 4) dt) ++
    f32Bytes ([docv, fp32.neg one, fp32.neg one, fp32.neg i] ++ [leAt v (0x20 + 8 * tap) 4, vc, leAt m 0x40 4]))
  let _ ← fwEng 2 4 covWork { noOpnd with a := w + 0x600, b := a + 0x50, c := w + 0x640, d := a + 0x50, n0 := 4 }
  let o := { noOpnd with a := a + 0x40, b := w + 0x680, c := w + 0x690, d := a + 0x40, n0 := 4, n1 := 1 }
  tryCatch (do
    let _ ← fwEng 2 5 ekfWork o
    return (vc, false)) fun r =>
      if r.status = 1 ∧ r.result / 2 ^ 24 = 0x84 then do
        fwSet (a + 0x50) (f32Bytes (inflated m))
        return (vc, true)
      else throw r

/-- The classical step of `n` consecutive contexts from `a` on (R475): for each, V_C and EKF_RESET. -/
def classicalStep (k : SysConf) (w mi : Nat) (v : List Byte) (a n : Nat) (rest : Bool) : EngM (List (Nat × Bool)) := do
  let m := modelRec k mi
  let dt := leAt v 0x0C 4
  let i := leAt v 0x10 4
  let idx := List.range n
  idx.forM fun j => do
    let ctx := a + 2048 * j
    let soc := fp32.sub (← fwGet (ctx + 0x40)) (fp32.div (fp32.mul i dt) (← fwGet (ctx + 0xA8)))
    fwSet (ctx + 0x40) (leBytes 4 soc)
    fwSet (w + 0x100 + 4 * j) (leBytes 4 soc)
    fwSet (w + 4 * j) (leBytes 4 i)
    if rest then fwSet (ctx + 0x50) (leBytes 4 (fp32.add (← fwGet (ctx + 0x50)) (fp32.mul (f32At m 0x44) dt)))
  let _ ← fwEng 2 8 coulombWork { noOpnd with a := w, b := a, n1 := 1, n2 := n, p0 := dt }
  ocvStep k w mi n
  idx.forM fun j => do
    fwSet (a + 2048 * j + 0x90) (leBytes 4 (← fwGet (w + 0x180 + 4 * j)) ++ leBytes 4 (← fwGet (w + 0x200 + 4 * j)))
  let _ ← fwEng 2 7 ecmWork { noOpnd with a := w, b := a, d := w + 0x400, n2 := n, p0 := dt }
  idx.mapM fun j => do
    let tap := leAt ((← get).peekN (a + 2048 * j) 16) 0x0A 1
    kalman w m v (a + 2048 * j) (w + 0x400 + 16 * j) tap

/-- How a context's step ended: STATUS of its record, V_C and EKF_RESET. -/
structure Stepped where
  slot : Nat
  status : Nat
  vc : Nat
  reset : Bool
  deriving DecidableEq, Repr

/-- Steps 3 and 4 of Table 13-6 for consecutive contexts of one model record; on any failure they are restored from the shadow (R483). -/
def Chip.stepRun (c : Chip) (k : SysConf) (v : List Byte) (rest : Bool) (first n : Nat) : List Stepped × Chip :=
  let a := ctxAt k first
  let mi := leAt (c.ctx k first) 6 1
  let work : EngM (List (Nat × Bool)) := do
    (List.range n).forM fun j => shadowCopy (a + 2048 * j)
    if !rest then learnedStep k.work (modelRec k mi) v a n
    classicalStep k k.work mi v a n rest
  match work.run c with
  | (.ok l, d) => (l.zipIdx.map fun x => ⟨first + x.2, 1, x.1.1, x.1.2⟩, d)
  | (.error _, d) =>
    ((List.range n).map fun j => ⟨first + j, 3, 0, false⟩,
      (List.range n).foldl (fun (d : Chip) j => d.fwPut (a + 2048 * j) (c.peekN (a + 2048 * j) 2048)) d)

/-- Slots in runs of consecutive ones that agree in `key`: the first and how many, at most 32. -/
def slotRuns (key : Nat → Nat) : List Nat → List (Nat × Nat)
  | [] => []
  | i :: r => match slotRuns key r with
    | (j, n) :: t => if j = i + 1 ∧ key i = key j ∧ n < 32 then (i, n + 1) :: t else (i, 1) :: (j, n) :: t
    | [] => [(i, 1)]

/-- The cross-check vector of consecutive contexts (R486), an element for each slot in the work area. -/
def xvecStep (k : SysConf) (first n : Nat) : EngM OpRes :=
  fwEng 10 2 stridedWork { noOpnd with
    a := ctxAt k first + 0x100, b := ctxAt k first + 0x40, d := k.work + 0x1000 + 4 * first, n0 := 1, n1 := n, fa := 3, fb := 1
    p0 := 2048, p1 := 2048 }

/-! ### Records -/

/-- An FP32 value as a signed field with LSB `num` ÷ `den` (R488). -/
def fieldS (x num den : Nat) : Nat :=
  match fp32.toQ x with
  | some q => tc 16 (clampI (-32767) 32767 (q.mul (Q.mk' den num)).round)
  | none => if fp32.isNan x then 0x8000 else if x < fp32.signBit then 32767 else tc 16 (-32767)

/-- An FP32 value as an unsigned field. -/
def fieldU (x num den : Nat) : Nat :=
  match fp32.toQ x with
  | some q => (clampI 0 65534 (q.mul (Q.mk' den num)).round).toNat
  | none => if fp32.isNan x then 65535 else if x < fp32.signBit then 65534 else 0

/-- CELLREF of a context's record. -/
def cellRef (b : List Byte) (mirror : Bool) : Nat := leAt b 8 2 % 1024 + 1024 * (leAt b 0x0A 1 % 32) + (if mirror then 32768 else 0)

/-- The epoch of a boundary, whose full pack time is the last that ends in it. -/
def Chip.epochAt (c : Chip) (k : SysConf) (bound : Nat) : Nat :=
  epochOf k (c.fullUs - (c.fullUs + 2 ^ 32 - bound % 2 ^ 32) % 2 ^ 32)

/-- A new estimate's record, before Belfry's fields (Table 13-7, R473, R491), from the context after its step; `warm` is WARM before it. -/
def Chip.estimate (c : Chip) (m v b : List Byte) (z : Seat) (t : Stepped) (warm : Nat) (late rest : Bool) : List Byte :=
  let tap := leAt b 0x0A 1
  let h := raw32 3 (slice b 0x100 4) 2
  let vl := fp32.add (f32At m 0x60) (fp32.mul (f32At m 0x64) (nth h 1 0))
  let odd := vecFlag v 2 || decide (4 ≤ vecIf v tap % 32)
  leBytes 2 (cellRef b z.mirror) ++ leBytes 2 (leAt b 0x0C 2) ++ slice v 8 4 ++
    [fieldS (nth h 0 0) 1 16384, fieldS (ctxX b 0) 1 16384, fieldU (fp32.sqrt (f32At b 0x50)) 1 65536,
      fieldS (leAt v (0x20 + 8 * tap) 4) 1 5000, fieldS vl 1 5000, fieldS t.vc 1 5000, fieldS (leAt v 0x10 4) 1 10,
      fieldU (ctxX b 3) 1 1000000, fieldS (fp16.to fp32 (leAt v (0x24 + 8 * tap) 2)) 1 64].flatMap (leBytes 2) ++
    leBytes 1 (flagBits [late, c.hlId.isNone, decide (0 < warm) || rest, odd, t.reset, z.remote, rest]) ++ leBytes 1 1 ++ leBytes 4 0

/-- The previous estimate repeated with another STATUS (R481, R483), or NO_ESTIMATE where there is none (R100) or the model record is
invalid (R472). -/
def Chip.repeated (c : Chip) (b : List Byte) (z : Seat) (status : Nat) (late : Bool) : List Byte :=
  let last := slice b 0xC0 32
  let ref := leBytes 2 (cellRef b z.mirror)
  if status = 0 ∨ leAt last 0x1B 1 % 16 = 0 then
    splice (ref ++ leBytes 2 (leAt b 0x0C 2) ++ List.replicate 28 0) 0x1A (leBytes 1 (if c.hlId.isNone then 2 else 0))
  else
    splice (splice last 0 ref) 0x1A (leBytes 1 (if late then leAt last 0x1A 1 ||| 1 else leAt last 0x1A 1) ++ leBytes 1 status ++
      leBytes 4 0)

/-- The header of a context after a completed step (Table 13-2, R106); a rest step leaves STEP and WARM (Table 13-9). -/
def Chip.ctxDone (c : Chip) (k : SysConf) (v b : List Byte) (rest : Bool) : List (Nat × List Byte) :=
  (if rest then [] else [(7, leBytes 1 (leAt b 7 1 - 1)), (0x0C, leBytes 4 (leAt b 0x0C 4 + 1))]) ++
    [(0x28, leBytes 4 (c.epochAt k (vecBound v)) ++ slice v 8 4 ++ leBytes 8 c.clocks.rtc)]

/-- Step 6 of Table 13-6 for one context: its header and LAST. -/
def Chip.finishSeat (c : Chip) (k : SysConf) (v : List Byte) (late rest : Bool) (z : Seat) (t : Stepped) : Chip :=
  let b := c.ctx k z.slot
  let a := ctxAt k z.slot
  if t.status = 1 then
    let d := putAll b (c.ctxDone k v b rest)
    c.fwPut a (splice d 0xC0 (c.estimate (modelRec k (leAt b 6 1)) v d z t (leAt b 7 1) late rest))
  else c.fwPut (a + 0xC0) (c.repeated b z t.status (late && decide (t.status = 3)))

/-! ### Hand-off -/

/-- One JUDGE entry for the records of consecutive slots (Table 18-7); nothing is handed over while the ring is full. -/
def Chip.handOff (c : Chip) (k : SysConf) (own : Bool) (owner bound first n : Nat) : Chip :=
  let slots := max 1 k.hoSlots
  let w := c.peekLe k.hoBase 4 % slots
  let next := (w + 1) % slots
  if next = Machine.fld (c.reg 0x40070038) 0 8 then c
  else
    let mask := flagBits ((List.range n).map fun i => decide (first + i ∈ c.fw.reinit))
    let e := leBytes 1 1 ++ leBytes 1 n ++ leBytes 2 (if own then 1 else 2) ++ leBytes 4 (ctxAt k first + 0xC0) ++ leBytes 4 2048 ++
      leBytes 4 (k.work + 0x1000 + 4 * first) ++ leBytes 4 bound ++ leBytes 4 mask ++ leBytes 4 (if own then 0 else k.sumIn + 256 * owner) ++
      leBytes 4 0
    let c : Chip := { c with fw.reinit := c.fw.reinit.filter fun i => decide (i < first ∨ first + n ≤ i) }
    ((c.fwPut (k.hoBase + 64 + 32 * w) e).fwPut (k.hoBase + 4) (leBytes 4 c.fw.chem)).fwPut k.hoBase (leBytes 4 next)

/-- MODEL_INVALID logged once for each model record (R472). -/
def Chip.badModel (c : Chip) (i : Nat) : Chip :=
  if i ∈ c.fw.badModels then c else { c with fw.badModels := i :: c.fw.badModels }.fwLog 0x4A i

/-- Remote-resident contexts whose step is undone because its copy-back failed (R495). -/
def Chip.undo (c : Chip) (k : SysConf) (was : Chip) (slots : List Nat) : Chip :=
  slots.foldl (fun (c : Chip) i => c.fwPut (ctxAt k i) (was.ctx k i)) c

/-- The step of every context of `seats` from one input vector (Table 13-6, steps 3 to 6; R481 to R491): `lost` are remote-resident slots
whose copy-in failed, and `back` tells that the copy-backs ended with OK. -/
def Chip.stepVector (c : Chip) (k : SysConf) (v : List Byte) (own late rest : Bool) (seats : List Seat) (lost : List Nat) (back : Bool) :
    Chip :=
  let was := c
  let live := seats.filter fun z => ctxLive (c.ctx k z.slot)
  let mi := fun i => leAt (c.ctx k i) 6 1
  let tap := fun i => leAt (c.ctx k i) 0x0A 1
  let bad := live.filter fun z => !modelOk (modelRec k (mi z.slot))
  let held := live.filter fun z => notStepped v (tap z.slot)
  let go := (live.filter fun z => !bad.contains z && !held.contains z && !lost.contains z.slot).map Seat.slot
  let c := bad.foldl (fun c z => c.badModel (mi z.slot)) c
  let (done, c) := (slotRuns mi go).foldl (fun (p : List Stepped × Chip) (x : Nat × Nat) =>
    let (l, c) := p.2.stepRun k v rest x.1 x.2
    (p.1 ++ l, c)) ([], c)
  let runs := slotRuns (fun _ => 0) ((live.filter fun z => !bad.contains z).map Seat.slot)
  let (torn, c) := runs.foldl (fun (p : List Nat × Chip) (x : Nat × Nat) =>
    match (xvecStep k x.1 x.2).run p.2 with
    | (.ok _, c) => (p.1, c)
    | (.error _, c) => (p.1 ++ (List.range x.2).map (x.1 + ·), c)) ([], c)
  let gone := if back then torn else torn ++ (seats.filter fun z => z.remote).map Seat.slot
  let c := c.undo k was (go.filter gone.contains)
  let outcome := fun (z : Seat) =>
    if bad.contains z then ⟨z.slot, 0, 0, false⟩
    else if lost.contains z.slot then ⟨z.slot, 3, 0, false⟩
    else if held.contains z then ⟨z.slot, 2, 0, false⟩
    else if gone.contains z.slot then ⟨z.slot, 3, 0, false⟩
    else (done.find? fun t => decide (t.slot = z.slot)).getD ⟨z.slot, 3, 0, false⟩
  let c := live.foldl (fun c z => c.finishSeat k v late rest z (outcome z)) c
  (slotRuns (fun _ => 0) (live.map Seat.slot)).foldl (fun c x => c.handOff k own (leAt v 0 2 % 1024) (vecBound v) x.1 x.2) c

/-! ### The owner's boundary -/

/-- The step period of this device's own cells in µs; 100 ms where their model record gives none. -/
def Chip.period (c : Chip) (k : SysConf) : Nat :=
  let m := modelRec k (modelFor k c.fw.chem)
  if mPeriod m = 0 then 100000 else mPeriod m

/-- OWNER and HOST of the own cells as the device's ID now is; a cell delegated away keeps its HOST. -/
def Chip.ownIds (c : Chip) (k : SysConf) : Chip :=
  let own := c.fld 0x40040004 0 10
  let id := leBytes 2 own
  (List.range c.fw.series).foldl (fun (c : Chip) i =>
    if ctxLive (c.ctx k i) && !(c.fw.released.any fun r => decide (r.ref = own + 1024 * i)) then (c.fwPut (ctxAt k i + 8) id).fwPut (ctxAt k i + 0x38) id else c) c

/-- A cell released from this device by boundary `bound`, unless a later TAKE brought it back (R588). -/
def Chip.releasedAt (c : Chip) (ref bound : Nat) : Option Released :=
  (c.fw.released.find? fun r => decide (r.ref = ref) && atOrAfter bound r.switch).filter fun r =>
    !(c.fw.taken.any fun t => decide (t.ref = ref) && atOrAfter bound t.switch && atOrAfter t.switch r.switch)

/-- The own cells that this device steps at a boundary, with MIRROR (R490, R588, R589, R496). -/
def Chip.ownSeats (c : Chip) (bound : Nat) : List Seat :=
  let id := c.fld 0x40040004 0 10
  (List.range c.fw.series).filterMap fun i =>
    match c.releasedAt (id + 1024 * i) bound with
    | some r => if r.remote then none else some ⟨i, true, false⟩
    | none => some ⟨i, false, false⟩

/-- Hosts of BUDDY and COPY contexts of this device's cells: its buddy, and the active manager. -/
def Chip.vecHosts (c : Chip) : List Nat :=
  let l := (c.fw.buddy.toList ++ c.fw.active.toList).filter fun d => decide (some d ≠ c.hlId)
  l.eraseDups

/-- The input vector sent on VC2 to every host (Table 13-6, step 2). -/
def Chip.sendVector (c : Chip) (k : SysConf) (v : List Byte) : Chip :=
  match c.hlId with
  | some id => c.fwSend (c.vecHosts.map fun d => ⟨false, 1, 2, d, k.vecIn + 256 * id, v⟩)
  | none => c

/-- A boundary of this device's own cells at pack time `bound` µs (Table 13-6). -/
def Chip.ownStep (c : Chip) (k : SysConf) (bound : Nat) (late : Bool) : Chip :=
  let rest := decide (c.power.mode = .scan)
  let gap := !c.fw.started
  let dt := match c.fw.bound with
    | some (us, rtc) => if gap || decide (bound < us) then c.sinceRtc rtc else fp32.enc false (bound - us) 1000000 0
    | none => (Config.openValue 58 [bound]).toNat
  let since := match c.fw.bound with
    | some (us, _) => if gap then none else some (1000 * us)
    | none => none
  let c := (c.ownIds k).applyLate k
  let v := c.vector k bound since dt rest
  let c := (c.fwPut (k.vecIn + 256 * c.fld 0x40040004 0 10) v).sendVector k v
  let c := c.stepVector k v true late rest (c.ownSeats bound) [] true
  { c with
    fw.started := true, fw.bound := some (bound, c.clocks.rtc), fw.seq := (c.fw.seq + 1) % 2 ^ 32
    fw.due := if c.isMgr then none else some (c.fw.seq, bound % 2 ^ 32) }

/-- R91: injection complete, Belfry READY, REF_A settled, and the paths that feed the step clear of SETTLING. -/
def Chip.firstReady (c : Chip) : Bool :=
  let ns := c.clocks.packNs
  let l := c.outs
  let clear := fun ch => match newestOut l ch ns with | some o => decide (o.flags % 2 = 0) | none => false
  c.phaseCPassed && decide (c.saf = 1) && c.bit 0x40010000 1 &&
    (decide (c.fw.series = 0) || ((List.range c.fw.series).all clear && clear 0x14))

/-- FIRST_STEP_START (R91, R478, R501): the first step after a reset or a wake, whose start takes the place of the boundary; in Scan it is the
rest step. Start becomes Run with it. -/
def execFirstStepStart (late : Bool) (s : State) : Host.Outcome State Fault Refusal :=
  s.onChip fun c => c.withConf fun k =>
    if c.fw.started || !c.firstReady then c
    else
      let c := c.ownStep k c.fullUs late
      if c.power.mode = .start then c.setMode .run else c

end Sys2Proof.Machine
end

