-- ==== Sys2Proof/Machine/Results.lean ====
section
/-! DEFINITION. What follows a step: result batches, and the steps of mirrors, manager copies, delegated and remote-resident contexts
(13_cell_estimation.md, "Hosting"; 15_manager_operation.md, "Result collection" and "Context delegation"). -/
namespace Sys2Proof.Machine

/-! ### Result batches -/

/-- The batch of a boundary (Table 15-6): the records of the own cells that this device publishes with MIRROR = 0. -/
def Chip.batch (c : Chip) (k : SysConf) (id seq bound : Nat) : List Byte :=
  let recs := ((c.ownSeats bound).filter fun z => !z.mirror && ctxLive (c.ctx k z.slot)).map fun z => slice (c.ctx k z.slot) 0xC0 32
  let h := leBytes 4 0x48544142 ++ leBytes 2 id ++ leBytes 1 recs.length ++ leBytes 1 0 ++ leBytes 4 seq ++ leBytes 4 bound ++
    leBytes 4 (c.epochAt k bound) ++ leBytes 4 c.fw.term ++ leBytes 4 0
  h ++ leBytes 4 (crc32 (h ++ recs.flatten)) ++ recs.flatten

/-- The WRs that carry a batch: bytes 0x100 onward first, and bytes 0x000 to 0x0FF last (R575). -/
def batchParts (dest a : Nat) (b : List Byte) : List FwOut :=
  let part := fun (off : Nat) => (⟨false, 1, 0, dest, a + off, slice b off 256⟩ : FwOut)
  ([0x100, 0x200, 0].map part).filter fun o => !o.data.isEmpty

/-- A batch written into the retention ring and sent to the active manager (R575, R585); an overwritten one that no committed epoch covers
is logged (R578). -/
def Chip.batchSend (c : Chip) (k : SysConf) (seq bound : Nat) : Chip :=
  match c.hlId with
  | none => c
  | some id =>
    let a := k.retBase + 1024 * (seq % 128)
    let old := c.peekN a 32
    let b := c.batch k id seq bound
    let lost := decide (leAt old 0 4 = 0x48544142) &&
      (match c.fw.committed with | some e => decide (e < leAt old 0x10 4) | none => true)
    let c := if lost then c.fwLog 0x58 (leAt old 0x10 4) else c
    let c := c.fwPut a b
    match c.fw.active with
    | some m => if m = id then c else c.fwSend (batchParts m (k.collect + 1024 * id) b)
    | none => c

/-- A batch that waits is sent once Belfry has worked off the hand-off ring. -/
def Chip.batchDue (c : Chip) : Chip :=
  c.withConf fun k => match c.fw.due with
    | some (seq, bound) =>
      if c.peekLe k.hoBase 4 % max 1 k.hoSlots = Machine.fld (c.reg 0x40070038) 0 8 then { c with fw.due := none }.batchSend k seq bound
      else c
    | none => c

/-! ### Contexts of other owners -/

/-- The slots in which this device hosts mirrors and copies of `owner`'s cells: a worker its buddy's from slot 20 on (Table 13-1), the
active manager its copies (R573). -/
def Chip.mirrorSlots (c : Chip) (owner count : Nat) : List (Nat × Nat) :=
  if c.isMgr then
    if c.mgr.state = .active then
      (c.mgr.copies.filter fun x => decide (x.1 % 1024 = owner)).map fun x => (x.2, 2)
    else []
  else if c.fw.buddy = some owner then (List.range (min 20 count)).map fun i => (20 + i, 1)
  else []

/-- Delegated cells of `owner` that this device steps from a boundary on (R588). -/
def Chip.takenFor (c : Chip) (owner bound : Nat) : List Taken :=
  c.fw.taken.filter fun t => decide (t.ref % 1024 = owner ∧ some owner ≠ c.hlId) && atOrAfter bound t.switch &&
    !(t.remote && (c.releasedAt t.ref bound).isSome)

/-- A full copy of a context installed in a slot with its KIND; a delegated one has this device as HOST (R493, R588). -/
def Chip.install (c : Chip) (k : SysConf) (slot kind : Nat) (b : List Byte) : Chip :=
  let b := splice b 5 (leBytes 1 kind)
  let b := if kind = 3 then splice b 0x38 (leBytes 2 (c.fld 0x40040004 0 10)) else b
  { c with fw.resync := c.fw.resync.filter fun i => decide (i ≠ slot) }.fwPut (ctxAt k slot) (padTo 2048 b)

/-- A slot holds a context of this kind, owner and tap. -/
def Chip.holds (c : Chip) (k : SysConf) (slot kind : Nat) (owner : Nat) : Bool :=
  let b := c.peekN (ctxAt k slot) 256
  ctxLive b && decide (leAt b 5 1 = kind ∧ leAt b 8 2 = owner)

/-- What the data movers brought for a slot: nothing asked, a failure, or the bytes of a context. -/
def broughtFor (l : List (Nat × Option (List Byte))) (slot : Nat) : Option (List Byte) :=
  match l.find? fun x => decide (x.1 = slot) with
  | some x => x.2
  | none => none

/-- The address of the resident's context of a cell (R494): its owner's slot for the tap. -/
def Chip.residentAt (c : Chip) (k : SysConf) (t : Taken) : Nat :=
  (match c.mgr.dev t.src with | some d => d.ctx | none => k.ctxBase) + 2048 * (t.ref / 1024 % 32)

/-- The context of a slot already holds the boundary's step. -/
def Chip.caughtUp (c : Chip) (k : SysConf) (v : List Byte) (slot : Nat) : Bool :=
  slice (c.peekN (ctxAt k slot) 0x40) 0x2C 4 == slice v 8 4

/-- The contexts of an owner stepped from its vector. A full copy that the data movers bring replaces a mirror, and one taken after the
boundary's step is not stepped again. -/
def Chip.hostStep (c : Chip) (k : SysConf) (v : List Byte) (late : Bool) (brought : List (Nat × Option (List Byte))) (back : Bool) : Chip :=
  let owner := leAt v 0 2 % 1024
  let seq := leAt v 0x14 4
  let mirrors := c.mirrorSlots owner (leAt v 2 1)
  let missed := match Sparse.find owner c.fw.vecSeq with | some e => decide (e ≠ seq) | none => false
  let c : Chip := { c with
    fw.vecSeq := Sparse.put owner ((seq + 1) % 2 ^ 32) c.fw.vecSeq
    fw.resync := if missed then (c.fw.resync ++ mirrors.map fun x => x.1).eraseDups else c.fw.resync }
  let taken := c.takenFor owner (vecBound v)
  let full := (taken.filter fun t => !t.remote).map fun t => (t.slot, 3)
  let fresh := (mirrors ++ full).filter fun x => (broughtFor brought x.1).isSome && (decide (x.2 ≠ 3) || !c.holds k x.1 3 owner)
  let c := fresh.foldl (fun (c : Chip) x => c.install k x.1 x.2 ((broughtFor brought x.1).getD [])) c
  let remote := taken.filter fun t => t.remote
  let lost := (remote.filter fun t => (broughtFor brought t.slot).isNone).map fun t => t.slot
  let c := remote.foldl (fun (c : Chip) t => match broughtFor brought t.slot with
    | some b => c.fwPut (ctxAt k t.slot) (padTo 2048 b)
    | none => c) c
  let away := (taken.filter fun t => (c.releasedAt t.ref (vecBound v)).isSome).map fun t => t.slot
  let seats := ((mirrors ++ full).filter fun x =>
    c.holds k x.1 x.2 owner && !c.fw.resync.contains x.1 && !(fresh.contains x && c.caughtUp k v x.1)).map fun x =>
      (⟨x.1, decide (x.2 ≠ 3) || away.contains x.1, false⟩ : Seat)
  let c := c.stepVector k v false late false (seats ++ remote.map fun t => ⟨t.slot, false, true⟩) lost back
  { c with fw.copies := (remote.filter fun t => !lost.contains t.slot).map fun t => ⟨t.src, c.residentAt k t, c.ctx k t.slot⟩ }

/-- INPUT_VECTOR_RECEIVE (R492 to R495): the vector that `owner` has written to this device. `brought` are the full copies and copy-ins
that data movers brought for slots, none for one that failed; `back` tells that the copy-backs ended with OK (DESIGN CHOICE, log entry 21). -/
def execInputVectorReceive (owner : Nat) (late : Bool) (brought : List (Nat × Option (List Byte))) (back : Bool) (s : State) :
    Host.Outcome State Fault Refusal :=
  s.onChip fun c => c.withConf fun k =>
    let v := c.peekN (k.vecIn + 256 * (owner % 1024)) 192
    let known := match Sparse.find owner c.fw.vecSeq with | some e => decide ((leAt v 0x14 4 + 1) % 2 ^ 32 = e) | none => false
    if c.power.mode ≠ .run ∨ leAt v 0 2 ≠ owner ∨ c.hlId = some owner ∨ leAt v 2 1 < 6 ∨ 20 < leAt v 2 1 ∨ known = true then c
    else c.hostStep k v late brought back

end Sys2Proof.Machine
end

