-- ==== Sys2Proof/Machine/Member.lean ====
section
/-! DEFINITION. What a member's firmware does with the manager's messages (15_manager_operation.md, Table 15-2): one row for each message it
receives, with the sender's ID (DESIGN CHOICE, log entry 21). -/
namespace Sys2Proof.Machine

/-! ### Snapshots -/

/-- The address of epoch buffer `b` (R579). -/
def epochBuf (k : SysConf) (b : Nat) : Nat := k.epochBase + 0x80000 * b

/-- A device table entry (Table 15-7). -/
def MDev.bytes (d : MDev) : List Byte :=
  padTo 64 (leBytes 8 d.serial ++ padTo 16 d.tray ++ leBytes 1 d.state ++ leBytes 1 d.tagStat ++ leBytes 2 d.buddy ++ leBytes 4 d.nextSeq ++
    leBytes 4 d.inbox ++ leBytes 4 d.ret ++ leBytes 4 d.ctx ++ leBytes 4 d.locketIn)

/-- A cell table entry. -/
def MCell.bytes (x : MCell) : List Byte :=
  leBytes 2 x.ref ++ leBytes 2 x.host ++ leBytes 2 x.slot ++ leBytes 1 x.kind ++ leBytes 1 0 ++ leBytes 8 x.rtc

/-- The snapshot of an epoch (Table 15-7). -/
def Chip.snapshot (c : Chip) (epoch : Nat) : List Byte :=
  let m := c.mgr
  let devs := (List.range 1024).flatMap fun id => match m.dev id with | some d => d.bytes | none => List.replicate 64 0
  let len := 64 + 65536 + 16 * m.cells.length
  padTo 64 (leBytes 4 0x48504345 ++ leBytes 4 epoch ++ leBytes 4 m.term ++ leBytes 4 len ++ leBytes 2 (c.fld 0x40040004 0 10) ++
    leBytes 4 m.cells.length ++ leBytes 4 m.sched) ++ devs ++ m.cells.flatMap MCell.bytes

/-- A device table entry read back; none for ABSENT. A snapshot holds neither FREE nor the series count, which are read again (R563). -/
def devOf (id : Nat) (b : List Byte) : Option MDev :=
  if leAt b 24 1 = 0 then none
  else some
    { id := id, serial := leAt b 0 8, tray := slice b 8 16, state := leAt b 24 1, tagStat := leAt b 25 1, buddy := leAt b 26 2
      nextSeq := leAt b 28 4, inbox := leAt b 32 4, ret := leAt b 36 4, ctx := leAt b 40 4, locketIn := leAt b 44 4, fails := 0, lates := 0
      free := 0, series := 0 }

/-- A snapshot adopted (R579 step 5). -/
def Mgr.adopt (m : Mgr) (b : List Byte) : Mgr :=
  let cells := (List.range (leAt b 0x12 4 % 65536)).map fun i =>
    let x := slice b (64 + 65536 + 16 * i) 16
    (⟨leAt x 0 2, leAt x 2 2, leAt x 4 2, leAt x 6 1, leAt x 8 8⟩ : MCell)
  let devs := (List.range 1024).filterMap fun id => devOf id (slice b (64 + 64 * id) 64)
  let count := fun (id : Nat) => (cells.filter fun x => decide (x.ref % 1024 = id)).length
  { m with devs := devs.map fun d => { d with series := count d.id }, cells := cells, sched := leAt b 0x16 4 }

/-! ### Rows -/

/-- The body of HEARTBEAT with its TERM (R585, R586). -/
def Chip.heartbeat (c : Chip) (term : Nat) (b : List Byte) : Chip :=
  if term < c.fw.term then c
  else
    let was := c.mgr.state
    let higher := c.isMgr && decide (c.mgr.term < term)
    let demoted := higher && decide (was = .active ∨ was = .candidate)
    let c : Chip := { c with
      fw.term := term, fw.active := idAt b 0x10, fw.standby := idAt b 0x12
      fw.committed := some (max (c.fw.committed.getD 0) (leAt b 0x14 4)), mgr.term := if higher then term else c.mgr.term }
    if demoted then ({ c with mgr.state := .standby, mgr.snap := none }.fwLog 0x51 (leAt b 0x10 2)).discShow
    else if higher then c.discShow else c

/-- HEARTBEAT (R585, R586): from the device with ID `src`. -/
def execHeartbeat (src : Nat) (s : State) : Host.Outcome State Fault Refusal := s.hear src 1 fun c b => c.heartbeat (leAt b 8 4) b

/-- PREPARE (R579 step 3): the standby checks the snapshot's CRC and answers. -/
def execPrepare (src : Nat) (s : State) : Host.Outcome State Fault Refusal :=
  s.hear src 2 fun c b => c.withConf fun k =>
    if c.mgr.state ≠ .standby then c
    else
      let epoch := leAt b 0x10 4
      let buf := leAt b 0x14 1
      let len := leAt b 0x15 4
      let good := decide (buf < 2 ∧ len ≤ 0x80000) && decide (crc32 (c.peekN (epochBuf k buf) len) = leAt b 0x19 4)
      let status := if leAt b 8 4 < c.mgr.term then 2 else if good then 0 else 1
      let c : Chip := if status = 0 then { c with mgr.prepared := some (buf, epoch) } else c
      c.fwTell src 3 (leBytes 4 epoch ++ leBytes 1 status)

/-- COMMIT (R579 step 5, R580): the standby adopts the snapshot it prepared. -/
def execCommit (src : Nat) (s : State) : Host.Outcome State Fault Refusal :=
  s.hear src 4 fun c b => c.withConf fun k =>
    let epoch := leAt b 0x10 4
    let buf := leAt b 0x14 1
    if c.mgr.state ≠ .standby ∨ c.mgr.prepared ≠ some (buf, epoch) then c
    else
      let m := c.mgr.adopt (c.peekN (epochBuf k buf) 0x80000)
      { c with mgr := { m with committed := some epoch, adopted := some epoch } }

/-- Buddy mirrors of another device than `buddy` emptied (Table 13-1, R572). -/
def Chip.dropMirrors (c : Chip) (k : SysConf) (buddy : Option Nat) : Chip :=
  (List.range 20).foldl (fun (c : Chip) i =>
    let b := c.peekN (ctxAt k (20 + i)) 256
    if ctxLive b && decide (leAt b 5 1 = 1 ∧ buddy ≠ some (leAt b 8 2)) then c.fwPut (ctxAt k (20 + i)) (leBytes 4 0) else c) c

/-- SCHEDULE (R570 step 8, R572): schedule version, buddy and standby. -/
def execSchedule (src : Nat) (s : State) : Host.Outcome State Fault Refusal :=
  s.hear src 5 fun c b => c.withConf fun k =>
    let buddy := idAt b 0x14
    let c : Chip := { c with fw.sched := some (leAt b 0x10 4), fw.buddy := buddy, fw.standby := idAt b 0x16 }
    (c.dropMirrors k buddy).discShow

/-- The answer to a TAKE (R588 step 2, R32, Table 15-9): `chem` is the CHEM_ID of the cell. -/
def Chip.takeStatus (c : Chip) (k : SysConf) (ref chem : Nat) : Nat :=
  let again := c.fw.taken.any fun t => decide (t.ref = ref)
  let back := decide (some (ref % 1024) = c.hlId)
  let due := c.fw.taken.filter fun t => !ctxLive (c.peekN (ctxAt k t.slot) 256)
  let room := again || back || (decide ((c.hosted k).length + due.length < c.slotCount) &&
    (!c.isMgr || decide (k.reserve < c.freeSlots k)))
  if !room then 1 else if !modelOk (modelRec k (modelFor k chem)) then 2 else 0

/-- A TAKE (R588): its STATUS, and what this device will take. -/
def Chip.takeCell (c : Chip) (k : SysConf) (b : List Byte) (chem : Nat) : Nat × Chip :=
  let ref := leAt b 0x10 2
  let st := c.takeStatus k ref chem
  let t : Taken := ⟨ref, leAt b 0x16 2, decide (leAt b 0x13 1 = 1), leAt b 0x14 2, leAt b 0x18 4⟩
  (st, if st = 0 then { c with fw.taken := (c.fw.taken.filter fun x => decide (x.ref ≠ ref)) ++ [t] } else c)

/-- A RELEASE (R588); one with the SWITCH of this device's own TAKE withdraws it (R589). -/
def Chip.releaseCell (c : Chip) (b : List Byte) : Chip :=
  let ref := leAt b 0x10 2
  let switch := leAt b 0x18 4
  if c.fw.taken.any fun t => decide (t.ref = ref ∧ t.switch = switch) then
    { c with fw.taken := c.fw.taken.filter fun t => decide (t.ref ≠ ref) }
  else
    let r : Released := ⟨ref, decide (leAt b 0x13 1 = 1), switch⟩
    { c with fw.released := (c.fw.released.filter fun x => decide (x.ref ≠ ref)) ++ [r] }

/-- DELEGATE (R588, R32): a TAKE is answered; `chem` is the CHEM_ID of the cell. -/
def execDelegate (src chem : Nat) (s : State) : Host.Outcome State Fault Refusal :=
  s.hear src 6 fun c b => c.withConf fun k =>
    if leAt b 0x12 1 = 0 then
      let (st, c) := c.takeCell k b chem
      c.fwTell src 7 (leBytes 2 (leAt b 0x10 2) ++ leBytes 1 st)
    else c.releaseCell b

/-- The contexts of a tray that this device holds, as Lockets by tap (R592, R499). -/
def Chip.trayLockets (c : Chip) (k : SysConf) (tray : List Byte) : List (Nat × List Byte) :=
  ((c.hosted k).filter fun i => !c.isStaging i && slice (c.peekN (ctxAt k i) 256) 0x10 16 == tray && !c.copyRuns (ctxAt k i)).map fun i =>
    let b := c.ctx k i
    (leAt b 0x0A 1, c.makeLocket k b)

/-- The Lockets of a tray in the own Locket store, by tap (R592). -/
def State.trayStored (s : State) (k : SysConf) (tray : List Byte) : List (Nat × List Byte) :=
  (List.range s.chip.slotCount).filterMap fun i =>
    let (age, _) := s.slotsByAge (locketSlot i) 3 i
    age.findSome? fun n =>
      let b := s.slotData (locketSlot i n)
      match k.models.findSome? fun m => locketOf b m.1 with
      | some l => if slice b 8 16 = tray then some (leAt l.ctx 0x0A 1, b) else none
      | none => none

/-- REST of LOCKET_SENT (R592): the manager's RTC less the cells' LOCKET_RTC, and NaN where it is unknown or no manager answers. -/
def Chip.restSent (c : Chip) (dest : Nat) : Nat :=
  match c.mgr.cells.find? fun x => decide (x.ref % 1024 = dest) with
  | some x => if c.mgr.state = .active ∧ c.restUnknown = false then c.sinceRtc x.rtc else fp32.nanBits
  | none => fp32.nanBits

/-- The Lockets given to a data mover for the destination's staging area, and LOCKET_SENT. -/
def Chip.sendLockets (c : Chip) (k : SysConf) (tray : List Byte) (dest : Nat) (ls : List (Nat × List Byte)) : Chip :=
  let base := match c.mgr.dev dest with | some d => d.locketIn | none => k.locketIn
  if ls.isEmpty then c
  else
    let c : Chip := { c with fw.copies := ls.map fun x => ⟨dest, base + 4096 * (x.1 % 20), x.2⟩ }
    c.fwTell dest 0x0A (padTo 16 tray ++ leBytes 1 ls.length ++ leBytes 4 (c.restSent dest))

/-- LOCKET_REQ (R592, R499): mirrors and copies are captured, else the Locket store is asked. -/
def execLocketReq (src : Nat) (s : State) : Host.Outcome State Fault Refusal :=
  s.hear src 9 fun c b => c.withConf fun k =>
    let tray := slice b 0x10 16
    let held := c.trayLockets k tray
    c.sendLockets k tray (leAt b 0x20 2 % 1024) (if held.isEmpty then State.trayStored { s with chip := c } k tray else held)

/-- One delivered Locket (R592, R107): before the first step it starts the cell again; later it serves the next boundary. `volts` and `amps`
are the first settled sweep and the current in FP32 (DESIGN CHOICE, log entry 2). -/
def Chip.takeLocket (c : Chip) (k : SysConf) (rest : Option Nat) (volts : List Nat) (amps tap : Nat) : Chip :=
  let old := c.ctx k tap
  if c.fw.started then c.lateLocket k tap
  else if ctxLive old = false ∨ leAt old 0x0B 1 < 2 ∨ leAt old 5 1 ≠ 0 then c
  else match c.stagedLocket k tap with
    | none => c
    | some l =>
      let c := c.fwPut (ctxAt k tap) (c.startLocket k ⟨leAt old 6 1, tap, nth volts tap 0, amps⟩ l rest)
      { c with
        fw.reinit := if rest.isSome then c.fw.reinit.filter fun i => decide (i ≠ tap) else c.fw.reinit
        fw.retrain := (c.fw.retrain.filter fun i => decide (i ≠ tap)) ++ [tap] }

/-- LOCKET_SENT (R592, R103, R107). -/
def execLocketSent (src : Nat) (volts : List Nat) (amps : Nat) (s : State) : Host.Outcome State Fault Refusal :=
  s.hear src 0x0A fun c b => c.withConf fun k =>
    let rest := leAt b 0x21 4
    if c.fw.tagStat ≠ 0 ∨ slice b 0x10 16 ≠ slice c.fw.tag 8 16 then c
    else (List.range (min 20 c.fw.series)).foldl
      (fun (c : Chip) i => c.takeLocket k (if fp32.isNan rest then none else some rest) volts amps i) c

/-- REFRESH (R574, R493): the named mirrors must be replaced by full copies; `brought` are those that data movers brought. -/
def execRefresh (src : Nat) (brought : List (Nat × Option (List Byte))) (s : State) : Host.Outcome State Fault Refusal :=
  s.hear src 0x0B fun c b => c.withConf fun k =>
    let ref := leAt b 0x10 2
    let slots := ((List.range (leAt b 0x12 1)).map fun i => 20 + ref / 1024 % 32 + i).filter fun i =>
      decide (i < 40) && c.holds k i 1 (ref % 1024)
    let c : Chip := { c with fw.resync := (c.fw.resync ++ slots).eraseDups }
    slots.foldl (fun (c : Chip) i => match broughtFor brought i with
      | some x => c.install k i 1 x
      | none => c) c

/-- RESET_CMD (R562, 21_faults_and_dumps.md): logged with its cause; WDT_DUMP is cleared, and the watchdog, served no longer, resets the
device. -/
def execResetCmd (src : Nat) (s : State) : Host.Outcome State Fault Refusal :=
  match s.chip.fwHear src 0x0C with
  | (some b, c) =>
    if c.fw.active = some src then
      let c := c.fwLog 0x4B (leAt b 0x10 2)
      .next (State.wdtReset { s with chip := c.setBit 0x40090004 1 false } 0)
    else .next { s with chip := c }
  | (none, c) => .next { s with chip := c }

end Sys2Proof.Machine
end

