-- ==== Sys2Proof/Machine/Routes.lean ====
section
/-! DEFINITION. What the active manager makes of a walk: IDs, routes, ring segments and buddies (15_manager_operation.md, R570, R572;
01_system_roles.md, R19 to R29, R43). A device is named by its place in the walk's list, which begins with the manager itself. -/
namespace Sys2Proof.Machine

/-! ### Discovery records as read -/

/-- Role code of a discovery record (Table 15-3). -/
def dRole (z : Seen) : Nat := leAt z.disc 4 1 % 16
/-- MGR_STATE. -/
def dState (z : Seen) : Nat := leAt z.disc 4 1 / 16 % 8
/-- TAGSTAT. -/
def dTag (z : Seen) : Nat := leAt z.disc 5 1
/-- SLOT. -/
def dSlot (z : Seen) : Nat := leAt z.disc 6 2
/-- DEV_SERIAL. -/
def dSerial (z : Seen) : Nat := leAt z.disc 8 8
/-- TRAY_SERIAL. -/
def dTray (z : Seen) : List Byte := slice z.disc 0x10 16
/-- TERM. -/
def dTerm (z : Seen) : Nat := leAt z.disc 0x38 4
/-- A manager's record. -/
def dMgr (z : Seen) : Bool := decide (dRole z = 1 ∨ dRole z = 2)
/-- MAGIC and CRC are right (R564). -/
def dGood (z : Seen) : Bool := decide (leAt z.disc 0 4 = 0x43534944 ∧ leAt z.disc 0x3C 4 = crc32 (z.disc.take 0x3C))

/-! ### IDs -/

/-- Element `i` of a walk. -/
def seenAt (w : List Seen) (i : Nat) : Seen := nth w i ⟨[], []⟩

/-- The device table entry that a worker keeps: by its tray (R28), else by its serial (R591). -/
def Mgr.keeps (m : Mgr) (z : Seen) : Option MDev :=
  let tray := m.devs.find? fun d => decide (dTag z = 0 ∧ d.tray = dTray z ∧ d.tray ≠ List.replicate 16 0)
  match tray with
  | some d => some d
  | none => m.devs.find? fun d => decide (d.serial = dSerial z ∧ 2 ≤ d.id ∧ (dTag z ≠ 0 ∨ d.tray = List.replicate 16 0))

/-- The device, other than the first, that takes the other manager ID (R566): a standby, else the first manager found. -/
def otherMgr (w : List Seen) : Option Nat :=
  let ms := (List.range w.length).filter fun i => decide (0 < i) && dMgr (seenAt w i) && decide (dState (seenAt w i) ≠ 4)
  match ms.find? fun i => decide (dState (seenAt w i) = 3) with
  | some i => some i
  | none => ms.head?

/-- How many trays of the walk hold a SLOT value. -/
def slotCountOf (w : List Seen) (slot : Nat) : Nat := (w.filter fun z => decide (dSlot z = slot)).length

/-- The highest worker ID that is free; none when all are used (R27, R29). -/
def topFree (used : List Nat) : Option Nat := ((List.range 1022).map fun i => 1023 - i).find? fun id => !used.contains id

/-- IDs of the walk's devices (R566, R570 step 1, R26 to R29): by place and ID. -/
def Mgr.assign (m : Mgr) (own : Nat) (w : List Seen) : List (Nat × Nat) :=
  let workers := (List.range w.length).filter fun i => decide (0 < i) && !dMgr (seenAt w i)
  let held := m.devs.map MDev.id
  let mgrs := (0, own) :: (match otherMgr w with | some i => [(i, 1 - own % 2)] | none => [])
  let kept := workers.filterMap fun i => (m.keeps (seenAt w i)).map fun d => (i, d.id)
  let new := workers.filter fun i => !(kept.any fun x => decide (x.1 = i))
  let slotted := (new.filter fun i =>
    let z := seenAt w i
    decide (dSlot z ≤ 1021) && decide (slotCountOf w (dSlot z) = 1) && !held.contains (dSlot z + 2)).map fun i => (i, dSlot (seenAt w i) + 2)
  let rest := new.filter fun i => !(slotted.any fun x => decide (x.1 = i))
  rest.foldl (fun l i => match topFree (held ++ l.map fun x => x.2) with
    | some id => l ++ [(i, id)]
    | none => l) (mgrs ++ kept ++ slotted)

/-- The ID of the device at a place. -/
def idOf (ids : List (Nat × Nat)) (i : Nat) : Option Nat := (ids.find? fun x => decide (x.1 = i)).map fun x => x.2
/-- The place of the device with an ID. -/
def placeOf (ids : List (Nat × Nat)) (id : Nat) : Option Nat := (ids.find? fun x => decide (x.2 = id)).map fun x => x.1

/-! ### Routes -/

/-- The links of a device to devices that have an ID: own port and the other's place. -/
def linksOf (w : List Seen) (ids : List (Nat × Nat)) (i : Nat) : List (Nat × Nat) :=
  ((seenAt w i).links.filter fun l => (idOf ids l.2.1).isSome).map fun l => (l.1, l.2.1)

/-- Distances in links to the first devices of `front`, over devices other than `bar`. -/
def spread (nb : Nat → List Nat) (bar : Nat) : Nat → Nat → List Nat → List (Nat × Nat) → List (Nat × Nat)
  | 0, _, _, got => got
  | k + 1, far, front, got =>
    let next := ((front.flatMap nb).filter fun x => decide (x ≠ bar) && !(got.any fun y => decide (y.1 = x))).eraseDups
    if next.isEmpty then got else spread nb bar k (far + 1) next (got ++ next.map fun x => (x, far + 1))

/-- The ports of `s` that begin a path to `d` of at most 32 links, each with the length of the shortest one. -/
def waysTo (w : List Seen) (ids : List (Nat × Nat)) (s d : Nat) : List (Nat × Nat) :=
  let got := spread (fun i => (linksOf w ids i).map fun l => l.2) s 31 0 [d] [(d, 0)]
  (linksOf w ids s).filterMap fun l => (got.find? fun y => decide (y.1 = l.2)).map fun y => (l.1, y.2 + 1)

/-- The shortest way, the lowest port on ties; 7 for none. -/
def bestWay (l : List (Nat × Nat)) : Nat :=
  match l.foldl (fun (b : Option (Nat × Nat)) x => match b with
    | some y => if x.2 < y.2 ∨ (x.2 = y.2 ∧ x.1 < y.1) then some x else b
    | none => some x) none with
  | some x => x.1
  | none => 7

/-- PRI and ALT of the route from `s` to `d` (R570 step 2). -/
def routeOf (w : List Seen) (ids : List (Nat × Nat)) (s d : Nat) : Nat × Nat :=
  if s = d then (7, 7)
  else
    let l := waysTo w ids s d
    let p := bestWay l
    (p, bestWay (l.filter fun x => decide (x.1 ≠ p)))

/-- HL_RTd, or HL_TPAR, of a route. -/
def routeWord (r : Nat × Nat) : Nat := r.1 + 16 * r.2

/-- The routing entry of the device at place `v` for an ID. -/
def rtWord (w : List Seen) (ids : List (Nat × Nat)) (v id : Nat) : Nat :=
  match placeOf ids id with
  | some d => routeWord (routeOf w ids v d)
  | none => 0x77

/-- The devices on the primary route from `s` to `d`, both included. -/
def pathTo (w : List Seen) (ids : List (Nat × Nat)) (d : Nat) : Nat → Nat → List Nat
  | 0, s => [s]
  | k + 1, s =>
    if s = d then [s]
    else match (linksOf w ids s).find? fun l => decide (l.1 = (routeOf w ids s d).1) with
      | some l => s :: pathTo w ids d k l.2
      | none => [s]

/-! ### Ring segments and buddies -/

/-- Ports of a worker in use by links, less those given to leaf segments. -/
def openPorts (w : List Seen) (ids : List (Nat × Nat)) (leaf : List (Nat × Nat)) (i : Nat) : List (Nat × Nat) :=
  (linksOf w ids i).filter fun l => !leaf.contains (i, l.1)

/-- The workers passed from a port on, and where the chain ends: each passes it on through the other of its two open ports. The second part
is the device and port it ends at. -/
def chainFrom (w : List Seen) (ids : List (Nat × Nat)) (leaf : List (Nat × Nat)) : Nat → Nat → Nat → List Nat × Option (Nat × Nat)
  | 0, _, _ => ([], none)
  | k + 1, i, p =>
    match (seenAt w i).links.find? fun l => decide (l.1 = p) with
    | none => ([], none)
    | some (_, j, q) =>
      let ps := openPorts w ids leaf j
      if dMgr (seenAt w j) || (idOf ids j).isNone || decide (ps.length ≠ 2) then ([], some (j, q))
      else match ps.find? fun l => decide (l.1 ≠ q) with
        | some l => let (r, e) := chainFrom w ids leaf k j l.1; (j :: r, e)
        | none => ([], some (j, q))

/-- A segment: the workers in order from the end whose attached device has the lower ID. -/
structure Segment where
  workers : List Nat
  deriving DecidableEq, Repr

/-- Leaf segments of bridges, found until no more are: a chain that leaves a worker and comes back to it (01_system_roles.md, Topology). -/
def leaves (w : List Seen) (ids : List (Nat × Nat)) : Nat → List (Nat × Nat) → List Segment → List (Nat × Nat) × List Segment
  | 0, leaf, segs => (leaf, segs)
  | k + 1, leaf, segs =>
    let found := (List.range w.length).findSome? fun i =>
      if dMgr (seenAt w i) || (idOf ids i).isNone || decide ((openPorts w ids leaf i).length < 3) then none
      else (openPorts w ids leaf i).findSome? fun l =>
        match chainFrom w ids leaf w.length i l.1 with
        | (x :: r, some (j, q)) => if j = i ∧ q ≠ l.1 then some ((i, l.1), (i, q), x :: r) else none
        | _ => none
    match found with
    | some (a, b, r) => leaves w ids k (a :: b :: leaf) (segs ++ [⟨r⟩])
    | none => (leaf, segs)

/-- Chains between managers, each from its lower end: the attached device's ID, then its port. -/
def trunks (w : List Seen) (ids : List (Nat × Nat)) (leaf : List (Nat × Nat)) : List Segment :=
  (List.range w.length).flatMap fun i =>
    if !dMgr (seenAt w i) then []
    else (linksOf w ids i).filterMap fun l =>
      match chainFrom w ids leaf w.length i l.1, idOf ids i with
      | (x :: r, some (j, q)), some a =>
        match dMgr (seenAt w j), idOf ids j with
        | true, some b => if a < b ∨ (a = b ∧ l.1 < q) then some ⟨x :: r⟩ else none
        | _, _ => none
      | _, _ => none

/-- Consecutive pairs. -/
def pairs : List Nat → List (Nat × Nat)
  | a :: b :: r => (a, b) :: pairs r
  | _ => []

/-- Buddies by place (R572). -/
def buddies (w : List Seen) (ids : List (Nat × Nat)) : List (Nat × Nat) :=
  let (leaf, segs) := leaves w ids w.length [] []
  ((segs ++ trunks w ids leaf).flatMap fun g => pairs g.workers)

/-- The buddy's ID of the device at a place, 0xFFFF for none. -/
def buddyOf (w : List Seen) (ids : List (Nat × Nat)) (i : Nat) : Nat :=
  match (buddies w ids).findSome? fun x => if x.1 = i then some x.2 else if x.2 = i then some x.1 else none with
  | some j => (idOf ids j).getD 0xFFFF
  | none => 0xFFFF

end Sys2Proof.Machine
end

