-- ==== Sys2Proof/Machine/Manager.lean ====
section
/-! DEFINITION. The manager's duties: discovery, enumeration, result collection, epochs, failover, delegation and link keys
(15_manager_operation.md; R732, R735). What a walk or a data mover of the firmware brings is the row's operand, and what firmware asks of
other devices' registers and memories is recorded (DESIGN CHOICE, log entry 21). -/
namespace Sys2Proof.Machine

/-- The manager is active. -/
def Chip.active (c : Chip) : Bool := c.isMgr && decide (c.mgr.state = .active)

/-- A row of the active manager. -/
def State.byActive (s : State) (f : Chip → SysConf → Chip) : Host.Outcome State Fault Refusal :=
  s.onChip fun c => c.withConf fun k => if c.active then f c k else c

/-- The device's own ID as firmware writes it. -/
def Chip.takeId (c : Chip) (id : Nat) : Chip := c.fwReg 0x40040004 (id + 2 ^ 31)

/-- HL_TPAR as firmware writes it. -/
def Chip.takeParent (c : Chip) (v : Nat) : Chip := (c.fwReg 0x40040010 v).timeShow

/-- Members other than this device, in ascending ID. -/
def Chip.members (c : Chip) : List Nat :=
  ((c.mgr.devs.filter fun d => decide (d.state = 1 ∧ some d.id ≠ c.hlId)).map MDev.id).mergeSort (· ≤ ·)

/-! ### Heartbeats and messages to the manager -/

/-- HEARTBEAT to every member; one that still waits for a receiver is replaced (R583, R581). COMMITTED is open before the first epoch is
committed. -/
def Chip.heartbeats (c : Chip) : Chip :=
  let id := c.fld 0x40040004 0 10
  let e := c.mgr.committed.getD (Config.openValue 59 []).toNat
  let busyTo := ((List.range 4).filter c.mbBusy).map fun q => c.fld (mbReg q 0) 16 10
  let old := fun (o : FwOut) => o.msg && decide (leAt o.data 0 1 = 1) && !busyTo.contains o.dest
  let c : Chip := { c with fw.out := c.fw.out.filter fun o => !old o }
  c.members.foldl (fun c d => c.fwTell d 1 (leBytes 2 id ++ idBytes c.mgr.standby ++ leBytes 4 e)) c

/-- DELEGATE's body (Table 15-2). -/
def MMove.body (m : MMove) (role : Nat) : List Byte :=
  leBytes 2 m.ref ++ leBytes 1 role ++ leBytes 1 (if m.remote then 1 else 0) ++ leBytes 2 m.source ++ leBytes 2 m.slot ++ leBytes 4 m.switch

/-- The same where a message holds it. -/
def MMove.message (m : MMove) (role : Nat) : List Byte := List.replicate 16 0 ++ m.body role

/-- RELEASE told to a device; this device itself takes it at once. -/
def Chip.tellRelease (c : Chip) (m : MMove) (dest : Nat) : Chip :=
  if c.hlId = some dest then (c.releaseCell (m.message 1)).releaseDone m.ref dest else c.fwTell dest 6 (m.body 1)

/-- A delegation whose RELEASE has not reached the cell's host by SWITCH is withdrawn from the target (R589). -/
def Chip.withdraw (c : Chip) (m : MMove) : Chip :=
  let late := atOrAfter c.packUs m.switch
  if m.accepted && late then
    let c : Chip := { c with
      mgr.moves := c.mgr.moves.erase m
      fw.out := c.fw.out.filter fun o =>
        !(o.msg && decide (o.dest = m.source ∧ leAt o.data 0 1 = 6 ∧ leAt o.data 0x10 2 = m.ref ∧ leAt o.data 0x12 1 = 1)) }
    c.tellRelease m m.target
  else c

/-- HEARTBEAT_TICK (R583, R581, R589). -/
def execHeartbeatTick (s : State) : Host.Outcome State Fault Refusal :=
  s.byActive fun c _ => (c.mgr.moves.foldl (fun c m => c.withdraw m) c).heartbeats

/-- PREPARED (R579 step 4): on OK the active manager sends COMMIT. -/
def execPrepared (src : Nat) (s : State) : Host.Outcome State Fault Refusal :=
  s.hear src 3 fun c b =>
    match c.mgr.snap with
    | some n =>
      if c.active && !n.commitSent && decide (n.epoch = leAt b 0x10 4 ∧ leAt b 0x14 1 = 0 ∧ c.mgr.standby = some src) then
        { c with mgr.snap := some { n with commitSent := true } }.fwTell src 4 (leBytes 4 n.epoch ++ leBytes 1 n.buf)
      else c
    | none => c

/-- The answer to a TAKE taken (R588 steps 2 and 3). -/
def Chip.moveAnswer (c : Chip) (ref target status : Nat) : Chip :=
  match c.mgr.moves.find? fun m => decide (m.ref = ref ∧ m.target = target ∧ m.accepted = false) with
  | none => c
  | some m =>
    let rest := c.mgr.moves.erase m
    if status = 0 then { c with mgr.moves := rest ++ [{ m with accepted := true }] }.tellRelease m m.source
    else { c with mgr.moves := rest }

/-- DELEGATE_ACK (R588). -/
def execDelegateAck (src : Nat) (s : State) : Host.Outcome State Fault Refusal :=
  s.hear src 7 fun c b => if c.active then c.moveAnswer (leAt b 0x10 2) src (leAt b 0x12 1) else c

/-- NEW_PEER (R567): the manager owes a walk from the member's port. -/
def execNewPeer (src : Nat) (s : State) : Host.Outcome State Fault Refusal :=
  s.hear src 8 fun c b =>
    if c.active then { c with mgr.walks := (c.mgr.walks ++ [(src, leAt b 0x10 1)]).eraseDups } else c

/-! ### Delegation and overload -/

/-- A delegation started (R588 step 1): to the manager itself the answer comes at once. -/
def Chip.startMove (c : Chip) (k : SysConf) (m : MMove) (chem : Nat) : Chip :=
  let c : Chip := { c with mgr.moves := c.mgr.moves ++ [m] }
  if c.hlId = some m.target then
    let (st, c) := c.takeCell k (m.message 0) chem
    c.moveAnswer m.ref m.target st
  else c.fwTell m.target 6 (m.body 0)

/-- DELEGATION (R588): cell `ref` moves to `target` in its slot `slot`, from boundary `switch` on, at least two step periods away; `chem` is
the cell's CHEM_ID. -/
def execDelegation (ref target : Nat) (remote : Bool) (slot switch chem : Nat) (s : State) : Host.Outcome State Fault Refusal :=
  s.byActive fun c k =>
    match c.mgr.cells.find? fun x => decide (x.ref = ref) with
    | some x =>
      let member := c.hlId = some target || c.members.contains target
      let early := atOrAfter switch (c.packUs + 2 * c.period k)
      if member && early && decide (x.host ≠ target) && !(c.mgr.moves.any fun m => decide (m.ref = ref)) then
        c.startMove k ⟨ref, target, x.host, remote, slot, switch % 2 ^ 32, false⟩ chem
      else c
    | none => c

/-- The lowest slot from 40 on that no delegated cell of a device holds (Table 13-1). -/
def Chip.freeSeat (c : Chip) (host : Nat) : Nat :=
  let used := (c.mgr.cells.filter fun x => decide (x.host = host)).map MCell.slot ++
    (c.mgr.moves.filter fun m => decide (m.target = host)).map MMove.slot
  (((List.range 216).map (40 + ·)).find? fun i => !used.contains i).getD 256

/-- The worker with most FREE within 32 links of an overloaded one (Table 15-9); the lower ID on ties. -/
def Chip.relief (c : Chip) (from_ : Nat) : Option MDev :=
  let w := c.mgr.seen
  let ids := (List.range w.length).filterMap fun i =>
    (c.mgr.devs.find? fun d => decide (d.serial = dSerial (seenAt w i))).map fun d => (i, d.id)
  let near := fun (d : MDev) => match placeOf ids from_, placeOf ids d.id with
    | some a, some b => decide ((routeOf w ids a b).1 ≠ 7)
    | _, _ => false
  (c.mgr.devs.filter fun d => decide (d.state = 1 ∧ 2 ≤ d.id ∧ d.id ≠ from_ ∧ 0 < d.free ∧ d.lates < 3) && near d).foldl
    (fun (b : Option MDev) d => match b with
      | some x => if x.free < d.free ∨ (x.free = d.free ∧ d.id < x.id) then some d else b
      | none => some d) none

/-- COPY contexts for cells, into the lowest slots free for them, while the free slots exceed MGR_RESERVE (R573). -/
def Chip.assignCopies (c : Chip) (k : SysConf) (refs : List Nat) : Chip :=
  refs.foldl (fun (c : Chip) ref =>
    let used := c.mgr.copies.map fun x => x.2
    let free := (List.range 2048).filter fun i => decide (c.fw.series ≤ i) && !used.contains i &&
      !(c.fw.taken.any fun t => decide (t.slot = i)) && !ctxLive (c.peekN (ctxAt k i) 256)
    if (c.mgr.copies.any fun x => decide (x.1 = ref)) || decide (free.length ≤ k.reserve) then c
    else match free with
      | i :: _ => { c with mgr.copies := c.mgr.copies ++ [(ref, i)] }
      | [] => c) c

/-- An overloaded worker relieved of one delegated context, or, where none can go, of its mirrors (Table 15-9, R593). -/
def Chip.relieve (c : Chip) (k : SysConf) (bound : Nat) (d : MDev) : Chip :=
  match c.mgr.cells.find? fun x => decide (x.host = d.id ∧ x.kind = 3) && !(c.mgr.moves.any fun m => decide (m.ref = x.ref)) with
  | some x =>
    match c.relief d.id with
    | some t => c.startMove k ⟨x.ref, t.id, d.id, false, c.freeSeat t.id, (bound + 2 * c.period k) % 2 ^ 32, false⟩ c.fw.chem
    | none =>
      let refs := (c.mgr.cells.filter fun y => decide (y.ref % 1024 = d.buddy)).map MCell.ref
      if refs.isEmpty then c
      else (c.assignCopies k refs).fwTell d.id 0x0B (leBytes 2 (refs.headD 0) ++ leBytes 1 refs.length)
  | none => c

/-- STEP_BOUNDARY (R478 to R491, R485): the newest boundary that has passed since the last step. `late` says that a descriptor of the step
carried LATE (R484; DESIGN CHOICE, log entry 2). The active manager then relieves workers that have been late three times (R593). -/
def execStepBoundary (late : Bool) (s : State) : Host.Outcome State Fault Refusal :=
  s.onChip fun c => c.withConf fun k =>
    let p := c.period k
    let b := c.fullUs / p * p
    match c.fw.bound with
    | some (us, _) =>
      if c.fw.started && decide (c.power.mode = .run) && decide (us < b ∨ c.fullUs < us) then
        let c := c.ownStep k b late
        if c.active then (c.mgr.devs.filter fun d => decide (3 ≤ d.lates ∧ d.state = 1)).foldl (fun c d => c.relieve k b d) c else c
      else c
    | none => c

/-! ### Discovery -/

/-- A manager that resolves to ACTIVE in a discovery (R566): ID 0, and a TERM above every one it has read. -/
def Chip.becomeActive (c : Chip) (w : List Seen) : Chip :=
  let term := (w.map dTerm).foldl max 0 + 1
  let rival := (w.drop 1).any fun z => dMgr z && decide (dRole z = c.boot.role ∧ dState z = 1)
  let c := { c with mgr.state := .active, mgr.term := term, fw.term := term, fw.active := some 0 }.takeId 0
  let c := if rival then c.fwLog 0x46 1 else c
  (c.takeParent 0x77).discShow

/-- Table 15-4 applied to what the walk found: none while it leaves the matter open. -/
def Chip.resolve (c : Chip) (w : List Seen) : Option MgrState :=
  let ms := (w.drop 1).filter dMgr
  let own := leNat c.ownSerial
  if ms.any (fun z => decide (dState z = 2)) && ms.any (fun z => decide (dState z = 3)) then some .excluded
  else if ms.any fun z => decide (dState z = 2) then some .standby
  else if ms.any fun z => decide (dState z = 1 ∧ (dRole z < c.boot.role ∨ (dRole z = c.boot.role ∧ dSerial z < own))) then some .standby
  else if c.boot.role = 1 then some .active else none

/-- HL_CTL.FWD_EN cleared by firmware. -/
def Chip.fwdOff (c : Chip) : Chip := c.fwReg 0x40040008 ((c.reg 0x40040008).toNat / 2 * 2)

/-- A manager's walk resolved; `activeId` is the ID read from the active manager where one was found (R566). -/
def Chip.settleMgr (c : Chip) (w : List Seen) (activeId : Option Nat) : Chip :=
  match c.resolve w with
  | some .active => c.becomeActive w
  | some .standby =>
    let found := (w.drop 1).any fun z => dMgr z && decide (dState z = 2)
    let id := if found then 1 - activeId.getD 0 % 2 else 1
    let term := (w.map dTerm).foldl max 0
    ({ c with mgr.state := .standby, mgr.term := term }.takeId id).discShow
  | some .excluded => (({ c with mgr.state := .excluded }.fwReg 0x40040004 0).fwdOff).discShow
  | _ => c

/-- MANAGER_CANDIDATE (R565, R17 to R21): a manager-role device at step 12 takes its rank's ID and walks; `w` is what the walk found,
beginning with itself. A record that fails R564 is not counted. -/
def execManagerCandidate (w : List Seen) (activeId : Option Nat) (s : State) : Host.Outcome State Fault Refusal :=
  s.onChip fun c => c.withConf fun _ =>
    if !c.isMgr || decide (c.mgr.state ≠ .none) then c
    else
      let c := ({ c with mgr.state := .candidate, mgr.term := 0 }.takeId (c.boot.role - 1)).discShow
      let w := seenAt w 0 :: (w.drop 1).filter dGood
      { c with mgr.seen := w }.settleMgr w activeId

/-- DISCOVERY_WINDOW_EXPIRY (R18, Table 15-4): the walk and 500 ms are over. -/
def execDiscoveryWindowExpiry (s : State) : Host.Outcome State Fault Refusal :=
  s.onChip fun c => c.withConf fun _ =>
    if c.isMgr && decide (c.mgr.state = .candidate) then c.becomeActive c.mgr.seen else c

/-! ### Link keys -/

/-- One link keyed under R732: at an end on this device firmware uses local accesses. It logs LINK_KEY_FAIL when neither try ended with both
ends INSTALLED. -/
def Chip.keyLink (c : Chip) (t : KeyTry) : Chip :=
  let own := decide (c.hlId = some t.dev) && decide (t.port < 4)
  let c :=
    if own then
      let c := c.keyStart t.port
      let c := (List.range 4).foldl (fun (c : Chip) i => c.fwReg (lkReg t.port (0x10 + 4 * i)) (leAt t.nonce (4 * i) 4)) c
      let c := (List.range 2).foldl (fun (c : Chip) i => c.fwReg (lkReg t.port (0x20 + 4 * i)) (leAt t.serial (4 * i) 4)) c
      (c.keyInstall t.port).timeShow
    else c
  let here := !own || decide (Machine.fld (c.reg (lkReg t.port 0x2C)) 0 4 = 2)
  if here && (t.ok1 || t.ok2) then c else c.fwLog 0x5A t.dev

/-- LINK_KEY_SWEEP (R735): the UP ports that were found without a key, keyed under R732. -/
def execLinkKeySweep (keys : List KeyTry) (s : State) : Host.Outcome State Fault Refusal :=
  s.byActive fun c _ => keys.foldl Chip.keyLink c

/-! ### Enumeration -/

/-- What the walk tells of a member, over what the device table held (R28, R591). -/
def mdevOf (old : Option MDev) (z : Seen) (id buddy : Nat) : MDev :=
  let same := match old with | some d => decide (d.serial = dSerial z) | none => false
  { id := id, serial := dSerial z, tray := dTray z, state := 1, tagStat := dTag z, buddy := buddy
    nextSeq := if same then (match old with | some d => d.nextSeq | none => 0) else 0
    inbox := leAt z.disc 0x28 4, ret := leAt z.disc 0x2C 4, ctx := leAt z.disc 0x30 4, locketIn := leAt z.disc 0x34 4, fails := 0
    lates := 0, free := leAt z.disc 0x26 2, series := leAt z.disc 0x24 1 }

/-- The device table after a walk. -/
def Mgr.enroll (m : Mgr) (w : List Seen) (ids : List (Nat × Nat)) : Mgr :=
  let new := ids.map fun x => mdevOf (m.dev x.2) (seenAt w x.1) x.2 (buddyOf w ids x.1)
  { m with devs := ((m.devs.filter fun d => !(new.any fun e => decide (e.id = d.id))) ++ new).mergeSort fun a b => decide (a.id ≤ b.id) }

/-- The cells of the members, in ascending owner ID and then tap order; a cell already known keeps its entry. -/
def Mgr.enrollCells (m : Mgr) : Mgr :=
  { m with cells := m.devs.flatMap fun d => (List.range (min 20 d.series)).map fun i =>
      (m.cells.find? fun x => decide (x.ref = d.id + 1024 * i)).getD ⟨d.id + 1024 * i, d.id, i, 0, 0⟩ }

/-- IDs whose tray is known and whose board is another than the device table has. -/
def Chip.replaced (c : Chip) (w : List Seen) (ids : List (Nat × Nat)) : List Nat :=
  ids.filterMap fun x => match c.mgr.dev x.2 with
    | some d => if 0 < x.1 ∧ 2 ≤ x.2 ∧ d.serial ≠ dSerial (seenAt w x.1) then some x.2 else none
    | none => none

/-- The manager's log of a walk (R19 to R29, Table 15-8): extra managers, slot values held twice, workers without an ID, replaced boards. -/
def Chip.logWalk (c : Chip) (w : List Seen) (ids : List (Nat × Nat)) : Chip :=
  let bare := (List.range w.length).filter fun i => (idOf ids i).isNone
  let c := (bare.filter fun i => dMgr (seenAt w i)).foldl (fun c i => c.fwLog 0x47 (dSlot (seenAt w i))) c
  let dup := ((w.map dSlot).filter fun x => decide (x ≤ 1021 ∧ 2 ≤ slotCountOf w x)).eraseDups
  let c := dup.foldl (fun c x => c.fwLog 0x48 x) c
  let c := (bare.filter fun i => !dMgr (seenAt w i)).foldl (fun c i => c.fwLog 0x49 (dSlot (seenAt w i))) c
  (c.replaced w ids).foldl (fun c id => c.fwLog 0x54 id) c

end Sys2Proof.Machine
end

