-- ==== Sys2Proof/Machine/Collect.lean ====
section
/-! DEFINITION. The active manager's result collection, mirror comparison, epochs and enumeration, and the standby's takeover
(15_manager_operation.md, R570, R574 to R592). -/
namespace Sys2Proof.Machine

/-! ### Result collection -/

/-- The collection slot of a worker (R575). -/
def collectAt (k : SysConf) (id : Nat) : Nat := k.collect + 1024 * id

/-- Bytes of a batch. -/
def batchLen (b : List Byte) : Nat := 32 + 32 * leAt b 6 1

/-- A batch's MAGIC, SRC, COUNT and CRC are right (Table 15-6). -/
def batchOk (id : Nat) (b : List Byte) : Bool :=
  decide (leAt b 0 4 = 0x48544142 ∧ leAt b 4 2 = id ∧ leAt b 6 1 ≤ 20 ∧
    leAt b 0x1C 4 = crc32 (b.take 0x1C ++ slice b 0x20 (32 * leAt b 6 1)))

/-- A record of a batch carries FLAGS.LATE. -/
def batchLate (b : List Byte) : Bool := (List.range (leAt b 6 1)).any fun i => nbit (leAt b (0x20 + 32 * i + 0x1A) 1) 0

/-- The records of a collection slot given to Belfry to check (R577, Table 18-7). -/
def Chip.checkBatch (c : Chip) (k : SysConf) (id seq n : Nat) (second : Bool) : Chip :=
  let slots := max 1 k.hoSlots
  let w := c.peekLe k.hoBase 4 % slots
  let next := (w + 1) % slots
  if n = 0 ∨ next = Machine.fld (c.reg 0x40070038) 0 8 then c
  else
    let e := leBytes 1 2 ++ leBytes 1 n ++ leBytes 2 0 ++ leBytes 4 (collectAt k id + 0x20) ++ leBytes 4 32 ++ leBytes 16 0
    let c : Chip := { c with mgr.checks := c.mgr.checks ++ [(id, seq, w, second)] }
    ((c.fwPut (k.hoBase + 64 + 32 * w) (padTo 32 e)).fwPut (k.hoBase + 4) (leBytes 4 c.fw.chem)).fwPut k.hoBase (leBytes 4 next)

/-- The batch in a worker's collection slot accepted when it passes (R576). -/
def Chip.acceptBatch (c : Chip) (k : SysConf) (id : Nat) : Chip :=
  match c.mgr.dev id with
  | none => c
  | some d =>
    let b := c.peekN (collectAt k id) 1024
    if d.state = 1 ∧ batchOk id b = true ∧ leAt b 8 4 = d.nextSeq then
      (c.onDev id fun d => { d with
        nextSeq := (d.nextSeq + 1) % 2 ^ 32, fails := 0, lates := if batchLate b then d.lates + 1 else 0 }).checkBatch k id d.nextSeq
          (leAt b 6 1) false
    else c

/-- RESULT_BATCH_ACCEPT (R576, R577): the batch of worker `id`. -/
def execResultBatchAccept (id : Nat) (s : State) : Host.Outcome State Fault Refusal := s.byActive fun c k => c.acceptBatch k id

/-- A worker declared lost (R590): the manager owes a walk from its neighbours. -/
def Chip.loseWorker (c : Chip) (id : Nat) : Chip :=
  let w := c.mgr.seen
  let ids := (List.range w.length).filterMap fun i =>
    (c.mgr.devs.find? fun d => decide (d.serial = dSerial (seenAt w i))).map fun d => (i, d.id)
  let near := match placeOf ids id with
    | some i => (seenAt w i).links.filterMap fun l => (idOf ids l.2.1).map fun n => (n, l.2.2)
    | none => []
  { c with mgr.walks := (c.mgr.walks ++ near).eraseDups }.onDev id (fun d => { d with state := 2 }) |>.fwLog 0x53 id

/-- BATCH_MISSING_READ (R576, R577, R590, R591): a data mover's read of slot NEXT_SEQ mod 128 of worker `id`'s ring; `got` is none when it
ended with NO_ROUTE or TIMEOUT, and `seqs` are the SEQs the ring was then found to hold where the slot holds a later one. A batch whose
records Belfry turned down is read again once. -/
def execBatchMissingRead (id : Nat) (got : Option (List Byte)) (seqs : List Nat) (s : State) : Host.Outcome State Fault Refusal :=
  s.byActive fun c k =>
    match c.mgr.dev id with
    | none => c
    | some d =>
      if d.state ≠ 1 then c
      else match got with
        | none =>
          let c := c.onDev id fun d => { d with fails := d.fails + 1 }
          if 3 ≤ d.fails + 1 then c.loseWorker id else c
        | some b =>
          let c := c.onDev id fun d => { d with fails := 0 }
          let seq := leAt b 8 4
          if !batchOk id b then c
          else if c.mgr.again.contains (id, seq) then
            ({ c with mgr.again := c.mgr.again.erase (id, seq) }.fwPut (collectAt k id) (padTo 1024 b)).checkBatch k id seq (leAt b 6 1) true
          else if seq = d.nextSeq then (c.fwPut (collectAt k id) (padTo 1024 b)).acceptBatch k id
          else if atOrAfter seq d.nextSeq then
            let left := seqs.filter fun x => atOrAfter x d.nextSeq
            let oldest := left.foldl (fun m x => if atOrAfter m x then x else m) seq
            (c.onDev id fun d => { d with nextSeq := oldest }).fwLog 0x56 id
          else c

/-- Records whose BCRC Belfry turned down become INVALID, and their batch is read again once (R577). -/
def Chip.checked (c : Chip) (k : SysConf) (x : Nat × Nat × Nat × Bool) : Chip :=
  let res := c.peekLe (k.hoBase + 64 + 32 * x.2.2.1 + 0x1C) 4
  let c := (List.range 20).foldl (fun (c : Chip) i =>
    if nbit res i then
      let a := collectAt k x.1 + 0x20 + 32 * i + 0x1B
      c.fwPut a (leBytes 1 (c.peekLe a 1 % 16 + 0x30))
    else c) c
  if res ≠ 0 ∧ x.2.2.2 = false then { c with mgr.again := c.mgr.again ++ [(x.1, x.2.1)] } else c

/-- HANDOFF_POLL (R670 to R680, R575, R577): Belfry judges and checks what was handed over; firmware sends the batch that waited for the
verdicts, and the manager takes Belfry's answers. -/
def execHandoffPoll (late : Bool) (custom : List Nat) (s : State) : Host.Outcome State Fault Refusal :=
  s.onChip fun c =>
    let c := (c.handoffPoll late custom).batchDue
    c.withConf fun k =>
      if c.peekLe k.hoBase 4 % max 1 k.hoSlots = Machine.fld (c.reg 0x40070038) 0 8 then
        c.mgr.checks.foldl (fun c x => c.checked k x) { c with mgr.checks := [] }
      else c

/-! ### Mirrors compared -/

/-- Buddy pairs of the device table by ascending ID. -/
def Mgr.buddyPairs (m : Mgr) : List (Nat × Nat) :=
  ((m.devs.filter fun d => decide (d.buddy ≠ 0xFFFF ∧ d.id < d.buddy)).map fun d => (d.id, d.buddy)).mergeSort fun a b => decide (a.1 ≤ b.1)

/-- The pair to compare at this boundary (R574). -/
def Mgr.nextPair (m : Mgr) : Option (Nat × Nat) :=
  match m.buddyPairs.find? fun x => decide (m.pair < x.1) with
  | some x => some x
  | none => m.buddyPairs.head?

/-- What R574 compares of a record: all but MIRROR, VERDICT and BCRC. -/
def comparable (r : List Byte) : Nat × List Byte := (leAt r 0 2 % 32768, slice r 2 25 ++ leBytes 1 (leAt r 0x1B 1 % 16))

/-- Owner and mirror records of one step that differ (R574, R482). -/
def diverged (a b : List Byte) : Bool := decide (leAt a 2 2 = leAt b 2 2 ∧ comparable a ≠ comparable b)

/-- The divergences of one owner's cells reported to its buddy. -/
def Chip.reportPair (c : Chip) (reads : List (Nat × List Byte × List Byte)) (owner buddy : Nat) : Chip :=
  let bad := ((reads.filter fun x => decide (x.1 % 1024 = owner) && diverged x.2.1 x.2.2).map fun x => x.1 / 1024 % 32).mergeSort (· ≤ ·)
  match bad, bad.getLast? with
  | lo :: _, some hi => (c.fwLog 0x57 owner).fwTell buddy 0x0B (leBytes 2 (owner + 1024 * lo) ++ leBytes 1 (hi + 1 - lo))
  | _, _ => c

/-- MIRROR_COMPARE (R574): `reads` are the LAST fields that data movers read of the next pair's cells: CELLREF, the owner's and the
buddy's. -/
def execMirrorCompare (reads : List (Nat × List Byte × List Byte)) (s : State) : Host.Outcome State Fault Refusal :=
  s.byActive fun c _ => match c.mgr.nextPair with
    | some (a, b) => ({ c with mgr.pair := a }.reportPair reads a b).reportPair reads b a
    | none => c

/-! ### Epochs -/

/-- The snapshot still uncommitted at the end of the next epoch is abandoned; after three in a row the system has no standby (R582). -/
def Chip.abandon (c : Chip) : Chip :=
  match c.mgr.snap with
  | none => c
  | some _ =>
    let c : Chip := { c with mgr.snap := none, mgr.lost := c.mgr.lost + 1 }
    if 3 ≤ c.mgr.lost then { c with mgr.standby := none, mgr.lost := 0 }.fwLog 0x52 (c.mgr.standby.getD 0xFFFF) else c

/-- EPOCH_END (R578, R579, R581, R582): S_E assembled and, with a standby, copied and announced; `copied` tells that the copy ended with OK
(DESIGN CHOICE, log entry 21). -/
def execEpochEnd (copied : Bool) (s : State) : Host.Outcome State Fault Refusal :=
  s.byActive fun c k =>
    let c := c.abandon
    let e := (epochOf k c.fullUs + 2 ^ 32 - 1) % 2 ^ 32
    match c.mgr.standby with
    | none => { c with mgr.committed := some e }
    | some d =>
      let b := c.snapshot e
      let buf := c.mgr.buf
      let c : Chip := { c with mgr.snap := some ⟨e, buf, false⟩, fw.copies := [⟨d, epochBuf k buf, b⟩] }
      if copied then c.fwTell d 2 (leBytes 4 e ++ leBytes 1 buf ++ leBytes 4 b.length ++ leBytes 4 (crc32 b)) else c

/-! ### Enumeration -/

/-- The register writes of R570 steps 1, 3, 4 and 8 for the member at place `i`. -/
def pushesFor (w : List Seen) (ids : List (Nat × Nat)) (i id : Nat) : List FwPush :=
  let through := ids.filterMap fun x => if (pathTo w ids x.1 32 0).contains i ∧ x.1 ≠ i then some x.2 else none
  let first := ([0, 1] ++ through).eraseDups
  [⟨id, 4, id + 2 ^ 31⟩] ++ first.map (fun d => ⟨id, 0x1000 + 4 * d, rtWord w ids i d⟩) ++ [⟨id, 0x10, routeWord (routeOf w ids i 0)⟩]

/-- A device's whole routing table (R570 step 6). -/
def tableFor (w : List Seen) (ids : List (Nat × Nat)) (i : Nat) : List Byte := (List.range 1024).flatMap fun d => leBytes 4 (rtWord w ids i d)

/-- The manager's own routing table and time parent. -/
def Chip.ownRoutes (c : Chip) (w : List Seen) (ids : List (Nat × Nat)) : Chip :=
  ((List.range 1024).foldl (fun (c : Chip) d => c.fwReg (0x40041000 + 4 * d) (rtWord w ids 0 d)) c).takeParent 0x77

/-- SCHEDULE to every member, then ENUM_OPEN cleared (R570 step 8). -/
def Chip.schedules (c : Chip) (ids : List (Nat × Nat)) : Chip :=
  let others := (ids.filter fun x => decide (0 < x.1)).map fun x => x.2
  let c := others.foldl (fun c id =>
    let buddy := match c.mgr.dev id with | some d => d.buddy | none => 0xFFFF
    c.fwTell id 5 (leBytes 4 c.mgr.sched ++ leBytes 2 buddy ++ idBytes c.mgr.standby)) c
  let shut : List FwPush := others.map fun id => ⟨id, 8, 0⟩
  { c with fw.pushes := c.fw.pushes ++ shut }.fwReg 0x40040008 (Machine.fld (c.reg 0x40040008) 0 1)

/-- The Lockets of a replaced board's tray sought (R592): the higher STEP of the buddy's mirrors and the own copies, the buddy on a tie;
else the own Locket store and the buddy's; else NO_HISTORY. `old` tells, as read, the STEP of the buddy's mirrors, and whether the buddy's
store holds the tray's Lockets. -/
def State.seekLockets (s : State) (k : SysConf) (id : Nat) (old : Option Nat × Bool) : State :=
  let c := s.chip
  match c.mgr.dev id with
  | none => s
  | some d =>
    let copies := (c.mgr.copies.filter fun x => decide (x.1 % 1024 = id) && ctxLive (c.peekN (ctxAt k x.2) 256)).map fun x =>
      leAt (c.ctx k x.2) 0x0C 4
    let mine := copies.max?
    let ask := fun (c : Chip) => c.fwTell d.buddy 9 (padTo 16 d.tray ++ leBytes 2 id)
    let buddy := decide (d.buddy ≠ 0xFFFF)
    let stored := s.trayStored k d.tray
    { s with chip :=
      match (if buddy then old.1 else none), mine with
      | some x, some y => if y ≤ x then ask c else c.sendLockets k d.tray id (c.trayLockets k d.tray)
      | some _, none => ask c
      | none, some _ => c.sendLockets k d.tray id (c.trayLockets k d.tray)
      | none, none =>
        if !stored.isEmpty then c.sendLockets k d.tray id stored
        else if buddy && old.2 then ask c else c.fwLog 0x55 id }

/-- ENUMERATION (R570, R564, R566, R572, R573, R590 to R592): the active manager, its walk `w` beginning with itself and done, gives IDs,
routes, time parents, keys, copies and schedules. `keys` are the runs of R732 on the links, and `olds` what was read for replaced boards. -/
def execEnumeration (w : List Seen) (keys : List KeyTry) (olds : List (Nat × Option Nat × Bool)) (s : State) :
    Host.Outcome State Fault Refusal :=
  let c := s.chip
  match c.fw.conf, c.hlId with
  | some k, some own =>
    if !c.fwRuns || !c.active then .next s
    else
      let ids := c.mgr.assign own w
      let swapped := c.replaced w ids
      let c := c.logWalk w ids
      let m := ((c.mgr.enroll w ids).enrollCells)
      let c : Chip := { c with mgr := { m with
        sched := (c.mgr.sched + 1) % 2 ^ 32, seen := w, walks := []
        standby := (otherMgr w).bind (idOf ids) } }
      let pushes := (ids.filter fun x => decide (0 < x.1)).flatMap fun x => pushesFor w ids x.1 x.2
      let copies : List FwCopy := (ids.filter fun x => decide (0 < x.1)).map fun x => ⟨x.2, 0x40041000, tableFor w ids x.1⟩
      let c := { c with fw.pushes := pushes, fw.copies := copies }.ownRoutes w ids
      let c := keys.foldl Chip.keyLink c
      let c := c.assignCopies k ((c.mgr.cells.filter fun x => decide (x.ref % 1024 ≠ own)).map MCell.ref)
      let s : State := { s with chip := (c.schedules ids).discShow }
      .next (swapped.foldl (fun s id =>
        s.seekLockets k id (((olds.find? fun x => decide (x.1 = id)).map fun x => x.2).getD (none, false))) s)
  | _, _ => .next s

/-! ### Failover -/

/-- MANAGER_LOST (R584, R556, R587): 30 ms have passed with no HEARTBEAT, and the standby takes over. -/
def execManagerLost (s : State) : Host.Outcome State Fault Refusal :=
  s.onChip fun c => c.withConf fun k =>
    match c.hlId with
    | none => c
    | some own =>
      if !c.isMgr || decide (c.mgr.state ≠ .standby) then c
      else
        let term := (c.mgr.term + 1) % 2 ^ 32
        let n := c.mgr.committed
        let c := { c with
          mgr.state := .active, mgr.term := term, mgr.standby := none, mgr.snap := none, mgr.lost := 0, mgr.moves := []
          fw.term := term, fw.active := some own, fw.standby := none }.takeParent 0x77
        let c := c.heartbeats
        let w := c.mgr.seen
        let ids := (List.range w.length).filterMap fun i =>
          (c.mgr.devs.find? fun d => decide (d.serial = dSerial (seenAt w i))).map fun d => (i, d.id)
        let pushes : List FwPush := c.members.filterMap fun id =>
          (placeOf ids id).map fun i => ⟨id, 0x10, routeWord (routeOf w ids i 0)⟩
        let c := { c with fw.pushes := pushes }.fwLog 0x50 (n.getD 0xFFFFFF)
        (c.assignCopies k ((c.mgr.cells.filter fun x => decide (x.ref % 1024 ≠ own)).map MCell.ref)).discShow

end Sys2Proof.Machine
end

