-- ==== Sys2Proof/Machine/Dme.lean ====
section
/-! DEFINITION. Data movers (Table 10-15, R391 to R394): local work piece by piece through the engine's own fabric port, remote work
as transactions of the requester. -/
namespace Sys2Proof.Machine

/-- A data mover's local work: it changes the state and ends with a value, or early with a result. -/
abbrev DmeM := ExceptT OpRes (StateM State)

/-- A register outside the output buffers: 32 bits at a time (R5). -/
def regSide (a : Nat) : Bool := isReg a && !isOutBuf a

/-- Bytes moved at a time: within a line on both sides, and a word where a register is named (R5, R391). -/
def pieceOf (src dst n : Nat) : Nat :=
  if regSide src || regSide dst then
    if (!regSide src || decide (src % 4 = 0)) && (!regSide dst || decide (dst % 4 = 0)) && decide (4 ≤ n) then 4 else 1
  else min n (min (64 - src % 64) (64 - dst % 64))

/-- One piece read; a plain bus error reads 0 (R62, R353). -/
def dread (w : Who) (a n : Nat) : DmeM (List Byte) := do
  let (r, s) := (← get).busRead w.e w.cls a n 0
  set s
  match r with
  | .ok b => return b
  | .busError => return List.replicate n 0
  | .refused l => throw ⟨4, 2, l, 0, 0, 0⟩
  | .uncorrectable => throw ⟨5, ueDetail a, a, 0, 0, 0⟩

/-- One piece written; a plain bus error ignores it. -/
def dwrite (w : Who) (a : Nat) (d : List Byte) : DmeM Unit := do
  let (r, s) := (← get).busWrite w.e w.cls a d 0
  set s
  match r with
  | .ok _ => return ()
  | .busError => return ()
  | .refused l => throw ⟨4, 3, l, 0, 0, 0⟩
  | .uncorrectable => throw ⟨5, ueDetail a, a, 0, 0, 0⟩

/-- `n` bytes copied on this device, piece by piece; the fuel is at least `n`. -/
def dcopy (w : Who) : Nat → Nat → Nat → Nat → DmeM Unit
  | 0, _, _, _ => pure ()
  | k + 1, src, dst, n =>
    if n = 0 then pure ()
    else do
      let m := pieceOf src dst n
      dwrite w dst (← dread w src m)
      dcopy w k (src + m) (dst + m) (n - m)

/-- `n` bytes read on this device. -/
def dfetch (w : Who) : Nat → Nat → Nat → DmeM (List Byte)
  | 0, _, _ => pure []
  | k + 1, a, n =>
    if n = 0 then pure []
    else do
      let m := pieceOf a 0 n
      let b ← dread w a m
      return b ++ (← dfetch w k (a + m) (n - m))

/-- Bytes written on this device. -/
def dput (w : Who) : Nat → Nat → List Byte → DmeM Unit
  | 0, _, _ => pure ()
  | k + 1, a, d =>
    if d = [] then pure ()
    else do
      let m := pieceOf 0 a d.length
      dwrite w a (d.take m)
      dput w k (a + m) (d.drop m)

/-! ### Sides and pieces -/

/-- The device a side is on: none for this one (Table 10-15, P0). -/
def sideOf (own : Option Nat) (o : Opnd) (dst : Bool) : Option Nat :=
  let id := if dst then o.p0 / 65536 % 1024 else o.p0 % 1024
  if nbit o.p0 31 && decide (own ≠ some id) then some id else none

/-- Remote work in packets of at most 256 bytes (R392). -/
def movesOf (kind dev remote here len : Nat) : List Move :=
  (List.range ((len + 255) / 256)).map fun i => ⟨kind, dev, remote + 256 * i, here + 256 * i, min 256 (len - 256 * i), []⟩

/-- One range moved from a source to a destination: done here when both sides are here, and otherwise the requests it takes. -/
def dmove (w : Who) (from' to' : Option Nat) (src dst n : Nat) : DmeM (List Move) :=
  match from', to' with
  | some d, _ => return movesOf 0 d src dst n
  | none, some d => return movesOf 1 d dst src n
  | none, none => do
    dcopy w n src dst n
    return []

/-- COPY's work. -/
def copyWork (w : Who) (o : Opnd) (fr to' : Option Nat) : DmeM (List Move × Option OpRes) := do
  return (← dmove w fr to' o.a o.d o.p1, none)

/-- FILL's work. -/
def fillWork (w : Who) (o : Opnd) (_ to' : Option Nat) : DmeM (List Move × Option OpRes) := do
  let pat := leBytes 4 o.b
  match to' with
  | some d => return ((movesOf 1 d o.d 0 o.p1).map fun m => { m with data := (List.replicate (m.len / 4) pat).flatten }, none)
  | none => do
    dput w o.p1 o.d (List.replicate (o.p1 / 4) pat).flatten
    return ([], none)

/-- One list entry moved: its read completes before its write (R394). A range of it on this device that breaks R391 is not accessed
and ends the descriptor with RANGE (R364, Table 10-3). -/
def entryMove (w : Who) (from' to' : Option Nat) (src dst n : Nat) : DmeM (List Move) :=
  if (from'.isSome || mapped ⟨src, n, 1⟩) && (to'.isSome || mapped ⟨dst, n, 1⟩) then
    match from', to' with
    | none, none => do
      let b ← dfetch w n src n
      dput w n dst b
      return []
    | _, _ => dmove w from' to' src dst n
  else throw ⟨1, 0, 0, 0x81000000, 0, 0⟩

/-- List entries processed in order (R394): entry `i` on, with `off` bytes of the packed side behind. With them, how the descriptor
must end where an entry stops it: the requests of the entries before it still stand. -/
def listMoves (w : Who) (list : Nat) (f : Nat → Nat → Nat → DmeM (List Move)) : Nat → Nat → Nat → DmeM (List Move × Option OpRes)
  | 0, _, _ => pure ([], none)
  | k + 1, i, off =>
    tryCatch (do
      let b ← dfetch w 8 (list + 8 * i) 8
      let n := leAt b 4 4
      let ms ← f (leAt b 0 4) off n
      let (rest, stop) ← listMoves w list f k (i + 1) (off + n)
      return (ms ++ rest, stop)) fun res => pure ([], some res)

/-- GATHER's work. -/
def dmeGatherWork (w : Who) (o : Opnd) (fr to' : Option Nat) : DmeM (List Move × Option OpRes) :=
  listMoves w o.b (fun a off n => entryMove w fr to' a (o.d + off) n) o.n0 0 0

/-- SCATTER's work. -/
def scatterWork (w : Who) (o : Opnd) (fr to' : Option Nat) : DmeM (List Move × Option OpRes) :=
  listMoves w o.b (fun a off n => entryMove w fr to' (o.a + off) a n) o.n0 0 0

/-- FETCH_ADD's work (R394). -/
def fetchAddWork (w : Who) (o : Opnd) (fr to' : Option Nat) : DmeM (List Move × Option OpRes) := do
  let add ← dfetch w 8 o.b 8
  match fr with
  | some d => return ([⟨2, d, o.a, o.d, 8, add⟩], none)
  | none => do
    let old ← dread w o.a 8
    dwrite w o.a (leBytes 8 (leNat old + leNat add))
    match to' with
    | some d => return ([⟨1, d, o.d, 0, 8, old⟩], none)
    | none => do
      dput w 8 o.d old
      return ([], none)

/-! ### Remote work -/

/-- The running descriptor of engine `e` changed. -/
def State.onRun (s : State) (e : Nat) (f : Running → Running) : State :=
  { s with chip := s.chip.onEng e fun g => { g with run := g.run.map f } }

/-- Nothing is left to do: the operation has been performed. -/
def Running.settle (r : Running) : Running := if r.todo = [] ∧ r.sent = [] then { r with done := true } else r

/-- The operation ends with `res` once the answers outstanding have come (R393). -/
def Running.failing (r : Running) (res : OpRes) : Running :=
  ({ r with todo := [], res := if r.res.status = 1 then res else r.res }).settle

/-- Transactions a DME holds open (R392). -/
def Chip.dmeOpen (c : Chip) (e : Nat) : Nat := (c.hl.xacts.filter fun x => decide (x.owner = .dme e)).length

/-- One request issued: its data are read here, a tag is drawn, and it is sent. False when no tag is free (R541). -/
def State.dmeIssue (s : State) (e : Nat) (r : Running) (m : Move) : Bool × State :=
  let w : Who := ⟨e, r.d.cls⟩
  let vc := if nbit r.d.opnd.p0 26 then 3 else 2
  let (x, s) := if m.kind = 1 ∧ m.data = [] then (dfetch w m.len m.here m.len).run s else (.ok m.data, s)
  match x with
  | .error res => (true, s.onRun e fun r => r.failing res)
  | .ok pay =>
    match s.chip.openXact (.dme e) m.kind vc m.dev r.d.cls m.remote m.len pay with
    | (none, c) => (false, { s with chip := c })
    | (some tag, c) => (true, { s with chip := c }.onRun e fun r => { r with todo := r.todo.drop 1, sent := r.sent ++ [(tag, m)] })

/-- Requests issued while the descriptor has any and fewer than 32 are outstanding (R392). -/
def State.dmePump (s : State) (e : Nat) : Nat → State
  | 0 => s
  | k + 1 => match (s.chip.engine e).run with
    | some r => match r.todo with
      | m :: _ =>
        if r.done ∨ 32 ≤ s.chip.dmeOpen e then s
        else match s.dmeIssue e r m with
          | (true, s) => s.dmePump e k
          | (false, s) => s
      | [] => s
    | none => s

/-- A transaction of engine `e` has completed with `cause`, 0 being OK (R392, R393); an answer its descriptor no longer waits for
changes nothing. -/
def State.dmeAnswer (s : State) (e tag cause : Nat) (data : List Byte) : State :=
  match (s.chip.engine e).run with
  | none => s
  | some r => match r.sent.find? fun x => decide (x.1 = tag) with
    | none => s
    | some x =>
      let s := s.onRun e fun r => { r with sent := r.sent.erase x }
      if cause ≠ 0 then s.onRun e fun r => r.failing (OpRes.bare 11 cause)
      else if x.2.kind = 1 then s.onRun e Running.settle
      else match (dput ⟨e, r.d.cls⟩ x.2.len x.2.here (padTo x.2.len data)).run s with
        | (.ok _, s) => s.onRun e Running.settle
        | (.error res, s) => s.onRun e fun r => r.failing res

/-- The running descriptor of a data mover performed when its opcode is `op`: its local work is done, and its remote work begun. LB_CE
tells of a corrected error in the meantime (Table 09-4). -/
def State.dmePerform (s : State) (e op : Nat) (work : Who → Opnd → Option Nat → Option Nat → DmeM (List Move × Option OpRes)) : State :=
  match (s.chip.engine e).run with
  | none => s
  | some r =>
    if r.done ∨ engClass e ≠ 8 ∨ 36 ≤ e ∨ r.d.at 0 1 ≠ op ∨ r.todo ≠ [] ∨ r.sent ≠ [] then s
    else
      let own := s.chip.ownId
      let o := r.d.opnd
      if nbit o.p0 31 ∧ own = none then s.onRun e fun r => r.failing (OpRes.bare 11 5)
      else
        let had := Machine.bit (s.chip.reg 0x40030000) 3
        let s : State := { s with chip := s.chip.setBit 0x40030000 3 false }
        let (x, s) := (work ⟨e, r.d.cls⟩ o (sideOf own o false) (sideOf own o true)).run s
        let ce := Machine.bit (s.chip.reg 0x40030000) 3
        let s : State := { s with chip := s.chip.setBit 0x40030000 3 (had || ce) }
        let s := s.onRun e fun r => { r with res := { r.res with flags := r.res.flags ||| (if ce then 32 else 0) } }
        match x with
        | .error res => s.onRun e fun r => r.failing { res with flags := r.res.flags }
        | .ok (ms, stop) =>
          (s.onRun e fun r =>
            ({ r with todo := ms, res := match stop with | some res => { res with flags := r.res.flags } | none => r.res }).settle).dmePump e 33

/-- COPY (R391, R392). -/
def execCopy (e : Nat) (s : State) : Host.Outcome State Fault Refusal := .next (s.dmePerform e 1 copyWork)

/-- FILL (R391). -/
def execFill (e : Nat) (s : State) : Host.Outcome State Fault Refusal := .next (s.dmePerform e 2 fillWork)

/-- DME GATHER (R394). -/
def execDmeGather (e : Nat) (s : State) : Host.Outcome State Fault Refusal := .next (s.dmePerform e 3 dmeGatherWork)

/-- SCATTER (R394). -/
def execScatter (e : Nat) (s : State) : Host.Outcome State Fault Refusal := .next (s.dmePerform e 4 scatterWork)

/-- FETCH_ADD (R394). -/
def execFetchAdd (e : Nat) (s : State) : Host.Outcome State Fault Refusal := .next (s.dmePerform e 5 fetchAddWork)

end Sys2Proof.Machine
end

