-- ==== Sys2Proof/Machine/EngSpe.lean ====
section
/-! DEFINITION. Spectral engines and stream filter engines (Tables 10-10 and 10-11, R385 to R387). -/
namespace Sys2Proof.Machine

/-- A complex value of FP32 patterns. -/
abbrev Cx := Nat × Nat

/-- A finite FP32 pattern as an integer over 2^149. -/
def int149 (x : Nat) : Int := match fp32.dec x with | .num s m q => fixAt s m q (-149) | _ => 0

/-- The exact transform of a frame at output `k`, over 2^245: the sum of x·e^(∓2πi·jk/n). -/
def dftAt (inv : Bool) (n : Nat) (tw : List (Int × Int)) (xs : List (Int × Int)) (k : Nat) : Int × Int :=
  xs.zipIdx.foldl (fun s x =>
    let w := nth tw (x.2 * k % n) (0, 0)
    let c := w.1
    let d := if inv then w.2 else -w.2
    (s.1 + x.1.1 * c - x.1.2 * d, s.2 + x.1.1 * d + x.1.2 * c)) (0, 0)

/-- One part of an output: the unit's value where it lies within R385's bound of the exact one, over 2^245, and else the exact one
rounded. -/
def dftPart (cand : Nat) (exact : Int) (bound : Int) : Nat :=
  withinOr cand (fp32.ofInt exact (-245)) (decide (((int149 cand * 2 ^ 96 - exact).natAbs : Int) ≤ bound))

/-- The transform of one frame of `n` complex values (R385); `inv` scales by 1 ÷ n. A NaN reaches every output; where an input is
infinite the spec states no result. -/
def dft (inv : Bool) (n : Nat) (xs : List Cx) : List Cx :=
  let flat := xs.flatMap fun x => [x.1, x.2]
  let key := (if inv then 1 else 0) :: flat
  if flat.any fp32.isNan then List.replicate n (fp32.nanBits, fp32.nanBits)
  else if flat.any fun x => !fp32.isFin x then
    (List.range n).map fun k => ((Config.openValue 20 ((2 * k) :: key)).toNat, (Config.openValue 20 ((2 * k + 1) :: key)).toNat)
  else
    let tw := (List.range n).map fun (j : Nat) => (fxCosTurn j n, fxSinTurn j n)
    let zs := xs.map fun x => (int149 x.1, int149 x.2)
    let sum : Int := zs.foldl (fun s z => s + (isqrt 300 (z.1 * z.1 + z.2 * z.2).toNat : Int)) 0
    let bound := sum * 2 ^ 96 * (Nat.log2 n : Int) / 2 ^ 22
    let d : Int := if inv then n else 1
    (List.range n).map fun k =>
      let y := dftAt inv n tw zs k
      (dftPart (Config.transform key (2 * k)).toNat (y.1 / d) bound, dftPart (Config.transform key (2 * k + 1)).toNat (y.2 / d) bound)

/-- Complex values from `n` packed pairs, or from `n` reals. -/
def cxOf (f : Nat) (b : List Byte) (real : Bool) (n : Nat) : List Cx :=
  if real then (raw32 f b n).map fun x => (x, 0)
  else (List.range n).map fun i => (dec32 f 0 (elemAt f b (2 * i)), dec32 f 0 (elemAt f b (2 * i + 1)))

/-- The bytes of complex values, or of their real parts. -/
def cxBytes (f : Nat) (real : Bool) (xs : List Cx) : List Byte :=
  xs.flatMap fun x => if real then encBytes f 0 x.1 else encBytes f 0 x.1 ++ encBytes f 0 x.2

/-- A frame times a window. -/
def windowed (win : List Nat) (xs : List Cx) : List Cx := (xs.zip win).map fun t => (fp32.mul t.1.1 t.2, fp32.mul t.1.2 t.2)

/-- FFT's and STFT's work: frames at a hop, windowed where asked. -/
def fftWork (stft : Bool) (w : Who) (_ : Desc) (o : Opnd) : EngM OpRes := do
  let n := 2 ^ o.n0
  let real := nbit o.p0 0
  let sz := (if real then 1 else 2) * fmtSize o.fa
  let hop := if stft then o.n2 else n
  let win ← if stft then do pure (raw32 1 (← eread w o.b (4 * n)) n) else pure []
  (List.range o.n1).forM fun i => do
    let xs := cxOf o.fa (← eread w (o.a + i * hop * sz) (n * sz)) real n
    ewrite w (o.d + i * 2 * n * fmtSize o.fd) (cxBytes o.fd false (dft false n (if stft then windowed win xs else xs)))
  return eok 0

/-- IFFT's work. -/
def ifftWork (w : Who) (_ : Desc) (o : Opnd) : EngM OpRes := do
  let n := 2 ^ o.n0
  let real := nbit o.p0 0
  (List.range o.n1).forM fun i => do
    let xs := cxOf o.fa (← eread w (o.a + i * 2 * n * fmtSize o.fa) (2 * n * fmtSize o.fa)) false n
    ewrite w (o.d + i * n * (if real then 1 else 2) * fmtSize o.fd) (cxBytes o.fd real (dft true n xs))
  return eok 0

/-- ISTFT_OLA's work: each frame's inverse, windowed, is added into the accumulator, whose first N2 samples are then complete. -/
def istftWork (w : Who) (_ : Desc) (o : Opnd) : EngM OpRes := do
  let n := 2 ^ o.n0
  let real := nbit o.p0 0
  let t := if real then 1 else 2
  let win := raw32 1 (← eread w o.b (4 * n)) n
  (List.range o.n1).forM fun i => do
    let xs := cxOf o.fa (← eread w (o.a + i * 2 * n * fmtSize o.fa) (2 * n * fmtSize o.fa)) false n
    let ys := windowed win (dft true n xs)
    let acc := cxOf 1 (← eread w o.c (4 * n * t)) real n
    let sum := (acc.zip ys).map fun p => (fp32.add p.1.1 p.2.1, fp32.add p.1.2 p.2.2)
    ewrite w (o.d + i * o.n2 * t * fmtSize o.fd) (cxBytes o.fd real (sum.take o.n2))
    ewrite w o.c (cxBytes 1 real (sum.drop o.n2 ++ List.replicate o.n2 (0, 0)))
  return eok 0

/-- POWER's work. -/
def powerWork (w : Who) (_ : Desc) (o : Opnd) : EngM OpRes := do
  let n := 2 ^ o.n0
  (List.range o.n1).forM fun i => do
    let xs := cxOf o.fa (← eread w (o.a + i * 2 * n * fmtSize o.fa) (2 * n * fmtSize o.fa)) false n
    ewrite w (o.d + i * n * fmtSize o.fd)
      (xs.flatMap fun x => encBytes o.fd 0 (fp32.add (fp32.mul x.1 x.1) (fp32.mul x.2 x.2)))
  return eok 0

/-- FFT (Table 10-10, R385). -/
def execFft (e : Nat) (s : State) : Host.Outcome State Fault Refusal := s.onChip fun c => c.perform e 4 1 (fftWork false)

/-- IFFT. -/
def execIfft (e : Nat) (s : State) : Host.Outcome State Fault Refusal := s.onChip fun c => c.perform e 4 2 ifftWork

/-- STFT. -/
def execStft (e : Nat) (s : State) : Host.Outcome State Fault Refusal := s.onChip fun c => c.perform e 4 3 (fftWork true)

/-- ISTFT_OLA. -/
def execIstftOla (e : Nat) (s : State) : Host.Outcome State Fault Refusal := s.onChip fun c => c.perform e 4 4 istftWork

/-- POWER. -/
def execSpePower (e : Nat) (s : State) : Host.Outcome State Fault Refusal := s.onChip fun c => c.perform e 4 5 powerWork

/-! ### FLE -/

/-- Input elements of an FLE operation (Table 10-11): the value, and whether the flags under the mask refuse it (R386). -/
def fleInput (f mask : Nat) (b : List Byte) (i : Nat) : Nat × Bool :=
  let v := elemAt f b i
  let hit := fun (bits : List Nat) => (bits.zipIdx).any fun x => nbit mask x.2 && nbit v x.1
  match f with
  | 12 => (fp32.ofInt (sext 14 v) 0, hit [15, 29, 30, 31, 14])
  | 13 => (fp32.ofInt (sext 32 v) (-8), hit [73, 74, 76, 77, 75])
  | _ => (dec32 f 0 v, false)

/-- The inputs with refused ones replaced by the last accepted, `last` before the first (open when there is none), and the count of
replacements (R386). -/
def fleInputs (f mask n : Nat) (b : List Byte) (last : Option Nat) : List Nat × Nat :=
  let (xs, k, _) := (List.range n).foldl (fun (p : List Nat × Nat × Option Nat) i =>
    let (x, bad) := fleInput f mask b i
    if bad then
      let y := p.2.2.getD (Config.openValue 30 [x]).toNat
      (y :: p.1, p.2.1 + 1, some y)
    else (x :: p.1, p.2.1, some x)) ([], 0, last)
  (xs.reverse, k)

/-- One FIR output: the taps on the newest sample first. -/
def firAt (taps xs : List Nat) (i : Nat) : Nat := macs32 taps ((xs.take (i + taps.length)).reverse)
where
  /-- A sum of rounded products in tap order. -/
  macs32 (a b : List Nat) : Nat := (a.zip b).foldl (fun s t => fp32.add s (fp32.mul t.1 t.2)) 0

/-- FIR's work: the history, oldest first, comes before the inputs. -/
def firWork (w : Who) (_ : Desc) (o : Opnd) : EngM OpRes := do
  let taps := raw32 1 (← eread w o.b (4 * o.n1)) o.n1
  let hist := raw32 1 (← eread w o.c (4 * (o.n1 - 1))) (o.n1 - 1)
  let (ins, k) := fleInputs o.fa (o.p0 % 256) o.n0 (← eread w o.a (o.n0 * fmtSize o.fa)) hist.getLast?
  let xs := hist ++ ins
  ewrite w o.d ((List.range o.n0).flatMap fun i => encBytes o.fd 0 (firAt taps xs i))
  ewrite w o.c ((xs.drop o.n0).flatMap (leBytes 4))
  return eok (sat 16 k)

/-- One biquad section in transposed direct form II: the output and the new states (R387). -/
def biquadStep (q : List Nat) (s : Nat × Nat) (x : Nat) : Nat × (Nat × Nat) :=
  let at_ := fun i => nth q i 0
  let y := fp32.add (fp32.mul (at_ 0) x) s.1
  (y, fp32.add (fp32.sub (fp32.mul (at_ 1) x) (fp32.mul (at_ 3) y)) s.2, fp32.sub (fp32.mul (at_ 2) x) (fp32.mul (at_ 4) y))

/-- A sample through the cascade. -/
def biquadAll : List (List Nat × (Nat × Nat)) → Nat → Nat × List (List Nat × (Nat × Nat))
  | [], x => (x, [])
  | (q, s) :: r, x =>
    let (y, s) := biquadStep q s x
    let (z, r) := biquadAll r y
    (z, (q, s) :: r)

/-- BIQUAD's work. -/
def biquadWork (w : Who) (_ : Desc) (o : Opnd) : EngM OpRes := do
  let cs := raw32 1 (← eread w o.b (20 * o.n1)) (5 * o.n1)
  let ss := raw32 1 (← eread w o.c (8 * o.n1)) (2 * o.n1)
  let secs := (List.range o.n1).map fun i => ((cs.drop (5 * i)).take 5, (nth ss (2 * i) 0, nth ss (2 * i + 1) 0))
  let (ins, k) := fleInputs o.fa (o.p0 % 256) o.n0 (← eread w o.a (o.n0 * fmtSize o.fa)) none
  let (ys, secs) := ins.foldl (fun (p : List Nat × List (List Nat × (Nat × Nat))) x =>
    let (y, t) := biquadAll p.2 x
    (y :: p.1, t)) ([], secs)
  ewrite w o.d (ys.reverse.flatMap (encBytes o.fd 0))
  ewrite w o.c (secs.flatMap fun q => leBytes 4 q.2.1 ++ leBytes 4 q.2.2)
  return eok (sat 16 k)

/-- FXLMS_UPDATE's work (R387); P0 is μ, so no mask applies to its inputs. -/
def fxlmsWork (w : Who) (_ : Desc) (o : Opnd) : EngM OpRes := do
  let (rs, _) := fleInputs o.fa 0 (o.n0 + o.n1 - 1) (← eread w o.a ((o.n0 + o.n1 - 1) * fmtSize o.fa)) none
  let ws := raw32 1 (← eread w o.b (4 * o.n1)) o.n1
  let es := raw32 1 (← eread w o.c (4 * o.n0)) o.n0
  let out := es.zipIdx.foldl (fun (ws : List Nat) e =>
    let g := fp32.mul o.p0 e.1
    ws.zipIdx.map fun x => fp32.add (fp32.mul o.p1 x.1) (fp32.mul g (nth rs (e.2 + o.n1 - 1 - x.2) 0))) ws
  ewrite w o.b (out.flatMap (leBytes 4))
  return eok 0

/-- FIR (Table 10-11, R386). -/
def execFir (e : Nat) (s : State) : Host.Outcome State Fault Refusal := s.onChip fun c => c.perform e 5 1 firWork

/-- BIQUAD (R386, R387). -/
def execBiquad (e : Nat) (s : State) : Host.Outcome State Fault Refusal := s.onChip fun c => c.perform e 5 2 biquadWork

/-- FXLMS_UPDATE (R387). -/
def execFxlmsUpdate (e : Nat) (s : State) : Host.Outcome State Fault Refusal := s.onChip fun c => c.perform e 5 3 fxlmsWork

end Sys2Proof.Machine
end

