-- ==== Sys2Proof/Machine/EngTue.lean ====
section
/-! DEFINITION. Update engines (Table 10-12; 12_adaptation.md). -/
namespace Sys2Proof.Machine

/-- A header of the adaptation tensors (Table 12-2, R439, R451): `n` parameters in rows of 32. -/
def adaptHdr (f n : Nat) (h : Hdr) : Bool :=
  decide (h.fmt = f ∧ h.rows = (n + 31) / 32 ∧ h.cols = 32 ∧ h.smode ≠ 0) && h.outOk true

/-- Rows of 32 values written under a header, the last filled with zeros that take no part in its maximum (R452). -/
def adaptRows (w : Who) (h : Hdr) (replay : Bool) (xs : List Nat) : EngM Misses :=
  (List.range h.rows).foldlM (fun ms r => do
    let live := (xs.drop (32 * r)).take 32
    eoutRow w h replay r live (32 - live.length) ms) ⟨0, 0⟩

/-- BPTT's work (R453): the gradient of the image's model, whose cell equations the spec does not give, encoded under Table 12-2. -/
def bptt (w : Who) (d : Desc) (o : Opnd) : EngM OpRes := do
  let n := adapterCount o.mode o.n0 (o.p0 % 8)
  let ha ← ehdr w o.a fun h => decide (2 < o.mode) || decide (h.rows = gatesOf o.mode * o.n0 ∧ h.cols = o.n1 + o.n0)
  let hd ← ehdr w o.d (adaptHdr 5 n)
  let rows ← (List.range ha.rows).mapM fun r => do
    let s ← escale w ha r
    let es ← erow w ha r
    pure (s, es)
  let ctx ← eread w o.b 2048
  let trace ← eread w o.c (o.n2 * traceBytes o.n0 o.n1)
  let tgt ← eread w o.p1 (8 * o.n2)
  let key := d.bytes ++ (rows.flatMap fun t => (t.1 :: t.2.map Elem.x).flatMap (leBytes 4)) ++ slice ctx 0x100 1792 ++ trace ++ tgt
  let ms ← adaptRows w hd (d.flag 1) ((List.range n).map fun i => (Config.gradient key i).toNat)
  return ms.res 0

/-- The optimiser's constants (Table 12-3, Table 10-12). -/
structure OptK where
  b1 : Nat
  b2 : Nat
  eps : Nat
  clip : Nat
  eta : Nat
  lam : Nat
  deriving DecidableEq, Repr

/-- A constant breaks its range (R454). -/
def OptK.bad (k : OptK) (reserved : Nat) : Bool :=
  let beta := fun x => fp32.le 0 x && fp32.lt x 0x3F800000
  !beta k.b1 || !beta k.b2 || !decide (0x00800000 ≤ k.eps ∧ k.eps < fp32.infBits) || !fp32.lt 0 k.clip || decide (reserved ≠ 0) ||
    !(fp32.isFin k.eta && fp32.le 0 k.eta) || !(fp32.isFin k.lam && fp32.le 0 k.lam)

/-- One parameter updated (R455): the new m, v and w, and the rsqrt as it was evaluated. -/
def optStep (k : OptK) (g m v wt : Nat) : Nat × Nat × Nat × NlOut :=
  let g := if fp32.lt k.clip g then k.clip else if fp32.lt g (fp32.neg k.clip) then fp32.neg k.clip else g
  let m' := fp32.add (fp32.mul k.b1 m) (fp32.mul (fp32.sub 0x3F800000 k.b1) g)
  let v' := fp32.add (fp32.mul k.b2 v) (fp32.mul (fp32.mul (fp32.sub 0x3F800000 k.b2) g) g)
  let r := nonlin 3 1 (fp32.add v' k.eps)
  let w' := fp32.sub wt (fp32.mul k.eta (fp32.add (fp32.mul m' r.y) (fp32.mul k.lam wt)))
  (m', v', w', r)

/-- A row of an adaptation tensor as FP32 values, scaled (R424). -/
def adaptRow (w : Who) (h : Hdr) (r : Nat) : EngM (List Nat) := do
  let s ← escale w h r
  return (← erow w h r).map fun x => fp32.mul s x.x

/-- What OPT_STEP carries from row to row: the misses, the skipped rows and the nonlinearity flags. -/
structure OptAcc where
  ms : Misses
  skipped : Nat
  nl : Nat
  deriving Repr

/-- One row of OPT_STEP (R455, R456). -/
def optRow (w : Who) (replay : Bool) (o : Opnd) (k : OptK) (hg hm hv : Hdr) (acc : OptAcc) (r : Nat) : EngM OptAcc := do
  let n := min 32 (o.n0 - 32 * r)
  let gs := (← adaptRow w hg r).take n
  if gs.any fp32.isNan then
    for h in [hm, hv] do
      if h.smode = 2 then ewrite w (h.nscale + 2 * r) (← eread w (h.scale + 2 * r) 2)
    return { acc with skipped := acc.skipped + 1 }
  else
    let mo := (← adaptRow w hm r).take n
    let vo := (← adaptRow w hv r).take n
    let wo := raw32 1 (← eread w (o.c + 128 * r) (4 * n)) n
    let out := (List.range n).map fun i => optStep k (nth gs i 0) (nth mo i 0) (nth vo i 0) (nth wo i 0)
    ewrite w (o.c + 128 * r) (out.flatMap fun x => leBytes 4 x.2.2.1)
    ewrite w (o.d + 64 * r) (out.flatMap fun x => encBytes 3 0 x.2.2.1)
    let ms ← eoutRow w hm replay r (out.map fun x => x.1) (32 - n) acc.ms
    let ms ← eoutRow w hv replay r (out.map fun x => x.2.1) (32 - n) ms
    return { acc with ms := ms, nl := acc.nl ||| nlFlags (out.map fun x => x.2.2.2) }

/-- OPT_STEP's work (R451, R454 to R456). -/
def optWork (w : Who) (d : Desc) (o : Opnd) : EngM OpRes := do
  let hg ← ehdr w o.a (adaptHdr 5 o.n0)
  let hm ← ehdr w o.b (adaptHdr 4 o.n0)
  let hv ← ehdr w (o.b + 0x40) (adaptHdr 11 o.n0)
  let b ← eread w (o.b + 0x80) 32
  let k : OptK := ⟨leAt b 0 4, leAt b 4 4, leAt b 8 4, leAt b 12 4, o.p0, o.p1⟩
  if k.bad (leAt b 16 16) then efault 3
  else
    let acc ← (List.range hg.rows).foldlM (optRow w (d.flag 1) o k hg hm hv) ⟨⟨0, 0⟩, 0, 0⟩
    return acc.ms.res (sat 16 acc.skipped + acc.nl)

/-- BPTT (R453). -/
def execBptt (e : Nat) (s : State) : Host.Outcome State Fault Refusal := s.onChip fun c => c.perform e 6 1 bptt

/-- OPT_STEP (R455). -/
def execOptStep (e : Nat) (s : State) : Host.Outcome State Fault Refusal := s.onChip fun c => c.perform e 6 2 optWork

end Sys2Proof.Machine
end

