-- ==== Sys2Proof/Machine/EngZle.lean ====
section
/-! DEFINITION. Impedance lock-in engines (R380 to R384) and the balancing PWM's period start, which they drive (R181 to R184). -/
namespace Sys2Proof.Machine

/-- One ZLE changed. -/
def Chip.onZle (c : Chip) (k : Nat) (f : Zle → Zle) : Chip := { c with zle := upd c.zle k f }

/-- A tone's phase accumulator for an angle in radians, in 2^-32 turns. -/
def phaseOf (phi : Nat) : Nat :=
  if fp32.isFin phi then (divEven (fxOf32 phi * 2 ^ 32) (2 * fxPi).toNat % 2 ^ 32).toNat else (Config.openValue 9 [phi]).toNat

/-- A tone table's entry (Table 10-9). -/
def toneAt (b : List Byte) (j : Nat) : Tone :=
  ⟨leAt b (12 * j) 4, leAt b (12 * j + 4) 4, leAt b (12 * j + 8) 4, phaseOf (leAt b (12 * j + 8) 4)⟩

/-- The limits of R380, for the period in force. -/
def toneOk (period : Nat) (t : Tone) : Bool :=
  match fp32.toQ t.f, fp32.toQ t.a with
  | some f, some a => (⟨1, 10⟩ : Q).le f && f.le ⟨8000, 1⟩ && (f.mul ⟨period, 1⟩).le ⟨20000000, 1⟩ && a.abs.le ⟨4095, 1⟩
  | _, _ => false

/-- EXCITE's check of its table (R380). -/
def exciteCheck (period : Nat) (w : Who) (o : Opnd) : EngM (List Tone) := do
  let b ← eread w o.a (12 * o.n0)
  let ts := (List.range o.n0).map (toneAt b)
  if ts.all (toneOk period) then return ts else efault 3

/-- EXCITE (R380, R381): a table that passes waits for the second period start, where its record is written. -/
def execExcite (e : Nat) (s : State) : Host.Outcome State Fault Refusal :=
  s.onChip fun c => match (c.engine e).run with
    | none => c
    | some r =>
      if r.done ∨ e < 16 ∨ 18 ≤ e ∨ r.d.at 0 1 ≠ 1 ∨ (nth c.zle (e - 16) default).next.isSome then c
      else
        let o := r.d.opnd
        match (exciteCheck (c.fld 0x4001000C 0 15) ⟨e, r.d.cls⟩ o).run c with
        | (.ok ts, c) => c.onZle (e - 16) fun z => { z with next := some ⟨ts, o.n1, o.p0, 2⟩ }
        | (.error res, c) => c.onEng e fun g => { g with run := g.run.map fun _ => { r with done := true, res := res } }

/-- ZLE_STOP's work (R382). -/
def zleStop (w : Who) (_ : Desc) (_ : Opnd) : EngM OpRes := do
  set ((← get).onZle (w.e - 16) fun z => { z with stopDue := true })
  return eok 0

/-- ZLE_STOP. -/
def execZleStop (e : Nat) (s : State) : Host.Outcome State Fault Refusal := s.onChip fun c => c.perform e 3 2 zleStop

/-- The slot a record adds to: CELL1 to CELL20 are 0 to 19, the current 20 (R383). -/
def demodSlot (cur : Nat) (rec : List Byte) : Option Nat :=
  let ch := leAt rec 8 1 % 64
  if nbit (leAt rec 9 1) 1 || nbit (leAt rec 9 1) 2 || nbit (leAt rec 9 1) 4 then none
  else if ch = cur then some 20 else if ch < 20 then some ch else none

/-- A compensated addition: the new sum and compensation. -/
def kahan (s c x : Nat) : Nat × Nat :=
  let y := fp32.sub x c
  let t := fp32.add s y
  (t, fp32.sub (fp32.sub t s) y)

/-- VALUE × e^(−iθ) added to an accumulator, θ being `num ÷ den` of a turn. -/
def ZAcc.put (z : ZAcc) (value : Int) (num : Int) (den : Nat) : ZAcc :=
  let v := fp32.ofInt value 0
  let (re, cre) := kahan z.re z.cre (fp32.mul v (fxTo32 (fxCosTurn num den)))
  let (im, cim) := kahan z.im z.cim (fp32.mul v (fp32.neg (fxTo32 (fxSinTurn num den))))
  ⟨re, im, cre, cim⟩

/-- A tone's phase `dt` SD_CTL clocks after the last period start, as a fraction of a turn. -/
def Tone.phaseAt (t : Tone) (dt : Int) : Int × Nat :=
  let f := (fp32.toQ t.f).getD ⟨0, 1⟩
  ((t.acc : Int) * (f.den * 80000000 : Nat) + f.num * dt * 2 ^ 32, 2 ^ 32 * (f.den * 80000000))

/-- One record demodulated (R383). -/
def Zle.demod (z : Zle) (cur p1 : Nat) (rec : List Byte) : Zle :=
  match demodSlot cur rec with
  | none => { z with ignored := z.ignored + 1 }
  | some k =>
    let dt := sext 32 (leAt rec 4 4 + 2 ^ 33 - p1 - z.lastSd % 2 ^ 32)
    let accs := z.tones.zipIdx.map fun t =>
      let (num, den) := t.1.phaseAt dt
      upd (nth z.accs t.2 (List.replicate 21 ⟨0, 0, 0, 0⟩)) k fun a => a.put (sext 32 (leAt rec 0 4)) num den
    { z with counts := upd z.counts k fun n => sat 16 (n + 1), accs := accs ++ z.accs.drop z.tones.length }

/-- DEMOD's work (R383). -/
def demodWork (w : Who) (_ : Desc) (o : Opnd) : EngM OpRes := do
  if (nth (← get).zle (w.e - 16) default).tones.isEmpty then efault 5
  else
    let b ← eread w o.a (16 * o.n0)
    set ((← get).onZle (w.e - 16) fun z => (List.range o.n0).foldl (fun z i => z.demod (o.p0 % 64) o.p1 (slice b (16 * i) 16)) z)
    return eok 0

/-- DEMOD. -/
def execDemod (e : Nat) (s : State) : Host.Outcome State Fault Refusal := s.onChip fun c => c.perform e 3 3 demodWork

/-- SCALE × V ÷ I, each part exact and rounded once; the spec states none where I is 0 or a part is not finite (R384). -/
def zRatio (scale : Nat) (v i : ZAcc) : List Byte :=
  match fp32.toQ scale, fp32.toQ v.re, fp32.toQ v.im, fp32.toQ i.re, fp32.toQ i.im with
  | some k, some a, some b, some x, some y =>
    let d := (x.mul x).add (y.mul y)
    if d.num = 0 then [0, 1].flatMap fun p => leBytes 4 (Config.openValue 10 [p, scale, v.re, v.im]).toNat
    else
      let re := (k.mul ((a.mul x).add (b.mul y))).div d
      let im := (k.mul ((b.mul x).sub (a.mul y))).div d
      leBytes 4 (fp32.ofQ re) ++ leBytes 4 (fp32.ofQ im)
  | _, _, _, _, _ => [0, 1].flatMap fun p => leBytes 4 (Config.openValue 10 [p, scale, v.re, v.im]).toNat

/-- READ's block (R384): the header (whose content the spec does not state), the counts, the impedances in tone-major order, and the count
of clamped periods. -/
def zleBlock (z : Zle) (hdr : List Byte) (scale : Nat) : List Byte :=
  hdr ++ z.counts.flatMap (leBytes 2) ++
    (z.accs.flatMap fun t => (List.range 20).flatMap fun k => zRatio scale (nth t k default) (nth t 20 default)) ++ leBytes 4 z.clamps

/-- READ's work. -/
def zleRead (w : Who) (_ : Desc) (o : Opnd) : EngM OpRes := do
  let (hdr, c) := (← get).drawBytes 16
  set c
  let b := zleBlock (nth c.zle (w.e - 16) default) hdr o.p0
  if rangeOk w.e o.d b.length 4 then do
    ewrite w o.d b
    return eok 0
  else efault 1

/-- ZLE_READ (R384). -/
def execZleRead (e : Nat) (s : State) : Host.Outcome State Fault Refusal := s.onChip fun c => c.perform e 3 4 zleRead

/-- CLEAR's work (R384). -/
def zleClear (w : Who) (_ : Desc) (_ : Opnd) : EngM OpRes := do
  set ((← get).onZle (w.e - 16) fun z => { z with counts := List.replicate 21 0, ignored := 0, accs := [] })
  return eok 0

/-- ZLE_CLEAR. -/
def execZleClear (e : Nat) (s : State) : Host.Outcome State Fault Refusal := s.onChip fun c => c.perform e 3 5 zleClear

/-! ### The period start -/

/-- A tone one period further (R381). -/
def Tone.advance (t : Tone) (period : Nat) : Tone :=
  let f := (fp32.toQ t.f).getD ⟨0, 1⟩
  { t with acc := (((t.acc : Int) + divEven (f.num * (period * 2 ^ 32 : Nat)) (f.den * 80000000)) % 2 ^ 32).toNat }

/-- The ZLE at a period start, before a waiting set: its excitation goes on by one period of `period` clocks, or ends (R382). -/
def Zle.period (z : Zle) (live : Bool) (period : Nat) : Zle :=
  let left := z.left.map (· - 1)
  if z.stopDue || !live || decide (left = some 0) then { z with tones := [], left := none, stopDue := false }
  else { z with tones := z.tones.map fun t => t.advance period, left := left }

/-- A waiting tone set at a period start: still to wait, or active now (R381). -/
def Zle.takeNext (z : Zle) (live : Bool) : Zle × Bool :=
  match z.next with
  | none => (z, false)
  | some n =>
    if 1 < n.starts then ({ z with next := some { n with starts := n.starts - 1 } }, false)
    else ({ z with next := none, tones := if live then n.tones else [], offset := n.offset
                   left := if n.duration = 0 then none else some n.duration }, true)

/-- The duty before clamping: the exact sum with an error of at most 2^-16 of each amplitude, `err` choosing it (R381). -/
def Zle.duty (z : Zle) (err : Nat) : Int :=
  let s := z.tones.foldl (fun s t => s + fxMul (fxOf32 t.a) (fxSinTurn t.acc (2 ^ 32))) 0
  let b := z.tones.foldl (fun s t => s + ((fxOf32 t.a).natAbs : Int)) 0
  fxRound ((z.offset : Int) * fxOne + s + sext 32 err * b / 2 ^ 47)

/-- ZLE `k` at a period start: the duty of its channels (R381, R382). -/
def Chip.zlePeriod (c : Chip) (k : Nat) : Nat × Chip :=
  let live := decide ((c.engine (16 + k)).pw = .up ∧ c.power.mode = .run)
  let z := (nth c.zle k default).period live c.sense.bal.period
  let (z, done) := z.takeNext live
  let (err, c) := if z.tones.isEmpty then (0, c) else c.drawWord
  let d := if z.tones.isEmpty then 0 else z.duty err
  let z := { z with lastSd := c.clocks.sd, clamps := if d < 0 ∨ 4095 < d then sat 32 (z.clamps + 1) else z.clamps }
  let c := c.onZle k fun _ => z
  let c := match done, (c.engine (16 + k)).run with
    | true, some r => c.finish (16 + k) r r.res
    | _, _ => c
  ((clampI 0 4095 d).toNat, c)

/-- BAL_PERIOD_START (R181 to R184, R381, Table 06-4): pending duty, period and stagger are taken, the bars of R180 end, channels with an
on-count switch on, and the period event is raised. -/
def execBalPeriodStart (s : State) : Host.Outcome State Fault Refusal :=
  s.onChip fun c =>
    if c.dom 53 = false then c
    else
      let (d0, c) := c.zlePeriod 0
      let (d1, c) := c.zlePeriod 1
      let period := c.fld 0x4001000C 0 15
      let stagger := c.bit 0x40010004 1
      let duty := (List.range 20).map fun i => match c.balMode (i + 1) with
        | 1 => d0
        | 2 => d1
        | _ => c.fld (0x40010040 + 4 * i) 0 12
      let on := (List.range 20).map fun i => decide (4096 ≤ nth duty i 0 * period) && !(stagger && decide (i % 2 = 1))
      let barred := (List.range 20).map fun i => !c.balAllowed (i + 1)
      let c := { c with sense.bal := ⟨period, duty, stagger, on, barred⟩ }.balDrive
      (c.raiseBoth 20).raisePwm 0

end Sys2Proof.Machine
end

