-- ==== Sys2Proof/Machine/Floor.lean ====
section
/-! DEFINITION. Floor vibration streams: the block a worker's firmware sends, and what the sink's firmware does at a block start
(17_vibration_and_compression.md, R630 to R638). -/
namespace Sys2Proof.Machine

/-- The output of an axis that belongs to frame `n`: the one whose TIME lies in the frame's period (R632). -/
def frameOut (k : SysConf) (l : List OutRec) (chan n : Nat) : Option OutRec :=
  l.find? fun o => decide (o.chan = chan ∧ o.ns / k.srcFrameNs = n)

/-- A stream sample (R632). -/
def streamSample (o : OutRec) : Nat := tc 16 (shrEven o.value 6)

/-- One axis over the frames of a block from `n0` on: its samples, each frame without an output repeating the one before, whether there was a
gap, the outputs used, and the last sample and SEQ (R635). -/
def axisRun (k : SysConf) (l : List OutRec) (chan n0 : Nat) (last : Nat) (seq : Option Nat) :
    List Nat × Bool × List OutRec × Nat × Option Nat :=
  (List.range k.srcNf).foldl (fun p i =>
    let (xs, gap, used, last, seq) := p
    match frameOut k l chan (n0 + i) with
    | some o =>
      let x := streamSample o
      let skip := match seq with | some q => decide (o.seq ≠ (q + 1) % 2 ^ 32) | none => false
      (xs ++ [x], gap || skip, used ++ [o], x, some o.seq)
    | none => (xs ++ [last], true, used, last, seq)) ([], false, [], last, seq)

/-- A stream block (Table 17-2). -/
def streamBlock (k : SysConf) (capt n0 flags : Nat) (axes : List (List Nat)) : List Byte :=
  leBytes 4 capt ++ leBytes 2 (n0 / k.srcNf) ++ leBytes 1 k.srcNf ++ leBytes 1 k.srcAxes.length ++ leBytes 4 k.srcFrameNs ++
    leBytes 1 flags ++ leBytes 3 0 ++ (List.range k.srcNf).flatMap fun f => axes.flatMap fun a => leBytes 2 (nth a f 0)

/-- The newest complete block sent (R632 to R635). A sample repeated before any was sent, and CAPT of a frame without an output, are open. -/
def Chip.sendBlock (c : Chip) (k : SysConf) (id n0 : Nat) : Chip :=
  let l := c.outsOf k.srcPath
  let runs := k.srcAxes.zipIdx.map fun x =>
    axisRun k l x.1 n0 (nth c.fw.lastFrame x.2 ((Config.openValue 60 [x.1, n0]).toNat % 65536)) (nth c.fw.lastSeq x.2 none)
  let used := runs.flatMap fun r => r.2.2.1
  let flags := (List.range 5).map fun i => used.any fun o => nbit o.flags i
  let capt := match frameOut k l (nth k.srcAxes 0 0) n0 with
    | some o => o.ns
    | none => (Config.openValue 61 [n0]).toNat
  let b := streamBlock k capt n0 (flagBits (flags ++ [runs.any fun r => r.2.1])) (runs.map fun r => r.1)
  let out : FwOut := ⟨false, 3, 1, k.sinkId, k.sinkBase + 2048 * id + 64 * (n0 / k.srcNf % 32), b⟩
  let lf := runs.map fun r => r.2.2.2.1
  let ls := runs.map fun r => r.2.2.2.2
  { c with fw.lastBlock := some n0, fw.lastFrame := lf, fw.lastSeq := ls }.fwSend [out]

/-- STREAM_BLOCK_SEND (R632 to R635): a worker whose image names a source and a sink sends its newest complete block, once. -/
def execStreamBlockSend (s : State) : Host.Outcome State Fault Refusal :=
  s.onChip fun c => c.withConf fun k =>
    match c.hlId with
    | none => c
    | some id =>
      if k.srcNf = 0 ∨ k.srcAxes = [] ∨ k.srcFrameNs = 0 then c
      else
        let done := (c.clocks.packNs / k.srcFrameNs + 1) / k.srcNf
        if done = 0 ∨ c.fw.lastBlock = some ((done - 1) * k.srcNf) then c else c.sendBlock k id ((done - 1) * k.srcNf)

/-! ### The sink -/

/-- Worker `w`'s block `n` in its slot; none when it is missing (R637). -/
def Chip.sinkBlock (c : Chip) (k : SysConf) (n w : Nat) : Option (List Byte) :=
  let b := c.peekN (k.sinkBase + 2048 * w + 64 * (n % 32)) 64
  if leAt b 4 2 ≠ n % 65536 ∨ leAt b 6 1 ≠ k.sinkNf ∨ leAt b 7 1 ≠ k.sinkNax ∨ leAt b 8 4 ≠ k.sinkFrameNs ∨ nbit (leAt b 0x0C 1) 0 = true ∨
      nbit (leAt b 0x0C 1) 3 = true then none
  else some (b.take (16 + 2 * k.sinkNf * k.sinkNax))

/-- One entry written to a transmit ring by firmware. -/
def Chip.ringWrite (c : Chip) (r : Nat) (d : List Byte) : Chip :=
  let w := (c.act (r + 8)).toNat
  (c.fwPut (c.slotAt r w) d).fwReg (r + 8) (c.ringNext r w)

/-- The slip of R638 after a block's entries. -/
def Chip.slip (c : Chip) (k : SysConf) (r : Nat) : Chip :=
  let n := 2 ^ c.fld (r + 4) 1 4
  let w := (c.act (r + 8)).toNat
  let last := (w + n - 1) % n
  let depth := (w + n - (c.reg (r + 12)).toNat % n) % n
  if depth = k.sinkDepth + 1 then c.fwReg (r + 8) last
  else if depth + 1 = k.sinkDepth then c.ringWrite r (c.peekN (c.slotAt r last) (c.slotSize r))
  else c

/-- SINK_BLOCK_START (R637, R638): at ST_k for block `n`, each worker's block is taken or missing; `entries` are the TDM ring entries that the
customer's algorithm makes of them (DESIGN CHOICE, log entry 2). -/
def execSinkBlockStart (n : Nat) (entries : List (List Byte)) (s : State) : Host.Outcome State Fault Refusal :=
  s.onChip fun c => c.withConf fun k =>
    if k.sinkFrom = [] ∨ 2 ≤ k.sinkTdm then c
    else
      let r := tdmReg k.sinkTdm 0x40
      let blocks := k.sinkFrom.map fun w => (w, c.sinkBlock k n w)
      let c := entries.foldl (fun (c : Chip) e => c.ringWrite r e) { c with fw.blocks := blocks }
      if c.bit (r + 4) 0 then c.slip k r else c

end Sys2Proof.Machine
end

