-- ==== Sys2Proof/Machine/Request.lean ====
section
/-! DEFINITION. What delivered packets do: requests at their destination with duplicate suppression, posted writes, responses and the
end of transactions at the requester, and enumeration requests (14_henlink.md). -/
namespace Sys2Proof.Machine

/-! ### At the destination -/

/-- The class a request delivered locally carries (R525): the lower of its CLASS and its VC's ceiling (Table 14-7). -/
def Pkt.fabricCls (k : Pkt) : Nat := max k.cls (nth [0, 1, 0, 2] k.vc 2)

/-- The RESP STATUS of an access (R526, Table 14-9). -/
def AccRes.status (r : AccRes) : Nat :=
  match r with
  | .ok _ => 0
  | .refused _ => 1
  | .uncorrectable => 2
  | .busError => 3

/-- The data an access brought. -/
def AccRes.bytes (r : AccRes) : List Byte :=
  match r with
  | .ok d => d
  | _ => []

/-- A FADD names an aligned 64-bit word of shared or steward SRAM (R526). -/
def faddAddr (a : Nat) : Bool := decide (a % 8 = 0) && decide (canon a < 0x800000 ∨ (0x30000000 ≤ a ∧ a < 0x30040000))

/-- A request performed as one fabric access (R525, R526): its status and the data of its RESP. -/
def State.perform (s : State) (d : Delivered) : Nat × List Byte × State :=
  let k := d.pkt
  let port := 43 + d.port
  match k.kind with
  | 0 =>
    let (r, s) := s.busRead port k.fabricCls k.addr k.bytes k.src
    (r.status, r.bytes, s)
  | 2 =>
    if !faddAddr k.addr then (3, [], s)
    else match s.busRead port k.fabricCls k.addr 8 k.src with
      | (.ok old, s) =>
        let (r, s) := s.busWrite port k.fabricCls k.addr (leBytes 8 (leNat old + leAt k.pay 0 8)) k.src
        (r.status, if r.status = 0 then old else [], s)
      | (r, s) => (r.status, [], s)
  | _ =>
    let (r, s) := s.busWrite port k.fabricCls k.addr (k.pay.take k.bytes) k.src
    (r.status, [], s)

/-- A packet of this device's own sent if a route exists, and otherwise discarded and counted (R531). -/
def Chip.reply (c : Chip) (k : Pkt) : Chip := (c.sendOwn k none).getD (c.incFld 0x40040024 0 32 1)

/-- A request executed and answered. -/
def State.answer (s : State) (d : Delivered) : Pkt × State :=
  let (st, data, s) := s.perform d
  (d.pkt.resp d.pkt.dst st data, s)

/-- HL_DEDUP shows the entries in use. -/
def Chip.dedupShow (c : Chip) : Chip := c.setFld 0x40040018 0 13 c.hl.dedup.length

/-- A request that makes an entry, is executed, and leaves the entry DONE with its RESP (R544, R546); it is turned away with BUSY while
all 4,096 are in use (R545). -/
def State.answerOnce (s : State) (d : Delivered) : State :=
  let k := d.pkt
  if 4096 ≤ s.chip.hl.dedup.length then
    { s with chip := ((s.chip.incFld 0x40040018 16 16 1).setBit 0x40040000 4 true).reply (k.resp k.dst 4 []) }
  else
    let entry : Dedup := ⟨k.src, k.tag, none⟩
    let s : State := { s with chip := { s.chip with hl.dedup := s.chip.hl.dedup ++ [entry] }.dedupShow }
    let (r, s) := s.answer d
    let done := s.chip.hl.dedup.map fun x => if x.src = k.src ∧ x.tag = k.tag then { x with resp := some r } else x
    { s with chip := { s.chip with hl.dedup := done }.reply r }

/-- A WR or FADD under Table 14-8. -/
def State.suppress (s : State) (d : Delivered) (always : Bool) : State :=
  let k := d.pkt
  match s.chip.hl.dedup.find? fun x => decide (x.src = k.src ∧ x.tag = k.tag) with
  | some x => match x.resp with
    | some r => { s with chip := s.chip.reply r }
    | none => s
  | none =>
    if always || decide (k.attempt ≠ 0) then s.answerOnce d
    else
      let (r, s) := s.answer d
      { s with chip := s.chip.reply r }

/-- The oldest delivered packet of `kind` handled by `f`; an aged one is counted and discarded (R543). -/
def State.onRequest (s : State) (kind : Nat) (f : State → Delivered → State) : State :=
  match s.chip.takeDelivered [kind] with
  | none => s
  | some (d, c) => if d.pkt.tooOld then { s with chip := c.ageDrop } else f { s with chip := c } d

/-- RD (R526, R543, Table 14-8). -/
def execRd (s : State) : Host.Outcome State Fault Refusal :=
  .next (s.onRequest 0 fun s d => let (r, s) := s.answer d; { s with chip := s.chip.reply r })

/-- WR (R526, R544, R545). -/
def execWr (s : State) : Host.Outcome State Fault Refusal :=
  .next (s.onRequest 1 fun s d => s.suppress d (touchesRegs d.pkt.addr d.pkt.bytes))

/-- FADD (R526, R544, R547). -/
def execFadd (s : State) : Host.Outcome State Fault Refusal := .next (s.onRequest 2 fun s d => s.suppress d true)

/-- PWR (R527): executed like a WR, without a response and outside the age and duplicate rules. -/
def execPwr (s : State) : Host.Outcome State Fault Refusal :=
  match s.chip.takeDelivered [3] with
  | none => .next s
  | some (d, c) =>
    let (st, _, s) := State.perform { s with chip := c } d
    .next (if st = 0 then s else { s with chip := s.chip.incFld 0x40040028 0 32 1 })

/-! ### At the requester -/

/-- Every DME issues what it can. -/
def State.pumpAll (s : State) : State := [26, 27, 28, 29].foldl (fun s e => s.dmePump e 33) s

/-- A mailbox's WR that waits for a tag draws one (R541). -/
def Chip.tagMail (c : Chip) : Chip :=
  match c.hl.xacts.find? fun x => decide (x.tag = 65536) with
  | none => c
  | some x => match c.drawTag with
    | (none, c) => c
    | (some t, c) =>
      let y := { x with tag := t }
      let c := { c with hl.xacts := c.hl.xacts.replace x y }
      if c.hl.originate then c.sendXact y else c

/-- What waited for a tag or for an open place goes on. -/
def State.tagsFreed (s : State) : State := { s with chip := s.chip.tagMail }.pumpAll

/-- A transaction completes and reports its result to its owner (R540, R541). -/
def State.finishXact (s : State) (x : Xact) (cause : Nat) : State :=
  let s : State := { s with chip := s.chip.closeXact x }
  let s := match x.owner with
    | .mail q => { s with chip := (s.chip.mailDone q cause).mailAnswer x.dest x.pay (decide (cause = 0)) }
    | .dme e => s.dmeAnswer e x.tag cause x.data
  s.tagsFreed

/-- RESP (R538, R539, R542): a final one ends its transaction, which completes at once if it was sent once; BUSY and NO_ROUTE are
recorded. -/
def execResp (s : State) : Host.Outcome State Fault Refusal :=
  match s.chip.takeDelivered [4] with
  | none => .next s
  | some (d, c) =>
    let k := d.pkt
    let s : State := { s with chip := c }
    match c.hl.xacts.find? fun x => decide (x.ended = none ∧ 1 ≤ x.sends ∧ x.dest = k.src ∧ x.tag = k.tag) with
    | none => .next { s with chip := c.ageDrop }
    | some x =>
      let st := k.addr
      if k.tooOld then .next { s with chip := c.ageDrop }
      else if st ≤ 3 then
        let y := { x with ended := some st, data := k.pay.take (if k.len = 0 then 0 else k.bytes) }
        let s : State := { s with chip.hl.xacts := c.hl.xacts.replace x y }
        .next (if x.sends = 1 then s.finishXact y st else s)
      else if st ≤ 5 then .next { s with chip.hl.xacts := c.hl.xacts.replace x { x with cause := st } }
      else .next s

/-- TRANSACTION_TIMEOUT (R538, R539): the 1 ms timer of the transaction sent longest ago expires. -/
def execTransactionTimeout (s : State) : Host.Outcome State Fault Refusal :=
  s.onChip fun c => match c.hl.xacts.find? fun x => decide (x.ended = none ∧ 1 ≤ x.sends) with
    | none => c
    | some x =>
      if x.sends ≤ 3 then c.sendXact x else { c with hl.xacts := c.hl.xacts.replace x { x with ended := some x.cause } }

/-- TRANSACTION_COMPLETE (R540): 2.05 ms have passed since the last send of the re-sent transaction that ended first. -/
def execTransactionComplete (s : State) : Host.Outcome State Fault Refusal :=
  match s.chip.hl.xacts.find? fun x => x.ended.isSome with
  | none => .next s
  | some x => .next (s.finishXact x (x.ended.getD 6))

/-- TAG_RETURN (R541): the tag held longest returns to the pool. -/
def execTagReturn (s : State) : Host.Outcome State Fault Refusal :=
  .next { s with chip.hl.held := s.chip.hl.held.drop 1 }.tagsFreed

/-! ### Enumeration requests -/

/-- The ENUM_RESP to a request that arrived on port `p` (R533). -/
def Pkt.enumResp (k : Pkt) (status : Nat) (value : Word) : Pkt :=
  let n := leAt k.pay 16 1
  let path := (List.range n).foldl (fun b i => pathPut b 0 i (pathAt k.pay 8 (n - 1 - i))) (List.replicate 64 0)
  let pay := splice (splice path 16 (leBytes 1 n)) 32 (leBytes 4 value.toNat)
  Pkt.make 7 0 0 0x3FF 0 0x3FF k.tag status 64 pay

/-- The response sent on the port that PATH[0] names, if it is UP. -/
def Chip.enumReply (c : Chip) (k : Pkt) (status : Nat) (value : Word) : Chip :=
  let r := k.enumResp status value
  let q := pathAt r.pay 0 0
  if c.hlState q = 2 then c.enqueue q ⟨r, 0, c.real, 0, false, none⟩ else c

/-- An offset that names a register of the HL_ block. -/
def hlNamed (a : Nat) : Bool := decide (a < 0x10000 ∧ a % 4 = 0) && (cardOf (0x40040000 + a)).isSome

/-- ENUM_RD (R532, R533, R543). -/
def execEnumRd (s : State) : Host.Outcome State Fault Refusal :=
  .next (s.onRequest 5 fun s d =>
    let a := d.pkt.addr
    if hlNamed a then
      let (v, c) := s.chip.loadAny (0x40040000 + a)
      { s with chip := c.enumReply d.pkt 0 (BitVec.ofNat 32 v) }
    else { s with chip := s.chip.enumReply d.pkt 3 0 })

/-- The offsets an ENUM_WR may write: HL_ID, HL_CTL, HL_TPAR and HL_RTd (R534). -/
def enumWritable (a : Nat) : Bool := decide (a = 4 ∨ a = 8 ∨ a = 0x10 ∨ (0x1000 ≤ a ∧ a < 0x2000 ∧ a % 4 = 0))

/-- ENUM_WR (R534, R543); of HL_CTL it writes ENUM_OPEN alone. -/
def execEnumWr (s : State) : Host.Outcome State Fault Refusal :=
  .next (s.onRequest 6 fun s d =>
    let a := d.pkt.addr
    let at_ := 0x40040000 + a
    let show' := fun (s : State) (st : Nat) =>
      { s with chip := s.chip.enumReply d.pkt st (if hlNamed a then s.chip.reg at_ else 0) }
    if !s.chip.bit 0x40040008 1 then show' s 1
    else if !enumWritable a then show' s 3
    else
      let v : Word := BitVec.ofNat 32 (leAt d.pkt.pay 32 4)
      let v := if a = 8 then (s.chip.reg at_ &&& ~~~2#32) ||| (v &&& 2#32) else v
      show' (s.storeAny (43 + d.port) 0 at_ v) 0)

end Sys2Proof.Machine
end

