-- ==== Sys2Proof/Machine/Dispatch.lean ====
section
/-! DEFINITION. The dispatch: one arm per command, each one direct call of that command's meaning. -/
namespace Sys2Proof.Machine
open Sys2Proof

def exec (i : Instr) (s : State) : Host.Outcome State Fault Refusal :=
  match i with
  | .registerWrite port addr size v => Sys2Proof.Machine.execRegisterWrite port addr size v s
  | .powerOnReset => Sys2Proof.Machine.execPowerOnReset s
  | .stackSupplyFall => Sys2Proof.Machine.execStackSupplyFall s
  | .externalReset => Sys2Proof.Machine.execExternalReset s
  | .resetNRelease => Sys2Proof.Machine.execResetNRelease s
  | .stwWdtExpiry core => Sys2Proof.Machine.execStwWdtExpiry core s
  | .glitch => Sys2Proof.Machine.execGlitch s
  | .coreRailsInRange phaseA => Sys2Proof.Machine.execCoreRailsInRange phaseA s
  | .xtal25Stable => Sys2Proof.Machine.execXtal25Stable s
  | .syspllLock profile1 phaseB => Sys2Proof.Machine.execSyspllLock profile1 phaseB s
  | .fiPhaseC phaseC => Sys2Proof.Machine.execFiPhaseC phaseC s
  | .imageLoaded part conf tags volts amps => Sys2Proof.Machine.execImageLoaded part conf tags volts amps s
  | .locketLateArrival tap => Sys2Proof.Machine.execLocketLateArrival tap s
  | .handoverRecord => Sys2Proof.Machine.execHandoverRecord s
  | .belfryReady => Sys2Proof.Machine.execBelfryReady s
  | .firstStepStart late => Sys2Proof.Machine.execFirstStepStart late s
  | .belrcWindow count => Sys2Proof.Machine.execBelrcWindow count s
  | .xtal25Loss => Sys2Proof.Machine.execXtal25Loss s
  | .syspllLockLoss => Sys2Proof.Machine.execSyspllLockLoss s
  | .xtal32kFail => Sys2Proof.Machine.execXtal32kFail s
  | .xtal32kReturn => Sys2Proof.Machine.execXtal32kReturn s
  | .belWdtExpiry => Sys2Proof.Machine.execBelWdtExpiry s
  | .lockstepMismatch => Sys2Proof.Machine.execLockstepMismatch s
  | .belSupplyFault => Sys2Proof.Machine.execBelSupplyFault s
  | .engineUsable e => Sys2Proof.Machine.execEngineUsable e s
  | .engIdlePowerOff e => Sys2Proof.Machine.execEngIdlePowerOff e s
  | .grpIdleRetention g => Sys2Proof.Machine.execGrpIdleRetention g s
  | .groupRetentionExit g => Sys2Proof.Machine.execGroupRetentionExit g s
  | .groupZeroFillDone g => Sys2Proof.Machine.execGroupZeroFillDone g s
  | .pwrGrpWrite port v => Sys2Proof.Machine.execPwrGrpWrite port v s
  | .pwrEngWrite port k v => Sys2Proof.Machine.execPwrEngWrite port k v s
  | .pwrSdWrite port v => Sys2Proof.Machine.execPwrSdWrite port v s
  | .pwrLinkWrite port v => Sys2Proof.Machine.execPwrLinkWrite port v s
  | .clkAdcWrite port v => Sys2Proof.Machine.execClkAdcWrite port v s
  | .modeReqWatch port hold => Sys2Proof.Machine.execModeReqWatch port hold s
  | .modeReqRun port => Sys2Proof.Machine.execModeReqRun port s
  | .scanTimerExpiry => Sys2Proof.Machine.execScanTimerExpiry s
  | .scanOverrun => Sys2Proof.Machine.execScanOverrun s
  | .wakeInEvent => Sys2Proof.Machine.execWakeInEvent s
  | .lpcSample n level => Sys2Proof.Machine.execLpcSample n level s
  | .qsupLoRead port charge => Sys2Proof.Machine.execQsupLoRead port charge s
  | .refaSettled => Sys2Proof.Machine.execRefaSettled s
  | .refaFault => Sys2Proof.Machine.execRefaFault s
  | .refbSettled => Sys2Proof.Machine.execRefbSettled s
  | .sfeTdacWrite port v => Sys2Proof.Machine.execSfeTdacWrite port v s
  | .tdacHold => Sys2Proof.Machine.execTdacHold s
  | .tdacRelease => Sys2Proof.Machine.execTdacRelease s
  | .balPeriodStart => Sys2Proof.Machine.execBalPeriodStart s
  | .balHalfPeriod => Sys2Proof.Machine.execBalHalfPeriod s
  | .balChannelOff k => Sys2Proof.Machine.execBalChannelOff k s
  | .balConditionLoss => Sys2Proof.Machine.execBalConditionLoss s
  | .balDutyWrite port k v => Sys2Proof.Machine.execBalDutyWrite port k v s
  | .d2dFrameSend => Sys2Proof.Machine.execD2dFrameSend s
  | .d2dFrameReceive wire => Sys2Proof.Machine.execD2dFrameReceive wire s
  | .checkFrameReceive wire => Sys2Proof.Machine.execCheckFrameReceive wire s
  | .beadCommit port n bank bead v => Sys2Proof.Machine.execBeadCommit port n bank bead v s
  | .checkBeadStore bead lo hi => Sys2Proof.Machine.execCheckBeadStore bead lo hi s
  | .seqRunStart port n v => Sys2Proof.Machine.execSeqRunStart port n v s
  | .seqRunStop port n v => Sys2Proof.Machine.execSeqRunStop port n v s
  | .seqSwap port n v => Sys2Proof.Machine.execSeqSwap port n v s
  | .seqClrcnt port n v => Sys2Proof.Machine.execSeqClrcnt port n v s
  | .seqTimerTick k => Sys2Proof.Machine.execSeqTimerTick k s
  | .pwmsyncEdge rising => Sys2Proof.Machine.execPwmsyncEdge rising s
  | .pwmStartEvent n src => Sys2Proof.Machine.execPwmStartEvent n src s
  | .settleEnd n => Sys2Proof.Machine.execSettleEnd n s
  | .sampleWordOut n raw => Sys2Proof.Machine.execSampleWordOut n raw s
  | .beadRunEnd n atLaunch => Sys2Proof.Machine.execBeadRunEnd n atLaunch s
  | .pendantTrigger n t => Sys2Proof.Machine.execPendantTrigger n t s
  | .seqSwtrig port n v => Sys2Proof.Machine.execSeqSwtrig port n v s
  | .pendantLaunch n => Sys2Proof.Machine.execPendantLaunch n s
  | .pendantEnd n => Sys2Proof.Machine.execPendantEnd n s
  | .evtLoRead port n => Sys2Proof.Machine.execEvtLoRead port n s
  | .calCommand port v => Sys2Proof.Machine.execCalCommand port v s
  | .calStart => Sys2Proof.Machine.execCalStart s
  | .calConv m => Sys2Proof.Machine.execCalConv m s
  | .calIlv01 m => Sys2Proof.Machine.execCalIlv01 m s
  | .calIlv23 m => Sys2Proof.Machine.execCalIlv23 m s
  | .calZeroA codes => Sys2Proof.Machine.execCalZeroA codes s
  | .calZeroB codes => Sys2Proof.Machine.execCalZeroB codes s
  | .calEnd => Sys2Proof.Machine.execCalEnd s
  | .adc4Cal m => Sys2Proof.Machine.execAdc4Cal m s
  | .checkListRun => Sys2Proof.Machine.execCheckListRun s
  | .ringEntryWrite => Sys2Proof.Machine.execRingEntryWrite s
  | .ringEnable port n v => Sys2Proof.Machine.execRingEnable port n v s
  | .filterEnable port p v => Sys2Proof.Machine.execFilterEnable port p v s
  | .filterOutput p => Sys2Proof.Machine.execFilterOutput p s
  | .windowEnable port k o v => Sys2Proof.Machine.execWindowEnable port k o v s
  | .fabricAccess x => Sys2Proof.Machine.execFabricAccess x s
  | .bankGrant b reqs => Sys2Proof.Machine.execBankGrant b reqs s
  | .scrubRead upsets => Sys2Proof.Machine.execScrubRead upsets s
  | .partAttrWrite port r which v => Sys2Proof.Machine.execPartAttrWrite port r which v s
  | .doorbell port e v => Sys2Proof.Machine.execDoorbell port e v s
  | .doorbellProcess e => Sys2Proof.Machine.execDoorbellProcess e s
  | .descriptorStart e => Sys2Proof.Machine.execDescriptorStart e s
  | .descriptorComplete e => Sys2Proof.Machine.execDescriptorComplete e s
  | .timeWindowOpen n => Sys2Proof.Machine.execTimeWindowOpen n s
  | .timeWindowClose n => Sys2Proof.Machine.execTimeWindowClose n s
  | .graceExpiry e => Sys2Proof.Machine.execGraceExpiry e s
  | .runmaxExpiry e => Sys2Proof.Machine.execRunmaxExpiry e s
  | .engFlush port v => Sys2Proof.Machine.execEngFlush port v s
  | .engEvtWrite port k v => Sys2Proof.Machine.execEngEvtWrite port k v s
  | .gruStep e => Sys2Proof.Machine.execGruStep e s
  | .lstmStep e => Sys2Proof.Machine.execLstmStep e s
  | .ssmStep e => Sys2Proof.Machine.execSsmStep e s
  | .conv1dStep e => Sys2Proof.Machine.execConv1dStep e s
  | .nlApply e => Sys2Proof.Machine.execNlApply e s
  | .gemm e => Sys2Proof.Machine.execGemm e s
  | .gemmAcc e => Sys2Proof.Machine.execGemmAcc e s
  | .matmul e => Sys2Proof.Machine.execMatmul e s
  | .chol e => Sys2Proof.Machine.execChol e s
  | .trisolve e => Sys2Proof.Machine.execTrisolve e s
  | .covPredict e => Sys2Proof.Machine.execCovPredict e s
  | .ekfUpdate e => Sys2Proof.Machine.execEkfUpdate e s
  | .ukfSigma e => Sys2Proof.Machine.execUkfSigma e s
  | .ecmEval e => Sys2Proof.Machine.execEcmEval e s
  | .coulomb e => Sys2Proof.Machine.execCoulomb e s
  | .excite e => Sys2Proof.Machine.execExcite e s
  | .zleStop e => Sys2Proof.Machine.execZleStop e s
  | .demod e => Sys2Proof.Machine.execDemod e s
  | .zleRead e => Sys2Proof.Machine.execZleRead e s
  | .zleClear e => Sys2Proof.Machine.execZleClear e s
  | .fft e => Sys2Proof.Machine.execFft e s
  | .ifft e => Sys2Proof.Machine.execIfft e s
  | .stft e => Sys2Proof.Machine.execStft e s
  | .istftOla e => Sys2Proof.Machine.execIstftOla e s
  | .spePower e => Sys2Proof.Machine.execSpePower e s
  | .fir e => Sys2Proof.Machine.execFir e s
  | .biquad e => Sys2Proof.Machine.execBiquad e s
  | .fxlmsUpdate e => Sys2Proof.Machine.execFxlmsUpdate e s
  | .bptt e => Sys2Proof.Machine.execBptt e s
  | .optStep e => Sys2Proof.Machine.execOptStep e s
  | .compress e => Sys2Proof.Machine.execCompress e s
  | .decompress e => Sys2Proof.Machine.execDecompress e s
  | .copy e => Sys2Proof.Machine.execCopy e s
  | .fill e => Sys2Proof.Machine.execFill e s
  | .dmeGather e => Sys2Proof.Machine.execDmeGather e s
  | .scatter e => Sys2Proof.Machine.execScatter e s
  | .fetchAdd e => Sys2Proof.Machine.execFetchAdd e s
  | .gcmEnc e => Sys2Proof.Machine.execGcmEnc e s
  | .gcmDec e => Sys2Proof.Machine.execGcmDec e s
  | .sha256 e => Sys2Proof.Machine.execSha256 e s
  | .ecdsaVerify e => Sys2Proof.Machine.execEcdsaVerify e s
  | .diff e => Sys2Proof.Machine.execDiff e s
  | .stridedDiff e => Sys2Proof.Machine.execStridedDiff e s
  | .reduce e => Sys2Proof.Machine.execReduce e s
  | .band e => Sys2Proof.Machine.execBand e s
  | .interp1 e => Sys2Proof.Machine.execInterp1 e s
  | .interp2 e => Sys2Proof.Machine.execInterp2 e s
  | .gteGather e => Sys2Proof.Machine.execGteGather e s
  | .decode e => Sys2Proof.Machine.execDecode e s
  | .stepBoundary late => Sys2Proof.Machine.execStepBoundary late s
  | .inputVectorReceive owner late brought back => Sys2Proof.Machine.execInputVectorReceive owner late brought back s
  | .locketCapture slot => Sys2Proof.Machine.execLocketCapture slot s
  | .linkTrain p peerMask lanes peerId peerValid => Sys2Proof.Machine.execLinkTrain p peerMask lanes peerId peerValid s
  | .hlRetrain port p v => Sys2Proof.Machine.execHlRetrain port p v s
  | .trainingFallback p lane1 => Sys2Proof.Machine.execTrainingFallback p lane1 s
  | .linkUp p => Sys2Proof.Machine.execLinkUp p s
  | .linkFailedRetry p => Sys2Proof.Machine.execLinkFailedRetry p s
  | .linkResume p => Sys2Proof.Machine.execLinkResume p s
  | .linkFail p lockLost => Sys2Proof.Machine.execLinkFail p lockLost s
  | .packetReceive p cut bytes => Sys2Proof.Machine.execPacketReceive p cut bytes s
  | .packetSend p => Sys2Proof.Machine.execPacketSend p s
  | .ack p w => Sys2Proof.Machine.execAck p w s
  | .nak p w => Sys2Proof.Machine.execNak p w s
  | .credit p w => Sys2Proof.Machine.execCredit p w s
  | .ackTimer p => Sys2Proof.Machine.execAckTimer p s
  | .replayTimeout p => Sys2Proof.Machine.execReplayTimeout p s
  | .rd => Sys2Proof.Machine.execRd s
  | .wr => Sys2Proof.Machine.execWr s
  | .fadd => Sys2Proof.Machine.execFadd s
  | .pwr => Sys2Proof.Machine.execPwr s
  | .resp => Sys2Proof.Machine.execResp s
  | .enumRd => Sys2Proof.Machine.execEnumRd s
  | .enumWr => Sys2Proof.Machine.execEnumWr s
  | .enumResp => Sys2Proof.Machine.execEnumResp s
  | .tsync => Sys2Proof.Machine.execTsync s
  | .tsyncSend => Sys2Proof.Machine.execTsyncSend s
  | .mbSendWr port q v => Sys2Proof.Machine.execMbSendWr port q v s
  | .mbSendPwr port q v => Sys2Proof.Machine.execMbSendPwr port q v s
  | .transactionTimeout => Sys2Proof.Machine.execTransactionTimeout s
  | .transactionComplete => Sys2Proof.Machine.execTransactionComplete s
  | .tagReturn => Sys2Proof.Machine.execTagReturn s
  | .dedupExpiry => Sys2Proof.Machine.execDedupExpiry s
  | .requestAcceptOpen originate => Sys2Proof.Machine.execRequestAcceptOpen originate s
  | .eqEnable port v => Sys2Proof.Machine.execEqEnable port v s
  | .eqSend => Sys2Proof.Machine.execEqSend s
  | .eqEntryTimeout => Sys2Proof.Machine.execEqEntryTimeout s
  | .heartbeat src => Sys2Proof.Machine.execHeartbeat src s
  | .heartbeatTick => Sys2Proof.Machine.execHeartbeatTick s
  | .prepare src => Sys2Proof.Machine.execPrepare src s
  | .prepared src => Sys2Proof.Machine.execPrepared src s
  | .commit src => Sys2Proof.Machine.execCommit src s
  | .schedule src => Sys2Proof.Machine.execSchedule src s
  | .delegate src chem => Sys2Proof.Machine.execDelegate src chem s
  | .delegateAck src => Sys2Proof.Machine.execDelegateAck src s
  | .newPeer src => Sys2Proof.Machine.execNewPeer src s
  | .locketReq src => Sys2Proof.Machine.execLocketReq src s
  | .locketSent src volts amps => Sys2Proof.Machine.execLocketSent src volts amps s
  | .refresh src brought => Sys2Proof.Machine.execRefresh src brought s
  | .resetCmd src => Sys2Proof.Machine.execResetCmd src s
  | .managerCandidate w activeId => Sys2Proof.Machine.execManagerCandidate w activeId s
  | .discoveryWindowExpiry => Sys2Proof.Machine.execDiscoveryWindowExpiry s
  | .enumeration w keys olds => Sys2Proof.Machine.execEnumeration w keys olds s
  | .resultBatchAccept id => Sys2Proof.Machine.execResultBatchAccept id s
  | .batchMissingRead id got seqs => Sys2Proof.Machine.execBatchMissingRead id got seqs s
  | .mirrorCompare reads => Sys2Proof.Machine.execMirrorCompare reads s
  | .epochEnd copied => Sys2Proof.Machine.execEpochEnd copied s
  | .managerLost => Sys2Proof.Machine.execManagerLost s
  | .delegation ref target remote slot switch chem => Sys2Proof.Machine.execDelegation ref target remote slot switch chem s
  | .canModeWrite port n v => Sys2Proof.Machine.execCanModeWrite port n v s
  | .canFrameReceive n entry => Sys2Proof.Machine.execCanFrameReceive n entry s
  | .canFrameTransmit n outcome => Sys2Proof.Machine.execCanFrameTransmit n outcome s
  | .canSafeGo port n v => Sys2Proof.Machine.execCanSafeGo port n v s
  | .canBusOff n => Sys2Proof.Machine.execCanBusOff n s
  | .canBusOffRecovery n => Sys2Proof.Machine.execCanBusOffRecovery n s
  | .ethFrameReceive frame fcsOk => Sys2Proof.Machine.execEthFrameReceive frame fcsOk s
  | .ethFrameTransmit => Sys2Proof.Machine.execEthFrameTransmit s
  | .t1sFrameReceive frame fcsOk => Sys2Proof.Machine.execT1sFrameReceive frame fcsOk s
  | .t1sFrameTransmit collided => Sys2Proof.Machine.execT1sFrameTransmit collided s
  | .ethMdio port v => Sys2Proof.Machine.execEthMdio port v s
  | .ptmStep port v => Sys2Proof.Machine.execPtmStep port v s
  | .ptmNsLoRead port => Sys2Proof.Machine.execPtmNsLoRead port s
  | .tdmFsync t => Sys2Proof.Machine.execTdmFsync t s
  | .tdmFrameReceived t slots => Sys2Proof.Machine.execTdmFrameReceived t slots s
  | .tdmFcntRead port t => Sys2Proof.Machine.execTdmFcntRead port t s
  | .clkLost t => Sys2Proof.Machine.execClkLost t s
  | .i3cCmd port v => Sys2Proof.Machine.execI3cCmd port v s
  | .i3cCmdDone ack data => Sys2Proof.Machine.execI3cCmdDone ack data s
  | .i3cTimeout => Sys2Proof.Machine.execI3cTimeout s
  | .streamBlockSend => Sys2Proof.Machine.execStreamBlockSend s
  | .sinkBlockStart n entries => Sys2Proof.Machine.execSinkBlockStart n entries s
  | .handoffPoll late custom => Sys2Proof.Machine.execHandoffPoll late custom s
  | .restAnchor => Sys2Proof.Machine.execRestAnchor s
  | .consentChange => Sys2Proof.Machine.execConsentChange s
  | .d2dFrozen link => Sys2Proof.Machine.execD2dFrozen link s
  | .d2dUnfrozen link => Sys2Proof.Machine.execD2dUnfrozen link s
  | .markingEnd code => Sys2Proof.Machine.execMarkingEnd code s
  | .faultMessageRepeat => Sys2Proof.Machine.execFaultMessageRepeat s
  | .selftestSlice pass => Sys2Proof.Machine.execSelftestSlice pass s
  | .otpProgram port => Sys2Proof.Machine.execOtpProgram port s
  | .otpLock port => Sys2Proof.Machine.execOtpLock port s
  | .secRevoke port v => Sys2Proof.Machine.execSecRevoke port v s
  | .secKclr port v => Sys2Proof.Machine.execSecKclr port v s
  | .linkKeyStart port p => Sys2Proof.Machine.execLinkKeyStart port p s
  | .linkKeyInstall port p => Sys2Proof.Machine.execLinkKeyInstall port p s
  | .secChal => Sys2Proof.Machine.execSecChal s
  | .secToken token => Sys2Proof.Machine.execSecToken token s
  | .logWrite port v => Sys2Proof.Machine.execLogWrite port v s
  | .capture port => Sys2Proof.Machine.execCapture port s
  | .dumpDone => Sys2Proof.Machine.execDumpDone s
  | .dumpSave => Sys2Proof.Machine.execDumpSave s
  | .dumpReqRelease port => Sys2Proof.Machine.execDumpReqRelease port s
  | .dumpReqRetained port => Sys2Proof.Machine.execDumpReqRetained port s
  | .dumpReqNvmNewer port => Sys2Proof.Machine.execDumpReqNvmNewer port s
  | .dumpReqNvmOlder port => Sys2Proof.Machine.execDumpReqNvmOlder port s
  | .dumpReqCapture port => Sys2Proof.Machine.execDumpReqCapture port s
  | .dmpReqAck port v => Sys2Proof.Machine.execDmpReqAck port v s
  | .xspiRead port => Sys2Proof.Machine.execXspiRead port s
  | .xspiProgram port => Sys2Proof.Machine.execXspiProgram port s
  | .erase4k port => Sys2Proof.Machine.execErase4k port s
  | .erase64k port => Sys2Proof.Machine.execErase64k port s
  | .xspiCmdComplete ok => Sys2Proof.Machine.execXspiCmdComplete ok s
  | .checkFrameSend => Sys2Proof.Machine.execCheckFrameSend s
  | .adc4WordOut raw => Sys2Proof.Machine.execAdc4WordOut raw s
  | .handoverNotStaged => Sys2Proof.Machine.execHandoverNotStaged s
  | .refbCalTimeout => Sys2Proof.Machine.execRefbCalTimeout s
  | .otpProgramDone => Sys2Proof.Machine.execOtpProgramDone s
  | .ethMdioDone data => Sys2Proof.Machine.execEthMdioDone data s
  | .sgmiiLinkStatus up speed => Sys2Proof.Machine.execSgmiiLinkStatus up speed s
  | .linkKeySweep keys => Sys2Proof.Machine.execLinkKeySweep keys s

end Sys2Proof.Machine
end

