-- ==== Sys2Proof/Machine/Tick.lean ====
section
/-! DEFINITION. What time does while no command waits (DESIGN CHOICE, log entry 9): one clock of the 160 MHz PTP domain, 6.25 ns. The table has no row for
a clock, and every event that time brings has a row of its own. -/
namespace Sys2Proof.Machine

/-- The signed rate adjustment in ppb (R611). -/
def Chip.ptmRate (c : Chip) : Int := sext 24 (c.fld 0x4008000C 0 24)

/-- The pack-time counter's advance at one PTP clock, in 2^-32 ns (R611). -/
def Chip.packStep (c : Chip) : Nat := (26843545600 * (10 ^ 9 + c.ptmRate) / 10 ^ 9).toNat

/-- The pack-time counter after one PTP clock. -/
def Chip.tickPack (c : Chip) : Chip :=
  let t := c.clocks.packNs * 2 ^ 32 + c.clocks.packFrac + c.packStep
  { c with clocks.packNs := t / 2 ^ 32 % 2 ^ 64, clocks.packFrac := t % 2 ^ 32 }

/-- The RTC after 6.25 ns, 16 of the 78,125 parts of its period; at a count the log writes an entry and WAKE_OUT's pulse shortens. -/
def Chip.tickRtc (c : Chip) : Chip :=
  let p := c.clocks.rtcPhase + 16
  if p < 78125 then { c with clocks.rtcPhase := p }
  else { c with clocks.rtcPhase := p - 78125, clocks.rtc := (c.clocks.rtc + 1) % 2 ^ 64, pins.wakeOut := c.pins.wakeOut - 1 }.logCycle

/-- Half an SD_CTL clock; at a whole one, beads whose settling instant has come begin to settle. -/
def Chip.tickSd (c : Chip) : Chip :=
  if c.clocks.sdHalf then { c with clocks.sdHalf := false, clocks.sd := c.clocks.sd + 1 }.seqDue else { c with clocks.sdHalf := true }

/-- The regulators' buckets after 4 FAB clocks (R322): RATE ÷ 1,024 tokens a clock, up to DEPTH. -/
def Chip.tickTokens (c : Chip) : Chip :=
  let ts := c.clocks.tokens.zipIdx.map fun x =>
    let r := c.act (if x.2 < 24 then 0x40020100 + 4 * x.2 else 0x40020180 + 4 * (x.2 - 24))
    min (1024 * Machine.fld r 16 16) (x.1 + 4 * Machine.fld r 0 16)
  { c with clocks.tokens := ts }

/-- One PTP clock of time, in the domains that run. -/
def Chip.tick (c : Chip) : Chip :=
  let c := c.tickRtc
  let c := if c.power.rails && !c.power.inReset then c.tickPack else c
  let c := if c.dom 53 then c.tickSd else c
  if c.dom 4 then c.tickTokens else c

end Sys2Proof.Machine
end

