-- ==== Sys2Proof/Safety.lean ====
section
/-! DEFINITION. The terms the statements are made in: how a command completes, and what a run leaves unchanged. No command of this
block stops a run: the spec gives every one an effect (Fault has no constructor, and no meaning refuses). -/
namespace Sys2Proof.Machine
open Sys2Proof

/-- The command completes, in a state of which `P` holds. -/
def Completes (i : Instr) (s : State) (P : State → Prop) : Prop := ∃ t, exec i s = .next t ∧ P t

/-- `port`'s store to the register at `a` passes every check of R796. -/
abbrev Chip.canStore (c : Chip) (port a : Nat) : Prop := c.gate port (c.portCls port) a 4 true = .open

/-- `port`'s read of the register at `a` passes every check of R796. -/
abbrev Chip.canLoad (c : Chip) (port a : Nat) : Prop := c.gate port (c.portCls port) a 4 false = .open

/-- The queue, the NVM and the OTP are unchanged: the frame of a command that acts on the chip alone. -/
def State.sameStores (s t : State) : Prop := t.pending = s.pending ∧ t.nvm = s.nvm ∧ t.otpA = s.otpA ∧ t.otpB = s.otpB

/-- Every register but those at `but` reads, and acts, as before. -/
def Chip.sameRegs (c d : Chip) (but : List Nat) : Prop := ∀ a, a ∉ but → d.reg a = c.reg a ∧ d.act a = c.act a

/-- Every byte of memory reads as before. -/
def Chip.sameMem (c d : Chip) : Prop := ∀ a, d.peek a = c.peek a

/-- The queue, the NVM, the OTP, every byte of memory and every register but those at `but` are unchanged: the frame of most commands. -/
def State.keeps (s t : State) (but : List Nat) : Prop := s.sameStores t ∧ s.chip.sameRegs t.chip but ∧ s.chip.sameMem t.chip

/-- The bytes `bs` are stored from `a` up, and every other byte of memory reads as before. -/
def Chip.wrote (c d : Chip) (a : Nat) (bs : List Byte) : Prop :=
  d.peekN a bs.length = bs ∧ ∀ x, (∀ i < bs.length, canon x ≠ canon (a + i)) → d.peek x = c.peek x

/-- Nothing but registers differs, and of those only the ones at `but`. -/
def Chip.onlyRegs (c d : Chip) (but : List Nat) : Prop := d = { c with regs := d.regs, acts := d.acts } ∧ c.sameRegs d but

/-- The command changes nothing but the registers at `but`. -/
def State.onlyRegs (s t : State) (but : List Nat) : Prop := s.sameStores t ∧ s.chip.onlyRegs t.chip but

/-- The outputs of Table 03-4 that a device without consent or supervision must hold: FAULT_N asserted, PULSE stopped, gates low. -/
def Chip.outputsSafe (c : Chip) : Prop := c.pins.faultN = false ∧ c.pins.pulse = false ∧ ∀ b ∈ c.pins.bal, b = false

/-- The work of an engine's operation: what it does to the chip and the result it ends with. -/
abbrev Work := Who → Desc → Opnd → EngM OpRes

/-- The operations that an engine performs at once: engine, class of Table 09-1, opcode, and work. EXCITE, which waits for its period
start, and the data movers, whose work may be on other devices, are stated by themselves. -/
def engineOp : Instr → Option (Nat × Nat × Nat × Work)
  | .gruStep e => some (e, 0, 1, sqeStep 1)
  | .lstmStep e => some (e, 0, 2, sqeStep 2)
  | .ssmStep e => some (e, 0, 3, sqeStep 3)
  | .conv1dStep e => some (e, 0, 4, sqeStep 4)
  | .nlApply e => some (e, 0, 16, nlApply)
  | .gemm e => some (e, 1, 1, gemm false)
  | .gemmAcc e => some (e, 1, 2, gemm true)
  | .matmul e => some (e, 2, 1, matmul)
  | .chol e => some (e, 2, 2, cholWork)
  | .trisolve e => some (e, 2, 3, trisolve)
  | .covPredict e => some (e, 2, 4, covWork)
  | .ekfUpdate e => some (e, 2, 5, ekfWork)
  | .ukfSigma e => some (e, 2, 6, ukfWork)
  | .ecmEval e => some (e, 2, 7, ecmWork)
  | .coulomb e => some (e, 2, 8, coulombWork)
  | .zleStop e => some (e, 3, 2, zleStop)
  | .demod e => some (e, 3, 3, demodWork)
  | .zleRead e => some (e, 3, 4, zleRead)
  | .zleClear e => some (e, 3, 5, zleClear)
  | .fft e => some (e, 4, 1, fftWork false)
  | .ifft e => some (e, 4, 2, ifftWork)
  | .stft e => some (e, 4, 3, fftWork true)
  | .istftOla e => some (e, 4, 4, istftWork)
  | .spePower e => some (e, 4, 5, powerWork)
  | .fir e => some (e, 5, 1, firWork)
  | .biquad e => some (e, 5, 2, biquadWork)
  | .fxlmsUpdate e => some (e, 5, 3, fxlmsWork)
  | .bptt e => some (e, 6, 1, bptt)
  | .optStep e => some (e, 6, 2, optWork)
  | .compress e => some (e, 7, 1, compressWork)
  | .decompress e => some (e, 7, 2, decompressWork)
  | .gcmEnc e => some (e, 9, 1, gcmEncWork)
  | .gcmDec e => some (e, 9, 2, gcmDecWork)
  | .sha256 e => some (e, 9, 3, shaWork)
  | .ecdsaVerify e => some (e, 9, 4, ecdsaWork)
  | .diff e => some (e, 10, 1, diffWork)
  | .stridedDiff e => some (e, 10, 2, stridedWork)
  | .reduce e => some (e, 10, 3, reduceWork)
  | .band e => some (e, 10, 4, bandWork)
  | .interp1 e => some (e, 11, 1, interp1Work)
  | .interp2 e => some (e, 11, 2, interp2Work)
  | .gteGather e => some (e, 11, 3, gteGatherWork)
  | .decode e => some (e, 11, 4, decodeWork)
  | _ => none

/-- Firmware runs with the settings `k`, and the slot of sender `src` in its inbox holds a new well-formed message `b` of this type (R559,
R561). -/
abbrev Chip.hears (c : Chip) (src type : Nat) (k : SysConf) (b : List Byte) : Prop :=
  c.fw.conf = some k ∧ c.fwRuns = true ∧ src < 1024 ∧ b = c.peekN (k.inbox + 64 * src) 64 ∧ leAt b 0 1 = type ∧ leAt b 1 1 = 1 ∧
    leAt b 2 2 = src ∧ Sparse.find src c.fw.heard ≠ some (leAt b 8 4, leAt b 4 4)

/-- `c` with the message `b` of `src` marked processed. -/
def Chip.heardMsg (c : Chip) (src : Nat) (b : List Byte) : Chip :=
  { c with fw.heard := Sparse.put src (leAt b 8 4, leAt b 4 4) c.fw.heard }

/-- The rows that process one message: its sender and its type (Table 15-1). -/
def msgRow : Instr → Option (Nat × Nat)
  | .heartbeat src => some (src, 1)
  | .prepare src => some (src, 2)
  | .prepared src => some (src, 3)
  | .commit src => some (src, 4)
  | .schedule src => some (src, 5)
  | .delegate src _ => some (src, 6)
  | .delegateAck src => some (src, 7)
  | .newPeer src => some (src, 8)
  | .locketReq src => some (src, 9)
  | .locketSent src _ _ => some (src, 10)
  | .refresh src _ => some (src, 11)
  | .resetCmd src => some (src, 12)
  | _ => none

/-- What a system reset of `c` leaves, as Table 03-1 states it: `d` is in Start with the RTC, the accumulator, the log and the AON-resident
registers of `c`, its powered groups in retention, its engines off and its outputs safe. -/
def Chip.systemReset (c d : Chip) : Prop :=
  d.power.mode = .start ∧ d.clocks.rtc = c.clocks.rtc ∧ d.power.qsup = c.power.qsup ∧
    (∀ i < 64, d.reg (0x40090100 + 4 * i) = c.reg (0x40090100 + 4 * i)) ∧
    (∀ a ∈ [0x40000008, 0x4000000C, 0x40000010, 0x40000014, 0x40000050, 0x40000054, 0x40000058, 0x4000005C], d.reg a = c.reg a) ∧
    d.power.grp = c.power.grp.map (fun g => if g = .off then GrpState.off else .retained) ∧
    (∀ g ∈ d.eng, g.pw = .off) ∧ d.outputsSafe ∧ (∀ a, 0x800000 ≤ canon a → d.peek a = 0) ∧
    (c.dbgSession = false → ∀ a, canon a < 0x800000 → d.peek a = c.peek a)

/-- Fenced (R705): the mode, Belfry's state and the outputs. -/
def Chip.fenced (c : Chip) : Prop :=
  c.power.mode = .fenced ∧ c.saf = 3 ∧ c.pins.faultN = false ∧ ∀ b ∈ c.pins.bal, b = false

/-- Dark (R707): EN_CORE low, the outputs safe, and every memory lost. -/
def Chip.dark (c : Chip) : Prop :=
  c.power.mode = .dark ∧ c.pins.enCore = false ∧ c.outputsSafe ∧ ∀ a, c.peek a = 0

/-- A bit that is set in `a` is set in `b`. -/
def bitsKept (a b : Nat) : Prop := ∀ i, a.testBit i = true → b.testBit i = true

/-- Every bit programmed in a list of bytes stays programmed. -/
def bytesKept (a b : List Byte) : Prop :=
  a.length = b.length ∧ ∀ i j, (nth a i 0).getLsbD j = true → (nth b i 0).getLsbD j = true

/-- Every bit programmed in one OTP copy stays programmed (Table 20-2: programming goes from 0 to 1). -/
def OtpCopy.kept (a b : OtpCopy) : Prop :=
  bytesKept a.serial b.serial ∧ bytesKept a.secret b.secret ∧ bytesKept a.fleet b.fleet ∧
    (a.root.length = b.root.length ∧ ∀ k, bytesKept (nth a.root k []) (nth b.root k [])) ∧
    (∀ j, a.rootState.getLsbD j = true → b.rootState.getLsbD j = true) ∧ bitsKept a.rollback b.rollback ∧
    (∀ j, a.lifecycle.getLsbD j = true → b.lifecycle.getLsbD j = true)

end Sys2Proof.Machine
end

