-- ==== Sys2Proof/Certificates/Slice0/Obligations.lean ====
section
/-! DEFINITION. The statements for the provers: what each command does and what it leaves unchanged, family by family, and what every
step keeps. They are about all states and operands; where one rests on a choice of the model, its docstring names the log entry. -/
open Sys2Proof Sys2Proof.Machine

/-- The front command takes effect on the state that holds the queue's rest. -/
def Obligations.StepRunsFrontCommand : Prop :=
  ∀ (i : Instr) (r : List Instr) (s : State), step { s with pending := i :: r } = exec i { s with pending := r }

/-- Table 03-1 (R83 and following), R749. -/
def Obligations.ResetHoldsTheSpecsValues : Prop :=
  let c := State.reset.chip
  (∀ a, c.reg a = regReset a ∧ c.act a = regReset a) ∧ c.power.mode = .start ∧ c.clocks.rtc = 0 ∧ c.clocks.packNs = 0 ∧
    c.power.qsup = 0 ∧ c.pins.enCore = true ∧ c.outputsSafe ∧ (∀ a, c.peek a = 0) ∧ (∀ a, State.reset.nvmByte a = 0xFF) ∧
    Memory.wf c.mem = true ∧ Nvm.wf State.reset.nvm = true ∧ (∀ g ∈ c.eng, g.pw = .off) ∧ (∀ g ∈ c.power.grp, g = .off) ∧
    c.log.buf = [⟨0, 0x20, 0, 0⟩] ∧ State.reset.pending = []

/-- An idle step is one 6.25 ns clock of time (log entry 9, DESIGN CHOICE): the RTC advances by 16/78,125 of a count. -/
def Obligations.IdleStepPassesOneClock : Prop :=
  ∀ s : State, s.pending = [] → ∃ t, step s = .next t ∧ s.sameStores t ∧ t.chip.power.mode = s.chip.power.mode ∧
    (s.chip.clocks.rtcPhase + 16 < 78125 → t.chip.clocks.rtc = s.chip.clocks.rtc ∧
      t.chip.clocks.rtcPhase = s.chip.clocks.rtcPhase + 16) ∧
    (78125 ≤ s.chip.clocks.rtcPhase + 16 → t.chip.clocks.rtc = (s.chip.clocks.rtc + 1) % 2 ^ 64 ∧
      t.chip.clocks.rtcPhase = s.chip.clocks.rtcPhase + 16 - 78125) ∧
    (s.chip.power.rails = true → s.chip.power.inReset = false → s.chip.fld 0x4008000C 0 24 = 0 → s.chip.clocks.rtcPhase + 16 < 78125 →
      t.chip.clocks.packNs * 2 ^ 32 + t.chip.clocks.packFrac =
        (s.chip.clocks.packNs * 2 ^ 32 + s.chip.clocks.packFrac + 26843545600) % 2 ^ 96) ∧
    (s.chip.power.rails = false → t.chip.clocks.packNs = s.chip.clocks.packNs)

/-- Table 03-1, power-on reset: everything is initialised, AON included; R749 makes POWER_ON the log's first entry. R79: the accumulator
resets to 0 when the stack supply falls, and that reset sets PWR_QSUP_CTL.RESTARTED. Table 03-1, external reset, and its end (R83, R302,
R795, R629). -/
def Obligations.PowerOnAndExternalResetsFollowTheirTable : Prop :=
  (
    ∀ s : State, Completes .powerOnReset s fun t =>
      s.sameStores t ∧
      (∀ a, a ≠ 0x40060004 → ¬ (0x40060010 ≤ a ∧ a < 0x400600A8) → t.chip.reg a = regReset a ∧ t.chip.act a = regReset a) ∧
      t.chip.power.mode = .start ∧ (∀ a, t.chip.peek a = 0) ∧ t.chip.clocks.rtc = 0 ∧ t.chip.clocks.packNs = 0 ∧
      t.chip.power.qsup = 0 ∧ (∀ g ∈ t.chip.eng, g.pw = .off) ∧ t.chip.pins.enCore = true ∧ t.chip.outputsSafe ∧
      t.chip.log.buf = [⟨0, 0x20, 0, 0⟩]) ∧
  (
    ∀ s : State, Completes .stackSupplyFall s fun t =>
      s.sameStores t ∧ t.chip.power.qsup = 0 ∧ bit (t.chip.reg 0x40000048) 0 = true ∧ t.chip.power.supply = false ∧
      (∀ i < 64, t.chip.dom i = false) ∧ t.chip.pins.enCore = false ∧ ∀ a, t.chip.peek a = 0) ∧
  (
    (∀ s : State, s.chip.power.supply = true → Completes .externalReset s fun t =>
      s.sameStores t ∧ t.chip.power.mode = .start ∧ t.chip.power.inReset = true ∧
      t.chip.clocks.rtc = s.chip.clocks.rtc ∧ t.chip.power.qsup = s.chip.power.qsup ∧
      (∀ i < 64, t.chip.reg (0x40090100 + 4 * i) = s.chip.reg (0x40090100 + 4 * i)) ∧
      t.chip.power.grp = s.chip.power.grp.map (fun g => if g = .off then GrpState.off else .retained) ∧
      (∀ a, canon a < 0x800000 → t.chip.peek a = s.chip.peek a) ∧
      (∀ a, 0x800000 ≤ canon a → t.chip.peek a = 0) ∧
      (s.chip.power.mode ≠ .run → t.chip.log = s.chip.log) ∧
      (s.chip.power.mode = .run → ⟨0, 0x21, 0, s.chip.clocks.rtc⟩ ∈ t.chip.log.buf)) ∧
    (∀ s : State, s.chip.power.inReset = true →
      Completes .resetNRelease s fun t =>
        t = { s with chip := { s.chip with power.inReset := false, pins.enCore := true } }))

/-- Table 03-1, system reset, by a watchdog (R85, R751) and by the glitch detector (R742). R652, R653, R655, R707. -/
def Obligations.SafetyFailuresResetOrDarken : Prop :=
  (
    (∀ (core : Nat) (s : State), s.chip.dom 2 = true → s.chip.bit 0x40090004 1 = false → s.chip.power.inReset = false →
      s.chip.power.mode ≠ .dark → s.chip.power.mode ≠ .watch → Completes (.stwWdtExpiry core) s fun t =>
        s.sameStores t ∧ s.chip.systemReset t.chip ∧ ⟨0, 0x22, core % 4, s.chip.clocks.rtc⟩ ∈ t.chip.log.buf) ∧
    (∀ s : State, s.chip.power.mode = .run ∨ s.chip.power.mode = .scan ∨ s.chip.power.mode = .fenced → s.chip.power.rails = true →
      s.chip.power.inReset = false → Completes .glitch s fun t =>
        s.sameStores t ∧ s.chip.systemReset t.chip ∧ ⟨0, 0x23, 0, s.chip.clocks.rtc⟩ ∈ t.chip.log.buf ∧
        (t.chip.reg 0x40060300).toNat = sat 32 ((s.chip.reg 0x40060300).toNat + 1))) ∧
  (
    (∀ s : State, s.chip.dom 1 = true → s.chip.power.mode ≠ .dark → s.chip.power.mode ≠ .watch →
      Completes .belWdtExpiry s (fun t => s.sameStores t ∧ t.chip.dark ∧ t.chip.clocks.rtc = s.chip.clocks.rtc ∧
        ⟨1, 2, 4, s.chip.clocks.rtc⟩ ∈ t.chip.log.buf) ∧
      Completes .lockstepMismatch s (fun t => s.sameStores t ∧ t.chip.dark ∧ t.chip.clocks.rtc = s.chip.clocks.rtc ∧
        ⟨1, 1, 4, s.chip.clocks.rtc⟩ ∈ t.chip.log.buf)) ∧
    (∀ s : State, s.chip.dom 1 = true → Completes .belSupplyFault s fun t =>
      s.sameStores t ∧ s.chip.sameRegs t.chip [0x40070000] ∧ bit (t.chip.reg 0x40070000) 4 = false ∧
      t.chip = { s.chip with safe := { s.chip.safe with held := true }, pins := { s.chip.pins with pulse := false }
                             regs := t.chip.regs, acts := t.chip.acts }))

/-- Steps 2 to 5 and 9 of Table 03-2 (R74, R684, R685). R51 to R54. -/
def Obligations.StartMilestonesAndClockMonitors : Prop :=
  (
    (∀ (phaseA : Bool) (s : State), s.chip.pins.enCore = true → s.chip.power.rails = false → s.chip.power.inReset = false →
      s.chip.power.supply = true → Completes (.coreRailsInRange phaseA) s fun t =>
        s.sameStores t ∧
        (s.chip.power.kind = .cold → phaseA = true → t.chip.power.rails = true ∧ t.chip.dom 0 = true ∧ t.chip.dom 1 = true ∧
          t.chip.dom 58 = true ∧ t.chip.dom 59 = true ∧ t.chip.dom 60 = true ∧ fld (t.chip.reg 0x4000002C) 3 3 = 7 ∧
          fld (t.chip.reg 0x40070004) 0 2 = 2) ∧
        (s.chip.power.kind = .cold → phaseA = false → t.chip.power.mode = .dark ∧ t.chip.pins.enCore = false) ∧
        (s.chip.power.kind ≠ .cold → t.chip.power.rails = true ∧ t.chip.dom 1 = true ∧ t.chip.dom 58 = true ∧ t.chip.dom 60 = true)) ∧
    (∀ s : State, s.chip.power.rails = true → Completes .xtal25Stable s fun t =>
      s.onlyRegs t [0x40000100] ∧ bit (t.chip.reg 0x40000100) 0 = true) ∧
    (∀ (profile1 : Bool) (s : State), s.chip.bit 0x40000100 0 = true → s.chip.bit 0x40000100 1 = false → s.chip.power.rails = true →
      s.chip.boot.rom = .held → s.chip.power.mode ≠ .fenced → s.chip.dbgSession = false →
      (s.chip.power.kind = .cold → fld (s.chip.reg 0x40070004) 0 2 = 2) → Completes (.syspllLock profile1 true) s fun t =>
        t.pending = s.pending ∧ bit (t.chip.reg 0x40000100) 1 = true ∧ t.chip.dom 53 = true ∧ t.chip.dom 2 = true ∧ t.chip.dom 3 = true ∧
        t.chip.dom 4 = true ∧ t.chip.boot.rom ≠ .held ∧ (s.chip.power.kind = .cold → fld (t.chip.reg 0x40070004) 2 2 = 2)) ∧
    (∀ (phaseC : Bool) (s : State), s.chip.dom 1 = true → fld (s.chip.reg 0x40070004) 2 2 = 2 → fld (s.chip.reg 0x40070004) 4 2 < 2 →
      bit (s.chip.reg 0x40010000) 1 = true → bit (s.chip.reg 0x40010000) 2 = true → s.chip.power.mode = .start → s.chip.saf = 0 →
      Completes (.fiPhaseC phaseC) s fun t =>
        (phaseC = true → s.onlyRegs t [0x40070004] ∧ fld (t.chip.reg 0x40070004) 4 2 = 2) ∧
        (phaseC = false → s.sameStores t ∧ t.chip.fenced))) ∧
  (
    (∀ (count : Nat) (s : State), s.chip.dom 1 = true → s.chip.bit 0x40000100 0 = true → 6161 ≤ count → count ≤ 6946 →
      Completes (.belrcWindow count) s fun t =>
        s.sameStores t ∧ t.chip.power = { s.chip.power with belBad := 0 } ∧ s.chip.sameRegs t.chip [0x40000100, 0x40000108] ∧
        fld (t.chip.reg 0x40000108) 0 16 = count ∧ bit (t.chip.reg 0x40000100) 4 = true) ∧
    (∀ (count : Nat) (s : State), s.chip.dom 1 = true → s.chip.bit 0x40000100 0 = true → count < 6161 ∨ 6946 < count →
      s.chip.power.mode ≠ .dark → s.chip.power.mode ≠ .watch → Completes (.belrcWindow count) s fun t =>
        s.sameStores t ∧
        (s.chip.power.belBad = 0 → t.chip.power = { s.chip.power with belBad := 1 } ∧ bit (t.chip.reg 0x40000100) 4 = false ∧
          s.chip.sameRegs t.chip [0x40000100, 0x40000108] ∧
          fld (t.chip.reg 0x40000108) 16 8 = sat 8 (fld (s.chip.reg 0x40000108) 16 8 + 1)) ∧
        (1 ≤ s.chip.power.belBad → t.chip.dark)) ∧
    (∀ s : State, s.chip.dom 1 = true → s.chip.bit 0x40000100 0 = true → s.chip.power.mode = .start ∨ s.chip.power.mode = .run ∨
      s.chip.power.mode = .scan → s.chip.saf ≠ 3 → Completes .xtal25Loss s fun t =>
        s.sameStores t ∧ t.chip.fenced ∧ bit (t.chip.reg 0x40000100) 0 = false ∧ bit (t.chip.reg 0x40000100) 1 = false) ∧
    (∀ s : State, s.chip.bit 0x40000100 1 = true → s.chip.power.mode = .start ∨ s.chip.power.mode = .run ∨
      s.chip.power.mode = .scan → s.chip.saf ≠ 3 → Completes .syspllLockLoss s fun t =>
        s.sameStores t ∧ t.chip.fenced ∧ bit (t.chip.reg 0x40000100) 1 = false) ∧
    (∀ s : State, s.chip.power.supply = true → Completes .xtal32kFail s fun t =>
        s.onlyRegs t [0x40000100] ∧ bit (t.chip.reg 0x40000100) 3 = true ∧ bit (t.chip.reg 0x40000100) 5 = true ∧
        bit (t.chip.reg 0x40000100) 2 = false) ∧
    (∀ s : State, s.chip.power.supply = true → Completes .xtal32kReturn s fun t =>
        s.onlyRegs t [0x40000100] ∧ bit (t.chip.reg 0x40000100) 3 = false ∧ bit (t.chip.reg 0x40000100) 2 = s.chip.dom 1 ∧
        bit (t.chip.reg 0x40000100) 5 = bit (s.chip.reg 0x40000100) 5))

/-- R61, R63, R797. -/
def Obligations.GroupsRetainWakeAndFill : Prop :=
  (∀ (g : Nat) (s : State), g < 8 → s.chip.power.grp.length = 8 → nth s.chip.power.grp g .off = .awake → s.chip.power.grpHold = false →
    s.chip.fld 0x40000024 (2 * g) 2 = 1 → Completes (.grpIdleRetention g) s fun t =>
      s.sameStores t ∧ t.chip.power.grp = s.chip.power.grp.set g .retained ∧ bit (t.chip.reg 0x40000034) (5 + g) = false ∧
      s.chip.sameRegs t.chip [0x40000034] ∧ s.chip.sameMem t.chip) ∧
  (∀ (g : Nat) (x : Access) (s : State), g < 8 → s.chip.power.grp.length = 8 → nth s.chip.power.grp g .off = .retained →
    s.chip.power.grpHold = false → s.chip.fld 0x40000024 (2 * g) 2 = 1 → s.chip.stalled = [x] → x.kind = .read →
    x.addr < 0x800000 → x.addr + x.len ≤ 0x800000 → 0 < x.len → (∀ l ∈ linesOf x.addr x.len, grpOf l = g) → s.chip.ecc = [] →
    Completes (.groupRetentionExit g) s fun t =>
      s.sameStores t ∧ t.chip.power.grp = s.chip.power.grp.set g .awake ∧ t.chip.stalled = [] ∧
      t.chip.bus = ⟨s.chip.peekN x.addr x.len, false⟩ ∧ s.chip.sameMem t.chip) ∧
  (∀ (g : Nat) (s : State), g < 8 → s.chip.power.grp.length = 8 → nth s.chip.power.grp g .off = .filling → s.chip.stalled = [] →
    Completes (.groupZeroFillDone g) s fun t =>
      s.sameStores t ∧ s.chip.sameMem t.chip ∧
      t.chip.power.grp = s.chip.power.grp.set g (if s.chip.fld 0x40000024 (2 * g) 2 = 2 then .retained else .awake))

/-- R797, R63 for PWR_GRP; R59, R358 for PWR_ENG; R64, R221 for PWR_SD; R505, R509 for PWR_LINK. -/
def Obligations.PowerStoresSwitchDomains : Prop :=
  (∀ (port : Nat) (v : Word) (s : State), s.chip.canStore port 0x40000024 → v.toNat < 65536 → s.chip.power.grp.length = 8 →
    Completes (.pwrGrpWrite port v) s fun t =>
      s.sameStores t ∧ (∀ g < 8, fld (t.chip.reg 0x40000024) (2 * g) 2 = fld v (2 * g) 2) ∧ t.chip.power.grpHold = false ∧ t.chip.power.grp.length = 8 ∧
      ∀ g < 8, nth t.chip.power.grp g .off =
        match fld v (2 * g) 2, nth s.chip.power.grp g .off with
        | 3, _ => .off
        | _, .off => .filling
        | _, .filling => .filling
        | 2, _ => .retained
        | _, _ => .awake) ∧
  (∀ (port k e : Nat) (v : Word) (s : State), k < 3 → 16 * k ≤ e → e < 16 * k + 16 → e < 36 → s.chip.canStore port (0x40000018 + 4 * k) →
    s.chip.eng.length = 36 → (s.chip.engine e).run = none →
    Completes (.pwrEngWrite port k v) s fun t =>
      (fld v (2 * (e - 16 * k)) 2 = 2 → (t.chip.engine e).pw = .off ∧ (t.chip.engine e).queue = []) ∧
      (fld v (2 * (e - 16 * k)) 2 = 1 → (s.chip.engine e).pw = .off → (∀ g ∈ s.chip.eng, g.queue = []) → (t.chip.engine e).pw = .powering)) ∧
  (∀ (port : Nat) (v : Word) (s : State), s.chip.canStore port 0x4000002C → Completes (.pwrSdWrite port v) s fun t =>
      s.sameStores t ∧ t.chip.dom 54 = bit v 0 ∧ t.chip.dom 56 = bit v 1 ∧ t.chip.dom 61 = bit v 2) ∧
  (∀ (port p : Nat) (v : Word) (s : State), s.chip.canStore port 0x40000028 → v.toNat < 256 → (∀ q < 4, fld v (2 * q) 2 ≠ 3) → p < 4 →
    s.chip.hl.ports.length = 4 → Completes (.pwrLinkWrite port v) s fun t =>
      s.sameStores t ∧ (∀ q < 4, fld (t.chip.reg 0x40000028) (2 * q) 2 = fld v (2 * q) 2) ∧
      (fld v (2 * p) 2 = 2 → s.chip.fld 0x40000028 (2 * p) 2 ≠ 2 → t.chip.hlState p = 0 ∧ t.chip.dom (49 + p) = false) ∧
      (fld v (2 * p) 2 = 0 → s.chip.fld 0x40000028 (2 * p) 2 = 2 → s.chip.hlState p = 0 →
        t.chip.hlState p = 1 ∧ t.chip.dom (49 + p) = true))

/-- R58. -/
def Obligations.BelfryFieldsIgnoreOtherInitiators : Prop :=
  ∀ (port : Nat) (v : Word) (s : State), (36 ≤ port ∧ port < 40) ∨ port = 47 → s.chip.canStore port 0x4000002C →
    fld v 3 3 ≠ fld (s.chip.reg 0x4000002C) 3 3 → Completes (.pwrSdWrite port v) s fun t =>
      fld (t.chip.reg 0x4000002C) 3 3 = fld (s.chip.reg 0x4000002C) 3 3 ∧ bit (t.chip.reg 0x40000004) 0 = true

/-- R82; field 16n of CLK_ADC is the divider of pair n. -/
def Obligations.RunningPairKeepsItsDivider : Prop :=
  ∀ (port : Nat) (v : Word) (s : State), s.chip.canStore port 0x40000104 →
    (∀ n < 2, (s.chip.seq n).phase ≠ .stopped → fld v (16 * n) 10 ≠ fld (s.chip.reg 0x40000104) (16 * n) 10 →
      Completes (.clkAdcWrite port v) s fun t =>
        fld (t.chip.reg 0x40000104) (16 * n) 10 = fld (s.chip.reg 0x40000104) (16 * n) 10 ∧ bit (t.chip.reg 0x40000004) 0 = true) ∧
    ((s.chip.seq 0).phase = .stopped → (s.chip.seq 1).phase = .stopped → (∀ n < 2, 16 ≤ fld v (16 * n) 10 ∧ fld v (16 * n) 10 ≤ 640) →
      fld v 10 6 = 0 → fld v 26 6 = 0 → Completes (.clkAdcWrite port v) s fun t =>
        s.sameStores t ∧ (∀ n < 2, fld (t.chip.reg 0x40000104) (16 * n) 10 = fld v (16 * n) 10) ∧ s.chip.sameRegs t.chip [0x40000104])

/-- R66, R67, R69; that Belfry never withholds consent while MARKED is R702. -/
def Obligations.ModeRequestsAreJudgedInOrder : Prop :=
  (∀ (port : Nat) (hold : Bool) (s : State), s.chip.canStore port 0x40000000 → s.chip.power.grp.length = 8 →
    Completes (.modeReqWatch port hold) s fun t =>
      s.sameStores t ∧
      let c := s.chip
      let refusal : Option Nat :=
        if c.power.mode ≠ .run ∧ c.power.mode ≠ .scan then some 2 else if c.engineBusy = true then some 0
        else if bit (c.reg 0x40000004) 4 = true then some 1 else if hold = true ∧ c.saf ≠ 2 then some 3 else none
      match refusal with
      | some k => t.chip.power = c.power ∧ bit (t.chip.reg 0x40000004) 1 = true ∧ fld (t.chip.reg 0x40000004) 2 2 = k ∧
          c.sameRegs t.chip [0x40000004] ∧ c.sameMem t.chip
      | none => t.chip.power.mode = .watch ∧ fld (t.chip.reg 0x40000000) 0 3 = 1 ∧ t.chip.pins.enCore = false ∧ t.chip.outputsSafe ∧
          (∀ g < 8, nth t.chip.power.grp g .off =
            if nth c.power.grp g .off = .off then .off else if bit (c.reg 0x40000014) g = true then .retained else .off) ∧
          ∀ a, canon a < 0x800000 → nth t.chip.power.grp (grpOf a) .off = .retained → t.chip.peek a = c.peek a) ∧
  (∀ (port : Nat) (s : State), s.chip.canStore port 0x40000000 → Completes (.modeReqRun port) s fun t =>
      s.sameStores t ∧
      (s.chip.power.mode = .scan → t.chip.power.mode = .run ∧ fld (t.chip.reg 0x40000000) 0 3 = 3 ∧
        bit (t.chip.reg 0x40000004) 4 = false) ∧
      (s.chip.power.mode ≠ .scan → t.chip.power = s.chip.power ∧ bit (t.chip.reg 0x40000004) 1 = true ∧
        fld (t.chip.reg 0x40000004) 2 2 = 2))

/-- R69 to R73, R798 to R800. R77, R79, R80. -/
def Obligations.WakesAndTheChargeReadFollowTheirRules : Prop :=
  (
    (∀ (t0 : Nat) (s : State), s.chip.power.scanAt = some t0 → s.chip.power.mode = .watch → s.chip.power.inReset = false →
      s.chip.bit 0x40000008 1 = true → Completes .scanTimerExpiry s fun t =>
        s.sameStores t ∧ t.chip.power.mode = .scan ∧ t.chip.pins.enCore = true ∧ bit (t.chip.reg 0x4000000C) 1 = true ∧
        t.chip.power.scanAt = if s.chip.fld 0x40000010 0 12 = 0 then none else some (t0 + 32768 * s.chip.fld 0x40000010 0 12)) ∧
    (∀ s : State, s.chip.power.mode = .scan → bit (s.chip.reg 0x40000004) 4 = false → Completes .scanOverrun s fun t =>
        s.sameStores t ∧ t.chip.power.mode = .watch ∧ t.chip.pins.enCore = false ∧ bit (t.chip.reg 0x40000004) 5 = true ∧
        ⟨0, 0x25, 0, s.chip.clocks.rtc⟩ ∈ t.chip.log.buf) ∧
    (∀ s : State, s.chip.power.supply = true → s.chip.power.inReset = false → Completes .wakeInEvent s fun t =>
        s.sameStores t ∧
        (s.chip.power.mode = .dark → t = s) ∧
        (s.chip.power.mode ≠ .dark → bit (t.chip.reg 0x4000000C) 0 = true) ∧
        (s.chip.power.mode ≠ .dark → s.chip.bit 0x40000008 0 = false → s.chip.sameRegs t.chip [0x4000000C] ∧ t.chip.power = s.chip.power) ∧
        (s.chip.power.mode = .watch → s.chip.bit 0x40000008 0 = true →
          t.chip.pins.enCore = true ∧ (s.chip.power.qualWarm = true → t.chip.power.mode = .run ∧ bit (t.chip.reg 0x40000004) 6 = true) ∧
          (s.chip.power.qualWarm = false → t.chip.power.mode = .start)) ∧
        (s.chip.power.mode = .scan → s.chip.power.scanWokeAt ≠ s.chip.clocks.rtc → s.chip.bit 0x40000008 0 = true →
          bit (t.chip.reg 0x40000004) 4 = true ∧ t.chip.power.mode = .scan)) ∧
    (∀ (n level : Nat) (s : State), n < 4 → s.chip.power.lpc.length = 4 → s.chip.power.supply = true → s.chip.power.inReset = false →
      s.chip.power.mode = .run → s.chip.bit (0x40000050 + 4 * n) 0 = true → Completes (.lpcSample n level) s fun t =>
        s.sameStores t ∧
        let beyond := if s.chip.bit (0x40000050 + 4 * n) 5 = true then decide (level < s.chip.fld (0x40000050 + 4 * n) 6 12)
          else decide (s.chip.fld (0x40000050 + 4 * n) 6 12 < level)
        let was := nth s.chip.power.lpc n default
        (nth t.chip.power.lpc n default).beyond = beyond ∧
        (beyond = false → (nth t.chip.power.lpc n default).armed = true) ∧
        (beyond = true → was.beyond = true → was.armed = true →
          bit (t.chip.reg 0x4000000C) (2 + n) = true ∧ (nth t.chip.power.lpc n default).armed = false) ∧
        (beyond = false ∨ was.beyond = false ∨ was.armed = false → s.chip.sameRegs t.chip []))) ∧
  (
    ∀ (port charge : Nat) (s : State), s.chip.canLoad port 0x40000040 → Completes (.qsupLoRead port charge) s fun t =>
      s.sameStores t ∧ t.chip.power = { s.chip.power with qsup := (s.chip.power.qsup + charge) % 2 ^ 48 } ∧
      t.chip.bus = ⟨leBytes 4 t.chip.power.qsup, false⟩ ∧ (t.chip.reg 0x40000044).toNat = t.chip.power.qsup / 2 ^ 32 ∧
      s.chip.sameRegs t.chip [0x40000040, 0x40000044] ∧ s.chip.sameMem t.chip)

/-- R221. -/
def Obligations.PairOffStopsItsSequencer : Prop :=
  ∀ (port n : Nat) (v : Word) (s : State), n < 2 → s.chip.canStore port 0x4000002C → s.chip.sense.seqs.length = 2 →
    s.chip.pairUp n = true → (s.chip.seq n).phase ≠ .stopped → bit v n = false → Completes (.pwrSdWrite port v) s fun t =>
      (t.chip.seq n).phase = .stopped ∧ bit (t.chip.reg (seqReg n 0)) 0 = false ∧ (t.chip.seq n).runs = []

/-- R170, R171, R174, R176, R177, and Table 19-3 code 10. R179 to R186, R682, Table 06-4; channel k is entry k - 1. -/
def Obligations.ReferencesTestDacAndBalancingFollowTheirRules : Prop :=
  (
    (∀ s : State, s.chip.dom 59 = true → bit (s.chip.reg 0x40010000) 2 = true → bit (s.chip.reg 0x40010000) 1 = false →
      Completes .refaSettled s fun t =>
        s.sameStores t ∧ bit (t.chip.reg 0x40010000) 1 = true ∧ bit (t.chip.reg 0x40070040) 10 = false ∧
        (bit (s.chip.reg 0x40070040) 10 = false → s.keeps t [0x40010000] ∧ t.chip.pins = s.chip.pins)) ∧
    (∀ s : State, bit (s.chip.reg 0x40010000) 1 = true → s.chip.saf = 1 → s.chip.power.mode = .run → s.chip.safe.hist = [] →
      s.chip.sense.cal.started = false → Completes .refaFault s fun t =>
        s.sameStores t ∧ s.chip.sameMem t.chip ∧ bit (t.chip.reg 0x40010000) 1 = false ∧ bit (t.chip.reg 0x40010000) 3 = true ∧
        t.chip.saf = 2 ∧ t.chip.pins.faultN = false ∧ bit (t.chip.reg 0x40010008) 0 = false ∧ (∀ b ∈ t.chip.pins.bal, b = false) ∧
        bit (t.chip.reg 0x40070040) 10 = true ∧ ⟨1, 10, 2, s.chip.clocks.rtc⟩ ∈ t.chip.log.buf) ∧
    (∀ s : State, s.chip.dom 60 = true → bit (s.chip.reg 0x40010000) 2 = false → Completes .refbSettled s fun t =>
        s.keeps t [0x40010000] ∧ bit (t.chip.reg 0x40010000) 2 = true ∧ t.chip.pins = s.chip.pins) ∧
    (∀ (port : Nat) (v : Word) (s : State), s.chip.canStore port 0x40010018 → v.toNat < 8192 → s.chip.sense.cal.started = false →
      Completes (.sfeTdacWrite port v) s fun t =>
        (bit (s.chip.reg 0x40010000) 5 = false → s.keeps t [0x40010018] ∧ fld (t.chip.reg 0x40010018) 0 13 = v.toNat ∧
          t.chip.pins.tdac = if bit v 12 && s.chip.dom 59 then some (fld v 0 12) else none) ∧
        (bit (s.chip.reg 0x40010000) 5 = true → fld (s.chip.reg 0x40010018) 0 13 ≠ v.toNat →
          s.keeps t [0x40010000] ∧ bit (t.chip.reg 0x40010000) 0 = true)) ∧
    (∀ s : State, s.chip.dom 1 = true → s.chip.sense.cal.started = false → Completes .tdacHold s fun t =>
        s.keeps t [0x40010000] ∧ bit (t.chip.reg 0x40010000) 5 = true ∧ t.chip.pins = { s.chip.pins with tdac := none }) ∧
    (∀ s : State, bit (s.chip.reg 0x40010000) 5 = true → s.chip.sense.cal.started = false → Completes .tdacRelease s fun t =>
        s.keeps t [0x40010000, 0x40010100] ∧ bit (t.chip.reg 0x40010000) 5 = false ∧
        t.chip.pins = { s.chip.pins with
          tdac := if s.chip.bit 0x40010018 12 && s.chip.dom 59 then some (s.chip.fld 0x40010018 0 12) else none })) ∧
  (
    (∀ s : State, s.chip.dom 53 = true → (s.chip.engine 16).run = none → (s.chip.engine 17).run = none → s.chip.sense.seqs.length = 2 →
      Completes .balPeriodStart s fun t =>
        s.keeps t [] ∧ t.chip.sense.bal.period = s.chip.fld 0x4001000C 0 15 ∧ t.chip.sense.bal.stagger = s.chip.bit 0x40010004 1 ∧
        (∀ i < 20, s.chip.balMode (i + 1) = 0 →
          let d := s.chip.fld (0x40010040 + 4 * i) 0 12
          let on := decide (1 ≤ d * s.chip.fld 0x4001000C 0 15 / 4096) && !(s.chip.bit 0x40010004 1 && decide (i % 2 = 1))
          nth t.chip.sense.bal.duty i 0 = d ∧ nth t.chip.sense.bal.on i false = on ∧
            (s.chip.bit 0x40010004 2 = false → nth t.chip.pins.bal i false = (on && s.chip.balAllowed (i + 1)))) ∧
        ∀ n < 2, 0 ∈ (t.chip.seq n).pwm ∧ (s.chip.bit (seqReg n 8) 20 = true → 20 ∈ (t.chip.seq n).raised)) ∧
    (∀ s : State, s.chip.dom 53 = true → s.chip.sense.seqs.length = 2 → Completes .balHalfPeriod s fun t =>
        s.keeps t [] ∧
        (∀ i < 20, nth t.chip.sense.bal.on i false = (nth s.chip.sense.bal.on i false || (s.chip.sense.bal.stagger && decide (i % 2 = 1) &&
          decide (1 ≤ nth s.chip.sense.bal.duty i 0 * s.chip.sense.bal.period / 4096)))) ∧
        ∀ n < 2, 1 ∈ (t.chip.seq n).pwm ∧ (s.chip.bit (seqReg n 8) 21 = true → 21 ∈ (t.chip.seq n).raised)) ∧
    (∀ (k : Nat) (s : State), 1 ≤ k → k ≤ 20 → s.chip.sense.bal.on.length = 20 → Completes (.balChannelOff k) s fun t =>
        s.keeps t [] ∧ nth t.chip.pins.bal (k - 1) false = false ∧
        ∀ i < 20, nth t.chip.sense.bal.on i false = (nth s.chip.sense.bal.on i false && decide (i ≠ k - 1))) ∧
    (∀ s : State, Completes .balConditionLoss s fun t =>
        s.keeps t [0x40010000] ∧ ∀ i < 20, s.chip.balAllowed (i + 1) = false → nth t.chip.pins.bal i false = false) ∧
    (∀ (port k : Nat) (v : Word) (s : State), 1 ≤ k → k ≤ 20 → s.chip.canStore port (0x40010040 + 4 * (k - 1)) → v.toNat < 4096 →
      Completes (.balDutyWrite port k v) s fun t =>
        s.keeps t [0x40010040 + 4 * (k - 1), 0x40010000] ∧ fld (t.chip.reg (0x40010040 + 4 * (k - 1))) 0 12 = v.toNat ∧
        t.chip.pins = s.chip.pins ∧ t.chip.sense = s.chip.sense ∧
        (k ≤ s.chip.fld 0x40010004 8 5 ∨ v.toNat = 0 → s.keeps t [0x40010040 + 4 * (k - 1)]) ∧
        (s.chip.fld 0x40010004 8 5 < k → v.toNat ≠ 0 → bit (t.chip.reg 0x40010000) 0 = true)) ∧
    (∀ s : State, Completes .consentChange s fun t =>
        s.keeps t [0x40010008, 0x40010000] ∧ bit (t.chip.reg 0x40010008) 0 = s.chip.consentOk ∧
        (s.chip.consentOk = false → bit (s.chip.reg 0x40010008) 0 = true → ∀ b ∈ t.chip.pins.bal, b = false)))

/-- R187 to R194, R223, R260, R686 to R688. -/
def Obligations.DieToDieFramesCarryTheirWords : Prop :=
  (∀ s : State, s.chip.dom 53 = true → s.chip.sense.turn < 2 → s.chip.sense.seqs.length = 2 → Completes .d2dFrameSend s fun t =>
      s.keeps t [] ∧ t.chip.sense.main.tx = s.chip.sense.main.tx + 1 ∧
      ∃ f n, t.chip.sense.main.wire = s.chip.sense.main.wire ++ [f] ∧ n < 2 ∧ mainFrameOk f = true ∧
        leAt f 0 2 = s.chip.sense.main.tx % 65536 ∧ leAt f 3 1 ≤ 13 ∧
        (List.range (leAt f 3 1)).map (fun i => leAt f (8 + 4 * i) 4) = ((s.chip.seq n).stage.take (leAt f 3 1)).map (·.word.toNat) ∧
        (t.chip.seq n).stage = (s.chip.seq n).stage.drop (leAt f 3 1) ∧ t.chip.seq (1 - n) = s.chip.seq (1 - n) ∧
        (leAt f 3 1 = 0 → (s.chip.seq 0).stage = [] ∧ (s.chip.seq 1).stage = [])) ∧
  (∀ s : State, s.chip.dom 1 = true → Completes .checkFrameSend s fun t =>
      s.keeps t [] ∧ t.chip.sense.check.tx = s.chip.sense.check.tx + 1 ∧ t.chip.sense.chk.out = s.chip.sense.chk.out.drop 2 ∧
      ∃ f, t.chip.sense.check.wire = s.chip.sense.check.wire ++ [f] ∧ f.length = 16 ∧ crc16From 0xFFFF (f.take 14) = leAt f 14 2 ∧
        leAt f 0 2 = s.chip.sense.check.tx % 65536 ∧ leAt f 2 1 = min 2 s.chip.sense.chk.out.length ∧
        (List.range (leAt f 2 1)).map (fun i => leAt f (4 + 4 * i) 4) = (s.chip.sense.chk.out.take 2).map (·.1.toNat)) ∧
  (∀ (wire : Option (List Byte)) (sent : List Byte) (rest : List (List Byte)) (s : State), s.chip.sense.main.wire = sent :: rest →
    Completes (.d2dFrameReceive wire) s fun t =>
      let f := wire.getD sent
      s.sameStores t ∧
      (f = [] → t.chip = { s.chip with sense := { s.chip.sense with main := { s.chip.sense.main with wire := rest } } }) ∧
      (f ≠ [] → mainFrameOk f = false → s.chip.sense.main.drops = [] →
        s.keeps t [0x4001001C] ∧ t.chip.sense.main.wire = rest ∧ t.chip.sense.bridge = s.chip.sense.bridge ∧
        fld (t.chip.reg 0x4001001C) 0 16 = sat 16 (fld (s.chip.reg 0x4001001C) 0 16 + 1)) ∧
      (mainFrameOk f = true →
        s.keeps t [0x4001001C, 0x40010000, 0x40070044] ∧ t.chip.sense.main.wire = rest ∧ t.chip.sense.main.lastCnt = some (leAt f 0 2) ∧
        bit (t.chip.reg 0x40010000) 6 = true ∧
        t.chip.sense.bridge = s.chip.sense.bridge ++
          (List.range (leAt f 3 1)).map (fun i => (leAt f 2 1 / 16, BitVec.ofNat 32 (leAt f (8 + 4 * i) 4))) ∧
        (∀ p < 65536, s.chip.sense.main.lastCnt = some p → p ≠ leAt f 0 2 → fld (t.chip.reg 0x4001001C) 16 16 =
          sat 16 (fld (s.chip.reg 0x4001001C) 16 16 + (leAt f 0 2 + 65536 - p - 1) % 65536)))) ∧
  (∀ (wire : Option (List Byte)) (sent : List Byte) (rest : List (List Byte)) (s : State), s.chip.sense.check.wire = sent :: rest →
    s.chip.dom 1 = true → (wire.getD sent).length = 16 → Completes (.checkFrameReceive wire) s fun t =>
      let f := wire.getD sent
      s.keeps t [0x40010020, 0x40070044] ∧ t.chip.sense.check.wire = rest ∧
      (crc16From 0xFFFF (f.take 14) ≠ leAt f 14 2 → fld (t.chip.reg 0x40010020) 0 16 = sat 16 (fld (s.chip.reg 0x40010020) 0 16 + 1) ∧
        t.chip.sense.check.lastCnt = s.chip.sense.check.lastCnt) ∧
      (crc16From 0xFFFF (f.take 14) = leAt f 14 2 → t.chip.sense.check.lastCnt = some (leAt f 0 2) ∧
        t.chip.sense.check.accepted = s.chip.sense.check.accepted + 1)) ∧
  (∀ s : State, s.chip.dom 1 = true → 3 ≤ s.chip.sense.main.accepted → s.chip.sense.main.frozen = false → s.chip.linkSilent 0 = true →
    s.chip.saf = 1 → s.chip.power.mode = .run → s.chip.safe.hist = [] → Completes (.d2dFrozen 0) s fun t =>
      s.sameStores t ∧ s.chip.sameMem t.chip ∧ t.chip.sense.main.frozen = true ∧ bit (t.chip.reg 0x40070044) 0 = true ∧
      bit (t.chip.reg 0x40010000) 6 = false ∧ t.chip.saf = 2 ∧ t.chip.pins.faultN = false ∧ bit (t.chip.reg 0x40070040) 8 = true) ∧
  (∀ s : State, s.chip.dom 1 = true → 3 ≤ s.chip.sense.check.accepted → s.chip.sense.check.frozen = false → s.chip.linkSilent 1 = true →
    s.chip.power.mode = .run → s.chip.saf ≠ 3 → Completes (.d2dFrozen 1) s fun t =>
      s.sameStores t ∧ t.chip.fenced ∧ bit (t.chip.reg 0x40070040) 7 = true) ∧
  (∀ (k : Nat) (s : State), k < 2 → (s.chip.link k).frozen = true → 3 ≤ (s.chip.link k).consec → (s.chip.link k).codeChan = none →
    Completes (.d2dUnfrozen k) s fun t =>
      s.keeps t [0x40070044] ∧ (t.chip.link k).frozen = false ∧ bit (t.chip.reg 0x40070044) k = false ∧ t.chip.power = s.chip.power)

/-- R98, R209 to R211, R235, R236. -/
def Obligations.BeadsAreCommittedWholeOrRefused : Prop :=
  (∀ (port n bank i : Nat) (v : Word) (s : State), n < 2 → bank < 3 → i < (if bank = 2 then 16 else 128) →
    s.chip.canStore port (beadAddr n bank i + 4) → Completes (.beadCommit port n bank i v) s fun t =>
      let a := beadAddr n bank i
      let lo := (Sparse.find a (s.chip.seq n).beadLow).getD (s.chip.reg a)
      let w := lo.toNat + 2 ^ 32 * v.toNat
      let early : Prop := 36 ≤ port ∧ port < 40 ∧ s.chip.phaseCPassed = false
      let used : Prop := (s.chip.bit (seqReg n 0) 0 = true ∨ (s.chip.seq n).phase ≠ .stopped) ∧ (bank = 2 ∨ bank = s.chip.abank n)
      (early ∨ used → s.keeps t [0x40010200] ∧ bit (t.chip.reg 0x40010200) 0 = true) ∧
      (¬ early → ¬ used → badBead w = true → s.keeps t [0x40010200] ∧
        bit (t.chip.reg 0x40010200) 0 = true ∧ bit (t.chip.reg 0x40010200) 1 = true) ∧
      (¬ early → ¬ used → badBead w = false → s.keeps t [a, a + 4] ∧ t.chip.beadAt n bank i = w)) ∧
  (∀ (i : Nat) (lo hi : Word) (s : State), i < 32 → s.chip.dom 1 = true → Completes (.checkBeadStore i lo hi) s fun t =>
      let w := lo.toNat + 2 ^ 32 * hi.toNat
      (bit (s.chip.reg 0x22000100) 0 = false → badBead w = false → forMuxc (nfld w 0 6) = true →
        s.keeps t [0x22000000 + 8 * i, 0x22000004 + 8 * i] ∧ t.chip.chkBead i = w) ∧
      (bit (s.chip.reg 0x22000100) 0 = true ∨ badBead w = true ∨ forMuxc (nfld w 0 6) = false →
        s.keeps t [0x40070000] ∧ bit (t.chip.reg 0x40070000) 9 = true))

/-- R218 to R222. R214, R215, R218, R226. -/
def Obligations.SequencersStartStopAndTakeEvents : Prop :=
  (
    ∀ (port n : Nat) (v : Word) (s : State), n < 2 → s.chip.canStore port (seqReg n 0) → s.chip.phaseCPassed = true →
      s.chip.sense.seqs.length = 2 → v &&& 0xFFFFFFF2 = 0 →
      (s.chip.bit (seqReg n 0) 0 = false → (s.chip.seq n).phase = .stopped → (s.chip.seq n).stopping = false →
        Completes (.seqRunStart port n v) s fun t =>
          t.chip.seq (1 - n) = s.chip.seq (1 - n) ∧
          (s.chip.pairUp n = false → s.keeps t [0x40010200] ∧ bit (t.chip.reg 0x40010200) 0 = true ∧
            t.chip.seq n = s.chip.seq n) ∧
          (s.chip.pairUp n = true → s.keeps t [seqReg n 0, seqReg n 4] ∧ bit (t.chip.reg (seqReg n 0)) 0 = true ∧
            (t.chip.seq n).phase = .wait ∧ (t.chip.seq n).bead = 0 ∧
            (t.chip.seq n).due = if nfld (s.chip.beadAt n (s.chip.abank n) 0) 52 2 = 0 then
              some (s.chip.now640 + 2 * s.chip.pairDiv n) else none)) ∧
      (s.chip.bit (seqReg n 0) 0 = true → Completes (.seqRunStop port n v) s fun t =>
          s.keeps t [seqReg n 0, seqReg n 4] ∧ bit (t.chip.reg (seqReg n 0)) 0 = false ∧ t.chip.seq (1 - n) = s.chip.seq (1 - n) ∧
          ((s.chip.seq n).phase = .settle ∨ (s.chip.seq n).phase = .convert →
            t.chip.seq n = { s.chip.seq n with stopping := true }) ∧
          ((s.chip.seq n).phase = .wait → (t.chip.seq n).phase = .stopped ∧ (t.chip.seq n).queue = [])) ∧
      (bit v 0 = s.chip.bit (seqReg n 0) 0 → Completes (.seqSwap port n v) s fun t =>
          s.keeps t [seqReg n 0] ∧ t.chip.sense = s.chip.sense ∧
          (s.chip.bit (seqReg n 0) 0 = true → bit (t.chip.reg (seqReg n 0)) 3 = true ∧ t.chip.abank n = s.chip.abank n) ∧
          (s.chip.bit (seqReg n 0) 0 = false → (s.chip.seq n).phase = .stopped → t.chip.abank n = 1 - s.chip.abank n)) ∧
      (bit v 0 = s.chip.bit (seqReg n 0) 0 → Completes (.seqClrcnt port n v) s fun t =>
          s.keeps t [seqReg n 0x24, seqReg n 0x28, seqReg n 0x2C] ∧ t.chip.sense = s.chip.sense ∧
          t.chip.reg (seqReg n 0x24) = 0 ∧ t.chip.reg (seqReg n 0x28) = 0 ∧ t.chip.reg (seqReg n 0x2C) = 0)) ∧
  (
    (∀ (k : Nat) (s : State), k < 4 → s.chip.dom 53 = true → s.chip.bit 0x40010204 k = true → s.chip.sense.seqs.length = 2 →
      Completes (.seqTimerTick k) s fun t =>
        s.keeps t [seqReg 0 0x28, seqReg 1 0x28] ∧ ∀ n < 2,
          let q := s.chip.seq n
          let w := s.chip.beadAt n (s.chip.abank n) q.strandBead
          let mine : Prop := nfld w 52 2 = 1 ∧ nfld w 54 2 = k
          (s.chip.bit (seqReg n 8) (16 + k) = true → (t.chip.seq n).raised = q.raised ++ [16 + k]) ∧
          (mine → s.chip.bit (seqReg n 0) 0 = true → q.inPend = false → q.calHold = false → q.phase = .wait → q.due = none →
            (t.chip.seq n).due = some (s.chip.now640 + 2 * s.chip.pairDiv n)) ∧
          (mine → s.chip.bit (seqReg n 0) 0 = true → q.inPend = true → (t.chip.seq n).due = q.due ∧
            fld (t.chip.reg (seqReg n 0x28)) 0 16 = sat 16 (fld (s.chip.reg (seqReg n 0x28)) 0 16 + 1))) ∧
    (∀ (rising : Bool) (s : State), s.chip.dom 53 = true → s.chip.sense.seqs.length = 2 → Completes (.pwmsyncEdge rising) s fun t =>
        s.keeps t [] ∧ ∀ n < 2, (if rising then 2 else 3) ∈ (t.chip.seq n).pwm ∧
          (t.chip.seq n).raised = (s.chip.seq n).raised ++
            (if s.chip.bit (seqReg n 8) (if rising then 22 else 23) then [if rising then 22 else 23] else [])) ∧
    (∀ (n src : Nat) (s : State), n < 2 → s.chip.sense.seqs.length = 2 → src ∈ (s.chip.seq n).pwm →
      Completes (.pwmStartEvent n src) s fun t =>
        s.keeps t [seqReg n 0x28] ∧ src ∉ (t.chip.seq n).pwm ∧
        let q := s.chip.seq n
        let w := s.chip.beadAt n (s.chip.abank n) q.strandBead
        (nfld w 52 2 = 2 → nfld w 54 2 = src → s.chip.bit (seqReg n 0) 0 = true → q.inPend = false → q.calHold = false →
          q.phase = .wait → q.due = none →
          (t.chip.seq n).due = some (s.chip.now640 + (2 + s.chip.fld (seqReg n 0x1C) 0 16) * s.chip.pairDiv n))))

/-- R205 to R207, R212, R213, R216, R220, R222, R224, R233, R240. -/
def Obligations.BeadRunsConvertAndAdvance : Prop :=
  (∀ (n : Nat) (s : State), n < 2 → s.chip.pairUp n = true → s.chip.dom 53 = true → s.chip.sense.seqs.length = 2 →
    (s.chip.seq n).phase = .settle → Completes (.settleEnd n) s fun t =>
      let q := s.chip.seq n
      let w := s.chip.curBead n
      s.keeps t [seqReg n 4, seqReg n 0x2C] ∧ (t.chip.seq n).phase = .convert ∧ (t.chip.seq n).bead = q.bead ∧
      (t.chip.seq n).runs = q.runs ++ [⟨w, q.bead, q.inPend, q.start, s.chip.pairDiv n, q.nextId, nfld w 6 12 + 1, 0, false⟩] ∧
      (nbit w 50 = false → (t.chip.seq n).evt = q.evt) ∧
      (nbit w 50 = true → q.evt.length < 16 → (t.chip.seq n).evt.length = q.evt.length + 1)) ∧
  (∀ (n : Nat) (raw : Int) (r : BeadRun) (rest : List BeadRun) (s : State), n < 2 → s.chip.pairUp n = true → s.chip.dom 53 = true →
    s.chip.sense.seqs.length = 2 → (s.chip.seq n).runs = r :: rest → Completes (.sampleWordOut n raw) s fun t =>
      let q := s.chip.seq n
      let adc := 2 * n + (if nbit r.word 47 && decide (r.out % 2 = 1) then 1 else 0)
      let v := s.chip.correct adc (nbit r.word 47 && decide (r.out % 2 = 1)) raw
        (if usesPga r.word then s.chip.zoff n (nfld r.word 48 2) else 0)
      s.sameStores t ∧ s.chip.sameMem t.chip ∧
      (t.chip.seq n).runs = (if r.total ≤ r.out + 1 then rest else { r with out := r.out + 1 } :: rest) ∧
      (q.stage.length < 1024 → ∃ e, (t.chip.seq n).stage = q.stage ++ [e] ∧ e.ring = nfld r.word 43 4 ∧ e.run = r.id ∧
        fld e.word 16 6 = nfld r.word 0 6 ∧ fld e.word 22 7 = r.idx % 128 ∧
        (-8192 ≤ raw → raw ≤ 8191 → fld e.word 0 14 = tc 14 (clampI (-8192) 8191 v)) ∧
        (8191 < raw → fld e.word 0 14 = 8191) ∧ (raw < -8192 → fld e.word 0 14 = 8192) ∧
        (bit e.word 14 = true ↔ raw < -8192 ∨ 8191 < raw ∨ v < -8192 ∨ 8191 < v)) ∧
      (1024 ≤ q.stage.length → (t.chip.seq n).stage = q.stage ∧
        fld (t.chip.reg (seqReg n 0x28)) 16 16 = sat 16 (fld (s.chip.reg (seqReg n 0x28)) 16 16 + 1))) ∧
  (∀ (n : Nat) (atLaunch : Bool) (s : State), n < 2 → s.chip.sense.seqs.length = 2 → (s.chip.seq n).phase = .convert →
    Completes (.beadRunEnd n atLaunch) s fun t =>
      let q := s.chip.seq n
      let last := nbit (s.chip.curBead n) 51
      let next := if last = true ∨ 127 ≤ q.bead then 0 else q.bead + 1
      s.keeps t [seqReg n 0, seqReg n 4] ∧
      (q.stopping = true → (t.chip.seq n).phase = .stopped ∧ bit (t.chip.reg (seqReg n 0)) 0 = false) ∧
      (q.stopping = false → q.inPend = true → last = true ∨ 15 ≤ q.bead → (t.chip.seq n).phase = .wait ∧ (t.chip.seq n).inPend = true) ∧
      (q.stopping = false → q.inPend = true → last = false → q.bead < 15 →
        (t.chip.seq n).phase = .settle ∧ (t.chip.seq n).bead = q.bead + 1 ∧ (t.chip.seq n).start = s.chip.now640) ∧
      (q.stopping = false → q.inPend = false → (t.chip.seq n).bead = next ∧
        (next ≠ 0 ∨ bit (s.chip.reg (seqReg n 0)) 3 = false → t.chip.abank n = s.chip.abank n ∧
          (atLaunch = false → (t.chip.seq n).phase = if nfld (s.chip.beadAt n (s.chip.abank n) next) 52 2 = 0 then .settle else .wait)) ∧
        (next = 0 → bit (s.chip.reg (seqReg n 0)) 3 = true →
          t.chip.abank n = 1 - s.chip.abank n ∧ bit (t.chip.reg (seqReg n 0)) 3 = false)))

/-- R220, R226 to R233. -/
def Obligations.PendantsQueueLaunchAndEnd : Prop :=
  (∀ (port n : Nat) (v : Word) (s : State), n < 2 → s.chip.canStore port (seqReg n 0x20) → s.chip.sense.seqs.length = 2 → v = 1 →
    (36 ≤ port ∧ port < 40 → s.chip.phaseCPassed = true) → Completes (.seqSwtrig port n v) s fun t =>
      s.keeps t [] ∧ (t.chip.seq n).raised = (s.chip.seq n).raised ++ (if s.chip.bit (seqReg n 8) 24 then [24] else [])) ∧
  (∀ (n k : Nat) (s : State), n < 2 → s.chip.sense.seqs.length = 2 → k ∈ (s.chip.seq n).raised →
    Completes (.pendantTrigger n k) s fun t =>
      let q := s.chip.seq n
      let runs : Prop := s.chip.bit (seqReg n 0) 0 = true ∧ q.phase ≠ .stopped
      let cal := bit (s.chip.reg 0x40010100) 1
      let busy : Prop := q.inPend = true ∨ q.launching ≠ none ∨ cal = true ∨ q.queue ≠ []
      s.keeps t [seqReg n 4, seqReg n 0x24, seqReg n 0x2C, 0x40010200] ∧ (t.chip.seq n).raised = q.raised.erase k ∧
      (¬ runs → (t.chip.seq n).queue = q.queue ∧ (t.chip.seq n).launching = q.launching) ∧
      (runs → ¬ busy → (t.chip.seq n).launching = some k) ∧
      (runs → busy → q.queue.length < 4 → (t.chip.seq n).queue = q.queue ++ [⟨k, cal, s.chip.now640⟩]) ∧
      (runs → busy → 4 ≤ q.queue.length → (t.chip.seq n).queue = q.queue ∧ bit (t.chip.reg 0x40010200) 2 = true ∧
        fld (t.chip.reg (seqReg n 0x24)) 16 16 = sat 16 (fld (s.chip.reg (seqReg n 0x24)) 16 16 + 1))) ∧
  (∀ (n k : Nat) (s : State), n < 2 → s.chip.sense.seqs.length = 2 → (s.chip.seq n).launching = some k →
    s.chip.bit (seqReg n 0) 0 = true → (s.chip.seq n).evt.length < 15 → Completes (.pendantLaunch n) s fun t =>
      s.sameStores t ∧ s.chip.sameMem t.chip ∧ (t.chip.seq n).phase = .settle ∧ (t.chip.seq n).inPend = true ∧
      (t.chip.seq n).launching = none ∧ (t.chip.seq n).bead = s.chip.pentry n k ∧ (t.chip.seq n).start = s.chip.now640 ∧
      ∃ old e, (t.chip.seq n).evt = old ++ [e] ∧ nfld e 32 7 = k % 128 ∧ nfld e 40 2 = 1 ∧ nbit e 47 = true) ∧
  (∀ (n : Nat) (s : State), n < 2 → s.chip.sense.seqs.length = 2 → (s.chip.seq n).phase = .wait → (s.chip.seq n).inPend = true →
    bit (s.chip.reg 0x40010100) 1 = false → Completes (.pendantEnd n) s fun t =>
      s.keeps t [seqReg n 4, seqReg n 0x2C] ∧
      (∀ x r, (s.chip.seq n).queue = x :: r → (t.chip.seq n).queue = r ∧ (t.chip.seq n).inPend = true ∧ (t.chip.seq n).phase = .settle ∧
        (t.chip.seq n).bead = s.chip.pentry n x.trig) ∧
      (∀ b, (s.chip.seq n).queue = [] → (s.chip.seq n).resume = .restart b → (t.chip.seq n).inPend = false ∧
        (t.chip.seq n).phase = .settle ∧ (t.chip.seq n).bead = b ∧ (t.chip.seq n).resume = .none))

/-- R234. -/
def Obligations.EventReadRemovesAndLatches : Prop :=
  ∀ (port n : Nat) (s : State), n < 2 → s.chip.sense.seqs.length = 2 → s.chip.canLoad port (seqReg n 0x30) →
    Completes (.evtLoRead port n) s fun t =>
      s.keeps t [seqReg n 0x34] ∧ t.chip.seq (1 - n) = s.chip.seq (1 - n) ∧
      (∀ e r, (s.chip.seq n).evt = e :: r → t.chip.seq n = { s.chip.seq n with evt := r } ∧
        t.chip.bus = ⟨leBytes 4 (e % 2 ^ 32), false⟩ ∧ (t.chip.reg (seqReg n 0x34)).toNat = e / 2 ^ 32 % 2 ^ 32) ∧
      ((s.chip.seq n).evt = [] → t.chip.seq n = s.chip.seq n ∧ t.chip.bus = ⟨[0, 0, 0, 0], false⟩ ∧
        t.chip.reg (seqReg n 0x34) = 0 ∧ bit (t.chip.reg (seqReg n 0x34)) 15 = false)

/-- R238 to R254; the phase codes of ADC_CALSTAT are Table 06-8's. R203, R212, R216, R235, R237. -/
def Obligations.CalibrationAndCheckListRun : Prop :=
  (
    (∀ (port : Nat) (v : Word) (s : State), s.chip.canStore port 0x40010104 → Completes (.calCommand port v) s fun t =>
        let refused : Prop := bit (s.chip.reg 0x40010100) 1 = true ∨ s.chip.phaseCPassed = false ∨ fld v 0 5 = 0
        (refused → s.keeps t [0x40010100] ∧ bit (t.chip.reg 0x40010100) 0 = true ∧ t.chip.sense = s.chip.sense) ∧
        (¬ refused → s.keeps t [0x40010100, 0x4001010C] ∧ bit (t.chip.reg 0x40010100) 1 = true ∧ t.chip.reg 0x4001010C = 0 ∧
          (∀ p, p ∈ t.chip.sense.cal.req ↔ p < 5 ∧ bit v p = true) ∧ t.chip.sense.cal.started = false ∧
          t.chip.sense.cal.zint = bit v 5)) ∧
    (∀ (p : Nat) (r : List Nat) (s : State), s.chip.sense.cal.req = p :: r → (∀ x ∈ p :: r, x < 5) → (p :: r).Nodup →
      s.chip.sense.cal.started = false → s.chip.sense.seqs.length = 2 → (s.chip.seq 0).inPend = false → (s.chip.seq 1).inPend = false →
      Completes .calStart s fun t =>
        s.sameStores t ∧ s.chip.sameMem t.chip ∧
        (bit (s.chip.reg 0x40010000) 1 = true → t.chip.sense.cal.started = true ∧
          (∀ n < 2, (s.chip.seq n).phase ≠ .stopped → (t.chip.seq n).calHold = true ∧ (t.chip.seq n).phase = .wait) ∧
          (s.chip.calPowered p = true → fld (t.chip.reg 0x4001010C) (4 * p) 4 = 1) ∧
          (s.chip.calPowered p = false → fld (t.chip.reg 0x4001010C) (4 * p) 4 = 5)) ∧
        (bit (s.chip.reg 0x40010000) 1 = false → t.chip.sense.cal = ⟨[], false, false⟩ ∧ bit (t.chip.reg 0x40010100) 1 = false ∧
          bit (t.chip.reg 0x40010100) 2 = true ∧ ∀ x ∈ p :: r, fld (t.chip.reg 0x4001010C) (4 * x) 4 = 3)) ∧
    (∀ (m : List (List Int)) (s : State), s.chip.calAt 0 = true → Completes (.calConv m) s fun t =>
        let ok := (List.range 4).all fun n => fits16 (nth (nth m n []) 0 0) && fits16 (nth (nth m n []) 1 0)
        s.sameStores t ∧ s.chip.sameMem t.chip ∧ 0 ∉ t.chip.sense.cal.req ∧
        fld (t.chip.reg 0x4001010C) 0 4 = (if ok = true then 2 else 6) ∧
        (ok = true → fld (t.chip.reg 0x40010110) 0 4 = 15 ∧ ∀ n < 4,
          t.chip.reg (0x40010140 + 0x20 * n) =
            BitVec.ofNat 32 (tc 16 (nth (nth m n []) 0 0) + 65536 * tc 16 (nth (nth m n []) 1 0)) ∧
          ∀ i < 5, t.chip.reg (0x4001014C + 0x20 * n + 4 * i) = BitVec.ofInt 32 (nth (nth m n []) (2 + i) 0)) ∧
        (ok = false → s.chip.sameRegs t.chip [0x40010100, 0x4001010C])) ∧
    (∀ (n : Nat) (m : List Int) (s : State), n < 2 → s.chip.calAt (1 + n) = true → bit (s.chip.reg 0x40010100) 3 = false →
      Completes (if n = 0 then .calIlv01 m else .calIlv23 m) s fun t =>
        let a := 0x40010160 + 0x40 * n
        let ok := fits16 (nth m 0 0) && fits16 (nth m 1 0) && fits16 (nth m 2 0)
        s.sameStores t ∧ s.chip.sameMem t.chip ∧ fld (t.chip.reg 0x4001010C) (4 * (1 + n)) 4 = (if ok = true then 2 else 6) ∧
        (ok = true → t.chip.reg (a + 4) = BitVec.ofNat 32 (tc 16 (nth m 0 0) + 65536 * tc 16 (nth m 1 0)) ∧
          fld (t.chip.reg (a + 8)) 0 16 = tc 16 (nth m 2 0) ∧ bit (t.chip.reg 0x40010110) (4 + n) = true) ∧
        (ok = false → s.chip.sameRegs t.chip [0x40010100, 0x4001010C])) ∧
    (∀ (n : Nat) (codes : List (List Int)) (s : State), n < 2 → s.chip.calAt (3 + n) = true →
      Completes (if n = 0 then .calZeroA codes else .calZeroB codes) s fun t =>
        let z := fun g => s.chip.zeroSamples n (nth codes g [])
        let off := fun g => tc 16 (zeroMean (z g).1)
        let bad : Prop := ∃ g < 4, zeroBreach (s.chip.fld 0x40010108 0 6) g (z g).1 (z g).2 = true
        s.sameStores t ∧ s.chip.sameMem t.chip ∧
        (bad → s.chip.sameRegs t.chip [0x40010100, 0x4001010C] ∧
          fld (t.chip.reg 0x4001010C) (4 * (3 + n)) 4 = if s.chip.sense.cal.zint then 6 else 4) ∧
        (¬ bad → fld (t.chip.reg 0x4001010C) (4 * (3 + n)) 4 = 2 ∧ bit (t.chip.reg 0x40010110) (6 + n) = true ∧
          t.chip.reg (0x40010120 + 8 * n) = BitVec.ofNat 32 (off 0 + 65536 * off 1) ∧
          t.chip.reg (0x40010124 + 8 * n) = BitVec.ofNat 32 (off 2 + 65536 * off 3))) ∧
    (∀ s : State, s.chip.sense.cal.started = true → s.chip.sense.cal.req = [] → s.chip.sense.seqs.length = 2 →
      Completes .calEnd s fun t =>
        t.pending = s.pending ∧ t.otpA = s.otpA ∧ t.otpB = s.otpB ∧ t.chip.sense.cal = ⟨[], false, false⟩ ∧
        bit (t.chip.reg 0x40010100) 1 = false ∧ bit (t.chip.reg 0x40010100) 2 = true ∧ (∀ n < 2, (t.chip.seq n).calHold = false) ∧
        (s.chip.fwRuns = false → t.nvm = s.nvm)) ∧
    (∀ (m : List Int) (s : State), s.chip.dom 1 = true → s.chip.dom 58 = true → bit (s.chip.reg 0x40010000) 2 = true →
      fits16 (nth m 0 0) = true → fits16 (nth m 1 0) = true → Completes (.adc4Cal m) s fun t =>
        s.keeps t [0x400101E0, 0x400101EC, 0x400101F0, 0x400101F4, 0x400101F8, 0x400101FC, 0x40010110] ∧
        t.chip.reg 0x400101E0 = BitVec.ofNat 32 (tc 16 (nth m 0 0) + 65536 * tc 16 (nth m 1 0)) ∧
        (∀ i < 5, t.chip.reg (0x400101EC + 4 * i) = BitVec.ofInt 32 (nth m (2 + i) 0)) ∧ bit (t.chip.reg 0x40010110) 8 = true)) ∧
  (
    (∀ s : State, s.chip.dom 1 = true → bit (s.chip.reg 0x22000100) 0 = false → Completes .checkListRun s fun t =>
        s.keeps t [0x22000100] ∧ bit (t.chip.reg 0x22000100) 0 = true ∧ t.chip.sense.chk.bead = 0 ∧ t.chip.sense.chk.conv = 0 ∧
        t.chip.sense.chk.out = s.chip.sense.chk.out) ∧
    (∀ (raw : Int) (s : State), s.chip.dom 58 = true → bit (s.chip.reg 0x22000100) 0 = true → Completes (.adc4WordOut raw) s fun t =>
        let k := s.chip.sense.chk
        let w := s.chip.chkBead k.bead
        s.keeps t [] ∧
        (∃ e, t.chip.sense.chk.out = k.out ++ [(e, k.clk)] ∧ fld e 16 6 = nfld w 0 6 ∧ fld e 22 7 = k.bead % 128 ∧
          (-2048 ≤ raw → raw ≤ 2047 → fld e 2 12 = tc 12 (clampI (-2048) 2047
            (shrEven ((16 * raw - s.chip.sfld 0x400101E0 0) * (2 ^ 20 + s.chip.sfld 0x400101E0 16)) 24)))) ∧
        (k.conv < nfld w 6 12 → t.chip.sense.chk.bead = k.bead ∧ t.chip.sense.chk.conv = k.conv + 1) ∧
        (nfld w 6 12 ≤ k.conv → t.chip.sense.chk.conv = 0 ∧
          t.chip.sense.chk.bead = if nbit w 51 = true ∨ 31 ≤ k.bead then 0 else k.bead + 1)))

/-- R259 to R263, R265. R265, R267, R276 to R280, R288, R289. -/
def Obligations.RingsFiltersAndComparatorsRecord : Prop :=
  (
    (∀ (port n : Nat) (v : Word) (s : State), n < 16 → s.chip.canStore port (0x40014804 + 0x10 * n) → s.chip.bit (0x40014804 + 0x10 * n) 0 = false →
      (36 ≤ port ∧ port < 40 → s.chip.phaseCPassed = true) → bit v 0 = true → v.toNat < 512 → bit v 2 = false → bit v 3 = false →
      6 ≤ fld v 4 5 → fld v 4 5 ≤ 16 → Completes (.ringEnable port n v) s fun t =>
        let a := 0x40014800 + 0x10 * n
        ((s.chip.act a).toNat + 4 * 2 ^ fld v 4 5 ≤ 0x800000 → s.keeps t [a + 4, a + 8, a + 0xC] ∧ bit (t.chip.reg (a + 4)) 0 = true ∧
          fld (t.chip.reg (a + 4)) 4 5 = fld v 4 5 ∧ t.chip.reg (a + 8) = 0 ∧ t.chip.reg (a + 0xC) = 0 ∧ fld (t.chip.reg (a + 4)) 16 16 = 0) ∧
        (0x800000 < (s.chip.act a).toNat + 4 * 2 ^ fld v 4 5 → s.keeps t [a + 4, 0x40013F00] ∧ bit (t.chip.reg (a + 4)) 0 = false ∧
          bit (t.chip.reg 0x40013F00) 0 = true)) ∧
    (∀ (n : Nat) (w : Word) (rest : List (Nat × Word)) (s : State), n < 16 → s.chip.sense.bridge = (n, w) :: rest →
      Completes .ringEntryWrite s fun t =>
        let a := 0x40014800 + 0x10 * n
        let c := s.chip
        let size := 2 ^ c.fld (a + 4) 4 5
        let wr := fld (c.reg (a + 8)) 0 16 % size
        let rd := fld (c.reg (a + 0xC)) 0 16 % size
        let dst := (c.act a).toNat + 4 * wr
        let stored : Prop := c.gate 41 (c.portCls 41) dst 4 true = .open ∧ dst < 0x800000 ∧ dst % 4 = 0 ∧
          nth c.power.grp (grpOf dst) .off = .awake ∧ c.ecc = []
        let counted : Prop := fld (t.chip.reg (a + 4)) 16 16 = sat 16 (fld (c.reg (a + 4)) 16 16 + 1)
        s.sameStores t ∧
        (c.bit (a + 4) 0 = false → s.keeps t [a + 4] ∧ counted ∧ t.chip.sense.bridge = rest) ∧
        (c.bit (a + 4) 0 = true → (wr + 1) % size ≠ rd → stored → c.sameRegs t.chip [a + 8] ∧ t.chip.sense.bridge = rest ∧
          c.wrote t.chip dst (leBytes 4 w.toNat) ∧ (t.chip.reg (a + 8)).toNat = (wr + 1) % size) ∧
        (c.bit (a + 4) 0 = true → (wr + 1) % size = rd → c.bit (a + 4) 1 = false → s.keeps t [a + 4] ∧ counted ∧ t.chip.sense.bridge = rest) ∧
        (c.bit (a + 4) 0 = true → (wr + 1) % size = rd → c.bit (a + 4) 1 = true → c.fld (a + 4) 4 5 ≤ 16 → stored →
          counted ∧ t.chip.sense.bridge = rest ∧
          c.wrote t.chip dst (leBytes 4 w.toNat) ∧ (t.chip.reg (a + 8)).toNat = (wr + 1) % size ∧
          fld (t.chip.reg (a + 0xC)) 0 16 = (rd + 1) % size))) ∧
  (
    (∀ (port p : Nat) (v : Word) (s : State), p < 8 → s.chip.canStore port (fltReg p 0) → s.chip.bit (fltReg p 0) 0 = false →
      (36 ≤ port ∧ port < 40 → s.chip.phaseCPassed = true) → (∀ q < 8, q ≠ p → s.chip.bit (fltReg q 0) 0 = false) →
      s.chip.sense.flts.length = 8 → bit v 0 = true → 1 ≤ fld v 2 3 → fld v 2 3 ≤ 5 → 2 ≤ fld v 5 13 → fld v 5 13 ≤ 4096 →
      fld v 18 2 ≤ 2 → fld v 25 1 = 0 → fld v 28 1 = 0 → fld v 30 2 = 0 → Completes (.filterEnable port p v) s fun t =>
        (s.chip.maskCount p ≤ 32 →
          s.keeps t [fltReg p 0, fltReg p 0x18, fltReg p 0x1C, fltReg p 0x20, fltReg p 0x24] ∧ (∀ f ∈ [(0, 20), (20, 5), (25, 1), (26, 1), (27, 1), (29, 1)],
            fld (t.chip.reg (fltReg p 0)) f.1 f.2 = fld v f.1 f.2) ∧ t.chip.sense.flts[p]? = some ⟨[], []⟩ ∧
          t.chip.reg (fltReg p 0x1C) = 0 ∧ t.chip.reg (fltReg p 0x20) = 0 ∧ t.chip.reg (fltReg p 0x24) = 0) ∧
        (32 < s.chip.maskCount p → s.keeps t [fltReg p 0, fltReg p 0x18, 0x40013F00] ∧ bit (t.chip.reg (fltReg p 0)) 0 = false ∧
          bit (t.chip.reg 0x40013F00) 0 = true ∧ t.chip.sense = s.chip.sense)) ∧
    (∀ (p : Nat) (o : CicOut) (rest : List CicOut) (s : State), p < 8 → s.chip.sense.flts.length = 8 →
      (nth s.chip.sense.flts p ⟨[], []⟩).queue = o :: rest → s.chip.fld (fltReg p 0) 18 2 = 0 → s.chip.bit (fltReg p 0) 25 = false →
      (∀ k < 16, s.chip.bit (winReg k 0) 0 = false) → Completes (.filterOutput p) s fun t =>
        let c := s.chip
        let v := clampI (-2147483648) 2147483647 o.value
        let w := fld (c.reg (fltReg p 0x20)) 0 16 % 256
        let rd := fld (c.reg (fltReg p 0x24)) 0 16 % 256
        s.sameStores t ∧ (nth t.chip.sense.flts p ⟨[], []⟩).queue = rest ∧
        ((w + 1) % 256 ≠ rd → c.sameRegs t.chip [fltReg p 0x20] ∧ fld (t.chip.reg (fltReg p 0x20)) 0 8 = (w + 1) % 256 ∧
          c.wrote t.chip (0x40018000 + 0x1000 * p + 16 * w) (fltRecord p { o with overBit := o.overBit || decide (v ≠ o.value) } v)) ∧
        ((w + 1) % 256 = rd → c.bit (fltReg p 0) 29 = false → s.keeps t [fltReg p 0x20] ∧
          fld (t.chip.reg (fltReg p 0x20)) 16 16 = sat 16 (fld (c.reg (fltReg p 0x20)) 16 16 + 1))) ∧
    (∀ (port k : Nat) (v : Word) (s : State), k < 16 → s.chip.canStore port (winReg k 0) → (36 ≤ port ∧ port < 40 → s.chip.phaseCPassed = true) →
      (s.chip.bit (winReg k 0) 0 = false → bit v 0 = true → v.toNat < 2 ^ 17 → Completes (.windowEnable port k 0 v) s fun t =>
        (s.chip.bandOk k = true → s.keeps t [winReg k 0] ∧ fld (t.chip.reg (winReg k 0)) 0 17 = v.toNat) ∧
        (s.chip.bandOk k = false → s.keeps t [winReg k 0, 0x40014400] ∧ bit (t.chip.reg (winReg k 0)) 0 = false ∧
          bit (t.chip.reg 0x40014400) 0 = true ∧ bit (t.chip.reg 0x40014400) 1 = true)) ∧
      (s.chip.bit (winReg k 0) 0 = true → v.toNat = (s.chip.reg (winReg k 0)).toNat - 1 → bit (s.chip.reg (winReg k 0)) 0 = true →
        v.toNat < 2 ^ 17 → s.chip.sense.wins.length = 16 → Completes (.windowEnable port k 0 v) s fun t =>
          s.keeps t [winReg k 0, winReg k 0x10] ∧ bit (t.chip.reg (winReg k 0)) 0 = false ∧ fld (t.chip.reg (winReg k 0x10)) 0 2 = 0 ∧
          nth t.chip.sense.wins k ⟨1, 1, 1⟩ = ⟨0, 0, 0⟩)) ∧
    (∀ (port k : Nat) (v : Word) (s : State), k < 16 → s.chip.canStore port (winReg k 4) → (36 ≤ port ∧ port < 40 → s.chip.phaseCPassed = true) →
      s.chip.bit (winReg k 0) 0 = true → Completes (.windowEnable port k 4 v) s fun t =>
        let hys : Int := (s.chip.fld (winReg k 0xC) 0 24 : Nat)
        (v.toInt + hys ≤ (s.chip.act (winReg k 8)).toInt - hys → s.keeps t [winReg k 4] ∧ t.chip.reg (winReg k 4) = v) ∧
        ((s.chip.act (winReg k 8)).toInt - hys < v.toInt + hys → s.keeps t [0x40014400] ∧ bit (t.chip.reg 0x40014400) 1 = true)))

/-- R5. -/
def Obligations.NarrowRegisterAccessesAreNotPerformed : Prop :=
  (∀ (x : Access) (s : State), x.port ≤ 48 → 0x40000000 ≤ x.addr → inArea x.addr x.len = true → isOutBuf x.addr = false →
    x.len = 1 ∨ x.len = 2 ∨ x.addr % 4 ≠ 0 → Completes (.fabricAccess x) s fun t =>
      s.keeps t ((misuseAt x.addr).map (·.1)).toList ∧ t.chip.bus.err = true ∧
      (x.kind = .read → t.chip.bus.data = List.replicate x.len 0) ∧
      ∀ r b, misuseAt x.addr = some (r, b) → bit (t.chip.reg r) b = true) ∧
  (∀ (port a size : Nat) (v : Word) (s : State), 0x40000000 ≤ a → inArea a size = true → isOutBuf a = false →
    size = 1 ∨ size = 2 ∨ a % 4 ≠ 0 → Completes (.registerWrite port a size v) s fun t =>
      s.keeps t ((misuseAt a).map (·.1)).toList ∧ t.chip.bus.err = true ∧
      ∀ r b, misuseAt a = some (r, b) → bit (t.chip.reg r) b = true)

/-- R62. -/
def Obligations.AccessesToOffGroupsAreNotPerformed : Prop :=
  ∀ (x : Access) (s : State), x.port ≤ 48 → x.addr < 0x800000 ∨ (0x08000000 ≤ x.addr ∧ x.addr < 0x08800000) → inArea x.addr x.len = true →
    (∀ l ∈ linesOf x.addr x.len, s.chip.lineRefused x.port (s.chip.accCls x) l (accWrites x) = none) →
    (∃ l ∈ linesOf x.addr x.len, nth s.chip.power.grp (grpOf l) .off = .off) → Completes (.fabricAccess x) s fun t =>
      s.keeps t [0x40000004] ∧ t.chip.bus.err = true ∧ (x.kind = .read → t.chip.bus.data = List.replicate x.len 0) ∧
      bit (t.chip.reg 0x40000004) 0 = true

/-- R61, R63, R290, R297, R796. -/
def Obligations.MemoryAccessesReadWriteAndReserve : Prop :=
  ∀ (x : Access) (s : State), x.port ≤ 48 → s.chip.gate x.port (s.chip.accCls x) x.addr x.len (accWrites x) = .open → x.upsets = [] →
    s.chip.ecc = [] → x.addr < 0x800000 ∨ (0x30000000 ≤ x.addr ∧ x.addr < 0x30040000) → x.data.length = x.len →
    Completes (.fabricAccess x) s fun t =>
      let c := s.chip
      let plain : Prop := x.kind = .read ∨ x.kind = .write
      let core : Prop := 36 ≤ x.port ∧ x.port < 40 ∧ x.len = 4 ∧ x.addr % 4 = 0
      let waits := c.mustWait x.addr x.len
      let word := x.addr / 8 * 8
      s.sameStores t ∧ c.sameRegs t.chip [] ∧
      (plain ∨ core → waits = true → t.chip = { c with stalled := c.stalled ++ [x] }) ∧
      (¬ plain → ¬ core → t.chip = c.busError x.len) ∧
      (waits = false → x.kind = .read → t.chip = c.respond (c.peekN x.addr x.len)) ∧
      (waits = false → x.kind = .write → c.wrote t.chip x.addr x.data ∧ t.chip.bus = ⟨[], false⟩) ∧
      (waits = false → core → ∀ op, x.kind = .amo op → t.chip.bus = ⟨c.peekN x.addr 4, false⟩ ∧
        c.wrote t.chip x.addr (leBytes 4 (amoApply op (BitVec.ofNat 32 (c.peekLe x.addr 4)) (BitVec.ofNat 32 (leNat x.data))).toNat)) ∧
      (waits = false → core → x.kind = .loadReserved → c.sameMem t.chip ∧ t.chip.bus = ⟨c.peekN x.addr 4, false⟩ ∧
        (x.port, word) ∈ t.chip.resv ∧ ∀ r ∈ t.chip.resv, r.1 = x.port → r.2 = word) ∧
      (waits = false → core → x.kind = .storeConditional → (∀ r ∈ t.chip.resv, r.1 ≠ x.port) ∧
        ((x.port, word) ∈ c.resv → c.wrote t.chip x.addr x.data ∧ t.chip.bus = ⟨leBytes 4 0, false⟩) ∧
        ((x.port, word) ∉ c.resv → c.sameMem t.chip ∧ t.chip.bus = ⟨leBytes 4 1, false⟩))

/-- R298, R301, R311, R319, R323. -/
def Obligations.BanksScrubberAndPartitionFollowTheirRules : Prop :=
  (∀ (b : Nat) (reqs : List (Nat × Nat × Nat)) (s : State), b < 16 → s.chip.bankGrant.length = 16 → s.chip.bankPtr.length = 16 →
    (∀ r ∈ reqs, r.1 < 64 ∧ r.2.1 < 3) → (∀ k < 3, nth (nth s.chip.bankPtr b []) k 0 < 64) → Completes (.bankGrant b reqs) s fun t =>
      s.keeps t [0x400201C0, 0x400201C4, 0x400201C8] ∧
      ((∀ r ∈ reqs, s.chip.eligible b r = false) → nth t.chip.bankGrant b (some default) = none ∧ t.chip.bankPtr = s.chip.bankPtr) ∧
      ((∃ r ∈ reqs, s.chip.eligible b r = true) → ∃ r ∈ reqs, s.chip.eligible b r = true ∧ nth t.chip.bankGrant b none = some r ∧
        (∀ q ∈ reqs, s.chip.eligible b q = true → r.2.1 ≤ q.2.1 ∧
          let p := nth (nth s.chip.bankPtr b []) r.2.1 0
          (q.2.1 = r.2.1 → (r.1 + 64 - p) % 64 ≤ (q.1 + 64 - p) % 64)) ∧
        (r.2.1 < (nth s.chip.bankPtr b []).length → nth (nth t.chip.bankPtr b []) r.2.1 0 = (r.1 + 1) % 64) ∧
        (r.1 = 40 → t.chip.clocks = s.chip.clocks))) ∧
  (∀ (w : Nat) (s : State), s.chip.dom 4 = true → s.chip.bit 0x4002000C 0 = true → s.chip.scrubNext s.chip.scrub = some w →
    Completes (.scrubRead []) s fun t =>
      (Sparse.find w s.chip.ecc = none → s.keeps t [0x40020000]) ∧
      (Sparse.find w s.chip.ecc = some .single → s.keeps t [0x40020000, 0x40020008] ∧ Sparse.find w t.chip.ecc = none ∧
        bit (t.chip.reg 0x40020000) 1 = true ∧ fld (t.chip.reg 0x40020008) 0 16 = sat 16 (fld (s.chip.reg 0x40020008) 0 16 + 1)) ∧
      (Sparse.find w s.chip.ecc ≠ some .double → Sparse.find w s.chip.ecc ≠ some .many → s.chip.scrubNext (w + 8) = none →
        t.chip.scrub = 0 ∧ bit (t.chip.reg 0x40020000) 3 = true) ∧
      (Sparse.find w s.chip.ecc ≠ some .double → Sparse.find w s.chip.ecc ≠ some .many →
        ∀ n, s.chip.scrubNext (w + 8) = some n → t.chip.scrub = n)) ∧
  (∀ (port r which : Nat) (v : Word) (s : State), r < 16 → which < 4 → s.chip.canStore port (0x40020900 + 0x20 * r + 4 * which) →
    bit (s.chip.reg 0x40020800) 0 = false → (which = 3 → v.toNat < 2 ^ 17) → Completes (.partAttrWrite port r which v) s fun t =>
      let a := 0x40020900 + 0x20 * r + 4 * which
      let lo := if which < 2 then 6 else 0
      let n := if which < 2 then 26 else if which = 2 then 32 else 17
      let valid := bit (s.chip.reg (0x40020910 + 0x20 * r)) 0
      (valid = false → s.keeps t [a] ∧ fld (t.chip.reg a) lo n = fld v lo n) ∧
      (valid = true → fld v lo n ≠ fld (s.chip.reg a) lo n → s.keeps t [0x40020804] ∧ bit (t.chip.reg 0x40020804) 0 = true)) ∧
  (∀ (port r : Nat) (v : Word) (s : State), r < 16 → s.chip.canStore port (0x40020910 + 0x20 * r) →
    bit (s.chip.reg 0x40020800) 0 = false → bit v 0 = true → v.toNat < 16 → fld v 1 2 < 3 → bit (s.chip.partReg r 4) 0 = false →
    Completes (.partAttrWrite port r 4 v) s fun t =>
      ((s.chip.partReg r 0).toNat / 64 ≤ (s.chip.partReg r 1).toNat / 64 → s.keeps t [0x40020910 + 0x20 * r] ∧
        fld (t.chip.reg (0x40020910 + 0x20 * r)) 0 4 = v.toNat) ∧
      ((s.chip.partReg r 1).toNat / 64 < (s.chip.partReg r 0).toNat / 64 → s.keeps t [0x40020804] ∧
        bit (t.chip.reg 0x40020804) 0 = true))

/-- R326 to R336, R356. -/
def Obligations.DoorbellsSubmitDescriptors : Prop :=
  (∀ (port e : Nat) (v : Word) (s : State), e < 36 → s.chip.eng.length = 36 → s.chip.canStore port (0x40030100 + 4 * e) →
    Completes (.doorbell port e v) s fun t =>
      ((s.chip.engine e).fifo.length < 8 → s.keeps t [0x40030200 + 4 * e] ∧
        t.chip.engine e = { s.chip.engine e with fifo := (s.chip.engine e).fifo ++ [(v.toNat, port, s.chip.portCls port)] } ∧
        (∀ f, f ≠ e → t.chip.engine f = s.chip.engine f) ∧ t.chip.stalled = s.chip.stalled) ∧
      (8 ≤ (s.chip.engine e).fifo.length → s.keeps t [] ∧ t.chip.eng = s.chip.eng ∧ ∃ x, t.chip.stalled = s.chip.stalled ++ [x] ∧
        x.port = port ∧ x.addr = 0x40030100 + 4 * e ∧ leNat x.data = v.toNat)) ∧
  (∀ (e addr port cls : Nat) (rest : List (Nat × Nat × Nat)) (s : State), e < 36 → s.chip.eng.length = 36 →
    (s.chip.engine e).fifo = (addr, port, cls) :: rest → (∀ x ∈ s.chip.stalled, x.addr ≠ 0x40030100 + 4 * e) →
    Completes (.doorbellProcess e) s fun t =>
      let c := s.chip
      let read : Prop := addr % 64 = 0 ∧ addr < 0x800000 ∧ c.gate port cls addr 64 false = .open ∧ c.ecc = [] ∧
        nth c.power.grp (grpOf addr) .off = .awake
      let bytes := c.peekN addr 64
      let compl := leAt bytes 0x0C 4
      let d : Desc := ⟨addr, bytes, if bit (c.reg 0x40020800) 0 then min 2 (fld (c.partReg (leAt bytes 4 1 % 16) 4) 1 2) else 0, 0⟩
      s.sameStores t ∧
      (addr % 64 ≠ 0 ∨ 0x800000 ≤ addr → (t.chip.engine e).fifo = rest ∧ (t.chip.engine e).queue = (c.engine e).queue ∧
        (bit (c.reg 0x40030000) 1 = true → s.keeps t [0x40030200 + 4 * e]) ∧
        (bit (c.reg 0x40030000) 1 = false → s.keeps t [0x40030000, 0x40030004, 0x40030008, 0x40030200 + 4 * e] ∧
          bit (t.chip.reg 0x40030000) 1 = true ∧ t.chip.reg 0x40030004 = BitVec.ofNat 32 addr ∧
          t.chip.reg 0x40030008 = BitVec.ofNat 32 (1 + 16 * port + 1024 * e))) ∧
      (read → compl % 32 = 0 → compl < 0x800000 →
        (c.submitCheck c.opOk e port cls d = none → s.keeps t [0x40030200 + 4 * e] ∧
          t.chip.engine e = { c.engine e with
            fifo := rest, queue := (c.engine e).queue ++ [d], pw := if (c.engine e).pw = .off then .powering else (c.engine e).pw }) ∧
        (∀ k st dt, c.submitCheck c.opOk e port cls d = some (k, st, dt) → k ≠ 5 → leAt bytes 2 2 = 0 →
          c.gate e d.cls compl 32 true = .open → nth c.power.grp (grpOf compl) .off = .awake →
          (t.chip.engine e).queue = (c.engine e).queue ∧ t.chip.peek compl = BitVec.ofNat 8 st ∧
          t.chip.peek (compl + 0xB) = BitVec.ofNat 8 dt)))

/-- R337 to R342, R346 to R351, R355. -/
def Obligations.DescriptorsStartCompleteAndEnd : Prop :=
  (∀ (e : Nat) (d : Desc) (s : State), e < 36 → s.chip.eng.length = 36 → (s.chip.engine e).pw = .up → (s.chip.engine e).run = none →
    s.chip.pick e = some d → (d.flag 2 && pastDue s.chip.packUs d.deadline) = false → Completes (.descriptorStart e) s fun t =>
      s.keeps t [0x40030200 + 4 * e] ∧
      t.chip.engine e = { s.chip.engine e with
        run := some ⟨d, s.chip.packUs, false, OpRes.bare 1 0, [], []⟩, queue := (s.chip.engine e).queue.erase d, lost := false } ∧
      ∀ f, f ≠ e → t.chip.engine f = s.chip.engine f) ∧
  (∀ (i : Instr) (e : Nat) (r : Running) (s : State), e < 36 → s.chip.eng.length = 36 → (s.chip.engine e).run = some r →
    s.chip.engSet e ≠ 2 → r.d.flag 0 = false → r.d.flag 5 = false → s.chip.gate e r.d.cls r.d.compl 32 true = .open →
    r.d.compl % 32 = 0 → r.d.compl < 0x800000 → nth s.chip.power.grp (grpOf r.d.compl) .off = .awake → s.chip.ecc = [] →
    (i = .descriptorComplete e ∧ r.done = true) ∨ (i = .runmaxExpiry e ∧ r.done = false) ∨
      (i = .graceExpiry e ∧ r.done = false ∧ (s.chip.engine e).lost = true ∧ s.chip.admitted e r.d.cls = false) →
    Completes i s fun t =>
      let b := t.chip.peekN r.d.compl 32
      let status := if i = .descriptorComplete e then r.res.status else if i = .runmaxExpiry e then 9 else 8
      let ev := 0x40030400 + 4 * (r.d.at 6 1 % 32)
      s.sameStores t ∧ s.chip.wrote t.chip r.d.compl b ∧
      s.chip.sameRegs t.chip ((0x40030200 + 4 * e) :: (if r.d.flag 4 then [ev] else [])) ∧
      (t.chip.engine e).run = none ∧ (t.chip.engine e).queue = (s.chip.engine e).queue ∧
      leAt b 0 1 = status % 256 ∧ leAt b 2 2 = r.d.at 0x0A 2 ∧ leAt b 4 4 = r.d.addr % 2 ^ 32 ∧ leAt b 8 1 = e ∧
      leAt b 0x0C 4 = r.start % 2 ^ 32 ∧ leAt b 0x1E 2 = ((s.chip.engine e).seq + 1) % 65536 ∧
      (t.chip.engine e).seq = (s.chip.engine e).seq + 1 ∧
      (r.d.flag 4 = true → (t.chip.reg ev).toNat = (fld (s.chip.reg ev) 0 16 + 1) % 65536)) ∧
  (∀ (port e : Nat) (v : Word) (s : State), s.chip.canStore port 0x40030300 → e = fld v 0 6 → e < 36 → s.chip.eng.length = 36 →
    s.chip.engSet e ≠ 2 → Completes (.engFlush port v) s fun t =>
      s.sameStores t ∧ (t.chip.power.mode = s.chip.power.mode →
        (t.chip.engine e).queue = (s.chip.engine e).queue.filter (fun d => !nbit (fld v 6 3) d.cls) ∧
        (∀ r, (s.chip.engine e).run = some r → nbit (fld v 6 3) r.d.cls = true → (t.chip.engine e).run = none) ∧
        (∀ r, (s.chip.engine e).run = some r → nbit (fld v 6 3) r.d.cls = false → (t.chip.engine e).run = some r)))

/-- R59, R305, R341, R343 to R346, R356, R357. -/
def Obligations.WindowsEventsAndEnginePower : Prop :=
  (∀ (n : Nat) (s : State), s.chip.eng.length = 36 → Completes (.timeWindowOpen n) s fun t =>
      s.keeps t [] ∧ ∀ e < 36, (t.chip.engine e).run = (s.chip.engine e).run ∧ (t.chip.engine e).queue = (s.chip.engine e).queue ∧
        ∀ r, (s.chip.engine e).run = some r →
          (t.chip.engine e).lost = ((s.chip.engine e).lost && !(s.chip.winNames n e r.d.cls && s.chip.admitted e r.d.cls))) ∧
  (∀ (n : Nat) (s : State), n < 32 → s.chip.bit 0x40030010 0 = true → s.chip.eng.length = 36 → Completes (.timeWindowClose n) s fun t =>
      s.keeps t [] ∧ ∀ e < 36, (t.chip.engine e).run = (s.chip.engine e).run ∧
        (∀ r, (s.chip.engine e).run = some r → (t.chip.engine e).queue = (s.chip.engine e).queue ∧
          (t.chip.engine e).lost = ((s.chip.engine e).lost || (s.chip.winNames n e r.d.cls && !s.chip.admitted e r.d.cls))) ∧
        (∀ d, (s.chip.engine e).run = none → (s.chip.engine e).pw = .up → (s.chip.engine e).queue = [d] → d.cls < 3 → 0 < d.cost →
          s.chip.winNames n e d.cls = true → s.chip.waitMet d = true → s.chip.roomFor e d = false →
          (t.chip.engine e).queue = [{ d with defer := min 255 (d.defer + 1) }])) ∧
  (∀ (port k : Nat) (v : Word) (s : State), k < 32 → s.chip.canStore port (0x40030400 + 4 * k) → v.toNat < 65536 →
    Completes (.engEvtWrite port k v) s fun t =>
      s.keeps t [0x40030400 + 4 * k] ∧ fld (t.chip.reg (0x40030400 + 4 * k)) 0 16 = v.toNat) ∧
  (∀ (e : Nat) (s : State), e < 36 → s.chip.eng.length = 36 → (s.chip.engine e).pw = .powering → Completes (.engineUsable e) s fun t =>
      s.sameStores t ∧ s.chip.sameRegs t.chip [0x40000034, 0x40000038] ∧ t.chip.engine e = { s.chip.engine e with pw := .up } ∧
      t.chip.dom (13 + e) = true ∧ (∀ i, i ≠ 13 + e → i < 64 → t.chip.dom i = s.chip.dom i) ∧
      ∀ a, t.chip.peek a = if bufBase e ≤ canon a ∧ canon a < bufBase e + 0x20000 then 0 else s.chip.peek a) ∧
  (∀ (e : Nat) (s : State), e < 36 → s.chip.eng.length = 36 → s.chip.engSet e = 0 → (s.chip.engine e).pw = .up →
    (s.chip.engine e).held = [] → s.chip.exciting e = false → Completes (.engIdlePowerOff e) s fun t =>
      s.sameStores t ∧ s.chip.sameRegs t.chip [0x40000034, 0x40000038, 0x40030200 + 4 * e] ∧ (t.chip.engine e).pw = .off ∧
      t.chip.dom (13 + e) = false ∧
      ∀ a, t.chip.peek a = if bufBase e ≤ canon a ∧ canon a < bufBase e + 0x20000 then 0 else s.chip.peek a)

/-- R351, R353, R362 to R399: an operation ends with a result, which the completion record will carry. -/
def Obligations.EngineOperationsArePerformed : Prop :=
  (∀ (i : Instr) (e cls op : Nat) (work : Work) (s : State), engineOp i = some (e, cls, op, work) →
    (∀ r, (s.chip.engine e).run = some r → r.done = false → e < 36 → engClass e = cls → r.d.at 0 1 = op → Completes i s fun t =>
      let x := (s.chip.setBit 0x40030000 3 false).runEng (work ⟨e, r.d.cls⟩ r.d r.d.opnd)
      s.sameStores t ∧ x.2.sameMem t.chip ∧ x.2.sameRegs t.chip [0x40030000] ∧
      (t.chip.power.mode = .fenced ∨ t.chip.power.mode = .dark ∨
        (t.chip.power.mode = s.chip.power.mode ∧ (∀ f, f ≠ e → t.chip.engine f = s.chip.engine f) ∧
          ∃ fl, (t.chip.engine e).run = some { r with done := true, res := { x.1 with flags := fl } }))) ∧
    ((s.chip.engine e).run = none → exec i s = .next s) ∧
    (∀ r, (s.chip.engine e).run = some r → r.done = true ∨ engClass e ≠ cls ∨ r.d.at 0 1 ≠ op → exec i s = .next s)) ∧
  (∀ (e : Nat) (r : Running) (s : State), 16 ≤ e → e < 18 → s.chip.zle.length = 2 → (s.chip.engine e).run = some r → r.done = false →
    r.d.at 0 1 = 1 → (nth s.chip.zle (e - 16) default).next = none → Completes (.excite e) s fun t =>
      let x := (exciteCheck (s.chip.fld 0x4001000C 0 15) ⟨e, r.d.cls⟩ r.d.opnd).run s.chip
      s.sameStores t ∧ x.2.sameMem t.chip ∧ x.2.sameRegs t.chip [] ∧
      (∀ ts, x.1 = .ok ts → t.chip.eng = x.2.eng ∧
        (x.2.zle.length = 2 → (nth t.chip.zle (e - 16) default).next = some ⟨ts, r.d.opnd.n1, r.d.opnd.p0, 2⟩)) ∧
      (∀ res, x.1 = .error res → t.chip.power.mode = .fenced ∨ t.chip.power.mode = .dark ∨
        (t.chip.engine e).run = some { r with done := true, res := res }))

/-- R391 to R394. -/
def Obligations.DataMoversMoveLocalBytes : Prop :=
  ∀ (e : Nat) (r : Running) (s : State), 26 ≤ e → e < 30 → s.chip.eng.length = 36 → (s.chip.engine e).run = some r → r.done = false →
    r.todo = [] → r.sent = [] → r.res.status = 1 → nbit r.d.opnd.p0 31 = false → s.chip.ecc = [] →
    (∀ a n w, 0 < n → a + n ≤ 0x800000 → a / 64 = (a + n - 1) / 64 → s.chip.gate e r.d.cls a n w = .open) →
    (∀ g < 8, nth s.chip.power.grp g .off = .awake) →
    let o := r.d.opnd
    let finished := fun (t : State) => s.sameStores t ∧ s.chip.sameRegs t.chip [0x40030000] ∧
      ∃ r', (t.chip.engine e).run = some r' ∧ r'.done = true ∧ r'.d = r.d ∧ r'.start = r.start ∧ r'.res.status = 1
    (r.d.at 0 1 = 1 → o.a + o.p1 ≤ 0x800000 → o.d + o.p1 ≤ 0x800000 → o.a + o.p1 ≤ o.d ∨ o.d + o.p1 ≤ o.a →
      Completes (.copy e) s fun t => finished t ∧ s.chip.wrote t.chip o.d (s.chip.peekN o.a o.p1)) ∧
    (r.d.at 0 1 = 2 → o.d + o.p1 ≤ 0x800000 → o.p1 % 4 = 0 → Completes (.fill e) s fun t =>
      finished t ∧ s.chip.wrote t.chip o.d (List.replicate (o.p1 / 4) (leBytes 4 o.b)).flatten) ∧
    (r.d.at 0 1 = 3 → o.n0 = 1 → o.b + 8 ≤ 0x800000 →
      let a := s.chip.peekLe o.b 4
      let n := s.chip.peekLe (o.b + 4) 4
      a + n ≤ 0x800000 → o.d + n ≤ 0x800000 → a + n ≤ o.d ∨ o.d + n ≤ a → Completes (.dmeGather e) s fun t =>
        finished t ∧ s.chip.wrote t.chip o.d (s.chip.peekN a n)) ∧
    (r.d.at 0 1 = 4 → o.n0 = 1 → o.b + 8 ≤ 0x800000 →
      let a := s.chip.peekLe o.b 4
      let n := s.chip.peekLe (o.b + 4) 4
      a + n ≤ 0x800000 → o.a + n ≤ 0x800000 → a + n ≤ o.a ∨ o.a + n ≤ a → Completes (.scatter e) s fun t =>
        finished t ∧ s.chip.wrote t.chip a (s.chip.peekN o.a n)) ∧
    (r.d.at 0 1 = 5 → o.a % 8 = 0 → o.a + 8 ≤ 0x800000 → o.b + 8 ≤ 0x800000 → o.d + 8 ≤ 0x800000 → o.a + 8 ≤ o.d ∨ o.d + 8 ≤ o.a →
      Completes (.fetchAdd e) s fun t => finished t ∧ t.chip.peekN o.d 8 = s.chip.peekN o.a 8 ∧
        t.chip.peekN o.a 8 = leBytes 8 (s.chip.peekLe o.a 8 + s.chip.peekLe o.b 8))

/-- R36 to R41, R129, R132, R133, R149. -/
def Obligations.ImageLoadStartsFirmwareOrFallsBack : Prop :=
  ∀ (part : List (Nat × Word)) (conf : SysConf) (tags : List TagRead) (volts : List Nat) (amps : Nat) (s : State),
    (s.chip.boot.rom ≠ .loading → exec (.imageLoaded part conf tags volts amps) s = .next s) ∧
    (s.chip.boot.rom = .loading →
      ((s.imageLoad part).1 = false → exec (.imageLoaded part conf tags volts amps) s = .next (s.imageLoad part).2) ∧
      ((s.imageLoad part).1 = true → (s.imageLoad part).2.chip.ecc = [] → Completes (.imageLoaded part conf tags volts amps) s fun t =>
        let read := readTag tags
        s.sameStores t ∧ t.chip.fw.conf = some conf ∧ t.chip.fw.started = false ∧
        (s.imageLoad part).2.chip.boot.rom = .done ∧ bit ((s.imageLoad part).2.chip.reg 0x40020800) 0 = true ∧
        bit ((s.imageLoad part).2.chip.reg 0x40055018) 31 = true ∧
        (∀ n m : Option (List Byte), tags = [n, m] → n = none → m = none → t.chip.fw.tagStat = 1) ∧
        (read.2 ≠ 0 → t.chip.fw.tagStat = read.2 ∧ t.chip.fw.tag = [] ∧ t.chip.fw.chem = conf.defChem ∧ t.chip.fw.series = conf.defSeries) ∧
        (read.2 = 0 → conf.series = [] → t.chip.fw.tagStat = 0 ∧ t.chip.fw.tag = read.1 ∧ t.chip.fw.chem = leAt read.1 0x1C 4 ∧
          t.chip.fw.series = leAt read.1 6 1) ∧
        (∀ n, read.2 = 0 → conf.series = [(leAt read.1 0x1C 4, leAt read.1 0x18 2, n)] → n ≠ leAt read.1 6 1 →
          t.chip.fw.tagStat = 3 ∧ t.chip.fw.series = n)))

/-- R91, R478, R479, R485, R501. R103, R107, R143, R462, R492, R493, R497. -/
def Obligations.StepsVectorsAndLocketsFollowTheirBoundaries : Prop :=
  (
    (∀ (late : Bool) (k : SysConf) (s : State), s.chip.fw.conf = some k → s.chip.fwRuns = true →
      (s.chip.fw.started = true ∨ s.chip.firstReady = false → exec (.firstStepStart late) s = .next s) ∧
      (s.chip.fw.started = false → s.chip.firstReady = true → Completes (.firstStepStart late) s fun t =>
        let done := s.chip.ownStep k s.chip.fullUs late
        s.sameStores t ∧ t.chip.fw = done.fw ∧ t.chip.fw.started = true ∧ t.chip.fw.bound = some (s.chip.fullUs, t.chip.clocks.rtc) ∧
        t.chip.power.mode ≠ .start ∧ (done.power.mode = .start → t.chip.power.mode = .run ∧ fld (t.chip.reg 0x40000000) 0 3 = 3) ∧
        (done.power.mode ≠ .start → t.chip = done))) ∧
    (∀ (late : Bool) (k : SysConf) (us rtc : Nat) (s : State), s.chip.fw.conf = some k → s.chip.fwRuns = true →
      s.chip.fw.started = true → s.chip.fw.bound = some (us, rtc) →
      let b := s.chip.fullUs / s.chip.period k * s.chip.period k
      (s.chip.power.mode ≠ .run ∨ (b ≤ us ∧ us ≤ s.chip.fullUs) → exec (.stepBoundary late) s = .next s) ∧
      (s.chip.power.mode = .run → us < b ∨ s.chip.fullUs < us → (s.chip.ownStep k b late).active = false →
        Completes (.stepBoundary late) s fun t =>
        s.sameStores t ∧ t.chip = s.chip.ownStep k b late ∧ t.chip.fw.started = true ∧ t.chip.fw.bound = some (b, t.chip.clocks.rtc) ∧
        ∃ n, t.chip.fw.seq = (n + 1) % 2 ^ 32 ∧ t.chip.fw.due = if t.chip.isMgr then none else some (n, b % 2 ^ 32)))) ∧
  (
    (∀ (owner : Nat) (late : Bool) (brought : List (Nat × Option (List Byte))) (back : Bool) (k : SysConf) (s : State),
      s.chip.fw.conf = some k → s.chip.fwRuns = true → owner < 1024 →
      let v := s.chip.peekN (k.vecIn + 256 * owner) 192
      let seen := Sparse.find owner s.chip.fw.vecSeq
      (s.chip.power.mode ≠ .run ∨ leAt v 0 2 ≠ owner ∨ s.chip.hlId = some owner ∨ seen = some ((leAt v 0x14 4 + 1) % 2 ^ 32) →
        exec (.inputVectorReceive owner late brought back) s = .next s) ∧
      (s.chip.power.mode = .run → leAt v 0 2 = owner → s.chip.hlId ≠ some owner → 6 ≤ leAt v 2 1 → leAt v 2 1 ≤ 20 →
        seen ≠ some ((leAt v 0x14 4 + 1) % 2 ^ 32) →
        (s.chip.isMgr = false → s.chip.fw.buddy ≠ some owner → (∀ t ∈ s.chip.fw.taken, t.ref % 1024 ≠ owner) →
          Completes (.inputVectorReceive owner late brought back) s fun t =>
            s.keeps t [] ∧ t.chip.fw.copies = [] ∧ Sparse.find owner t.chip.fw.vecSeq = some ((leAt v 0x14 4 + 1) % 2 ^ 32)) ∧
        Completes (.inputVectorReceive owner late brought back) s fun t =>
          s.sameStores t ∧ t.chip = s.chip.hostStep k v late brought back)) ∧
    (∀ (tap : Nat) (k : SysConf) (s : State), s.chip.fw.conf = some k → s.chip.fwRuns = true →
      let b := s.chip.ctx k tap
      let wanted := tap < 20 ∧ tap < s.chip.fw.series ∧ ctxLive b = true ∧ 2 ≤ leAt b 0x0B 1
      (∀ l, wanted → s.chip.stagedLocket k tap = some l → Completes (.locketLateArrival tap) s fun t =>
        s.keeps t [] ∧ Sparse.find tap t.chip.fw.late = some l.ctx) ∧
      (¬ wanted ∨ s.chip.stagedLocket k tap = none → exec (.locketLateArrival tap) s = .next s)) ∧
    (∀ (i : Nat) (k : SysConf) (s : State), s.chip.fw.conf = some k → s.chip.fwRuns = true → i < s.chip.slotCount →
      ctxLive (s.chip.ctx k i) = true → s.chip.isStaging i = false → s.chip.copyRuns (ctxAt k i) = false → s.chip.xspi = none →
      (s.chip.makeLocket k (s.chip.ctx k i)).length ≤ 3840 →
      Completes (.locketCapture i) s fun t =>
        let d := s.chip.makeLocket k (s.chip.ctx k i)
        t.pending = s.pending ∧ t.otpA = s.otpA ∧ t.otpB = s.otpB ∧ s.chip.sameMem t.chip ∧
        (∃ b < 2, t.nvmRead (locketSlot i b).base d.length = d ∧
          (∀ a, a < (locketSlot i b).base ∨ (locketSlot i b).base + 4096 ≤ a → t.nvmByte a = s.nvmByte a) ∧
          (∃ q, t.nvmRead ((locketSlot i b).base + 0xF00) 64 = commitRec 3 i q d.length (crc32 d) s.chip.clocks.rtc))))

/-- R505 to R510, R521. -/
def Obligations.LinkPortsFollowTheirStates : Prop :=
  ∀ (p : Nat) (s : State), p < 4 → s.chip.hl.ports.length = 4 →
    let c := s.chip
    let st := fun (x : Chip) => fld (x.reg (hlStat p)) 0 3
    let touched := [hlStat p, 0x40040000, 0x4006022C + 0x40 * p, 0x4008001C, 0x40040014]
    let active := c.fld 0x40000028 (2 * p) 2 = 0
    (∀ (port : Nat) (v : Word), c.canStore port (0x40040100 + 0x40 * p) → bit v 3 = true → v.toNat < 16 → fld v 0 3 ≠ 0 → active →
      Completes (.hlRetrain port p v) s fun t => s.sameStores t ∧ s.chip.sameMem t.chip ∧ st t.chip = 1 ∧
        (t.chip.hlPort p).mask = fld v 0 3 ∧ (t.chip.hlPort p).gen = 0 ∧ (t.chip.hlPort p).queue = [] ∧ (t.chip.hlPort p).replay = []) ∧
    (∀ (m lanes id : Nat) (valid : Bool),
      (st c ≠ 1 → exec (.linkTrain p m lanes id valid) s = .next s) ∧
      (st c = 1 → id < 1024 → Completes (.linkTrain p m lanes id valid) s fun t =>
        s.keeps t [hlStat p] ∧ st t.chip = 1 ∧ fld (t.chip.reg (hlStat p)) 16 10 = (if valid then id else 0) ∧
        bit (t.chip.reg (hlStat p)) 26 = valid ∧
        t.chip.hlPort p = { c.hlPort p with gen := bestGen (c.hlPort p).mask (if lanes < 2 then m % 2 else m) } ∧
        ∀ q, q ≠ p → t.chip.hlPort q = c.hlPort q)) ∧
    (∀ lane1 : Bool,
      (st c ≠ 1 ∨ (c.hlPort p).gen = 0 → exec (.trainingFallback p lane1) s = .next s) ∧
      (st c = 1 → (c.hlPort p).gen ≠ 0 → Completes (.trainingFallback p lane1) s fun t =>
        let rest := (c.hlPort p).mask &&& (7 - 2 ^ ((c.hlPort p).gen - 1))
        s.keeps t [hlStat p, 0x40040000] ∧
        (lane1 = true → st t.chip = 1 ∧ t.chip.hlPort p = { c.hlPort p with gen := 1 }) ∧
        (lane1 = false → t.chip.hlPort p = { c.hlPort p with mask := rest, gen := 0 } ∧ st t.chip = if rest = 0 then 4 else 1))) ∧
    (st c ≠ 1 ∨ (c.hlPort p).gen = 0 → exec (.linkUp p) s = .next s) ∧
    (st c = 1 → (c.hlPort p).gen ≠ 0 → (c.hlPort p).gen < 4 → Completes (.linkUp p) s fun t =>
      s.keeps t touched ∧ st t.chip = 2 ∧ fld (t.chip.reg (hlStat p)) 3 2 = (c.hlPort p).gen ∧ bit (t.chip.reg (hlStat p)) 5 = false ∧
      bit (t.chip.reg 0x40040000) 1 = true ∧ nth t.chip.sec.linkKeys p none = none ∧ (t.chip.hlPort p).replay = [] ∧
      (t.chip.hlPort p).txSeq = 0 ∧ (t.chip.hlPort p).rxSeq = 0 ∧ (t.chip.hlPort p).credits = fullCredits ∧
      (t.chip.hlPort p).queue = (c.hlPort p).queue) ∧
    (st c ≠ 4 → exec (.linkFailedRetry p) s = .next s) ∧
    (st c = 4 → Completes (.linkFailedRetry p) s fun t => s.keeps t touched ∧ st t.chip = 1 ∧
      (t.chip.hlPort p).mask = c.fld (0x40040100 + 0x40 * p) 0 3 ∧ (t.chip.hlPort p).gen = 0) ∧
    (st c ≠ 3 ∨ ¬ active → exec (.linkResume p) s = .next s) ∧
    (st c = 3 → active → Completes (.linkResume p) s fun t => s.keeps t touched ∧ st t.chip = 2 ∧ bit (t.chip.reg 0x40040000) 1 = true ∧
      t.chip.hl.ports = c.hl.ports) ∧
    (st c ≠ 2 → exec (.linkFail p true) s = .next s) ∧
    (st c = 2 → c.fld 0x40000028 (2 * p) 2 ≠ 2 → ∀ lost : Bool, lost = true ∨ 8 ≤ (c.hlPort p).replays →
      Completes (.linkFail p lost) s fun t => s.sameStores t ∧ s.chip.sameMem t.chip ∧ st t.chip = 1 ∧
        (t.chip.hlPort p).queue = [] ∧ (t.chip.hlPort p).replay = [] ∧
        fld (t.chip.reg (0x4004010C + 0x40 * p)) 24 8 = sat 8 (fld (c.reg (0x4004010C + 0x40 * p)) 24 8 + 1) ∧
        ∀ q, q ≠ p → (t.chip.hlPort q).queue = (c.hlPort q).queue ∧ (t.chip.hlPort q).replay = (c.hlPort q).replay)

/-- R516 to R518, R521, R522. -/
def Obligations.LinkLayerAcknowledgesAndReplays : Prop :=
  ∀ (p : Nat) (s : State), p < 4 → s.chip.hl.ports.length = 4 →
    let c := s.chip
    let h := c.hlPort p
    (c.hlState p ≠ 2 → ∀ w : List Byte, exec (.packetSend p) s = .next s ∧ exec (.ack p w) s = .next s ∧ exec (.nak p w) s = .next s ∧
      exec (.credit p w) s = .next s ∧ exec (.ackTimer p) s = .next s ∧ exec (.replayTimeout p) s = .next s) ∧
    (c.hlState p = 2 →
      (h.replay.length < 128 →
        let pick := match c.vcPick p 0 with | some o => some o | none => (c.drr p 64 h).map (·.1)
        (pick = none → exec (.packetSend p) s = .next s) ∧
        (∀ o, pick = some o → Completes (.packetSend p) s fun t =>
          let g := t.chip.hlPort p
          let n := o.pkt.units (c.authOn p o.pkt.vc)
          s.sameStores t ∧ c.sameMem t.chip ∧ g.txSeq = (h.txSeq + 1) % 4096 ∧ g.queue = h.queue.erase o ∧
          g.replay = h.replay ++ [{ o with pkt := o.pkt.withLink h.txSeq o.pkt.age, mail := none }] ∧
          g.credits = upd h.credits o.pkt.vc (fun k => k - n) ∧ g.rxSeq = h.rxSeq ∧
          (nth c.sec.linkKeys p none = none → o.src = 0 → o.pkt.kind ≠ 8 → g.sent.getLast? =
            some (((o.pkt.withLink h.txSeq (o.pkt.age + c.usUp o.born + 1)).withAuth false).wire [] o.stomp)))) ∧
      (∀ w : List Byte,
        (ctlOk 1 w = false → exec (.ack p w) s = .next s) ∧ (ctlOk 2 w = false → exec (.nak p w) s = .next s) ∧
        (ctlOk 3 w = false ∨ 4 ≤ leAt w 1 1 → exec (.credit p w) s = .next s) ∧
        (ctlOk 1 w = true → Completes (.ack p w) s fun t => s.keeps t [] ∧ t.chip.hlPort p = h.acked (leAt w 1 2 % 4096) ∧
          ∀ q, q ≠ p → t.chip.hlPort q = c.hlPort q) ∧
        (ctlOk 2 w = true → Completes (.nak p w) s fun t =>
          let left := (h.acked (leAt w 1 2 % 4096)).replay
          s.keeps t [0x40040108 + 0x40 * p] ∧ (t.chip.hlPort p).replay = left ∧
          (left ≠ [] → fld (t.chip.reg (0x40040108 + 0x40 * p)) 16 16 = sat 16 (fld (c.reg (0x40040108 + 0x40 * p)) 16 16 + 1))) ∧
        (ctlOk 3 w = true → leAt w 1 1 < 4 → Completes (.credit p w) s fun t => s.keeps t [] ∧
          t.chip.hlPort p = { h with
            credits := upd h.credits (leAt w 1 1) fun k => k + (leAt w 2 2 + 65536 - nth h.seen (leAt w 1 1) 0) % 65536
            seen := upd h.seen (leAt w 1 1) fun _ => leAt w 2 2 })) ∧
      (h.unacked ≠ 0 → Completes (.ackTimer p) s fun t => s.keeps t [] ∧ (t.chip.hlPort p).unacked = 0 ∧
        (t.chip.hlPort p).sent.getLast? = some (ctlWord 1 (leBytes 2 ((h.rxSeq + 4095) % 4096)))) ∧
      Completes (.replayTimeout p) s fun t => s.keeps t [0x40040108 + 0x40 * p] ∧ (t.chip.hlPort p).replay = h.replay ∧
        (t.chip.hlPort p).queue = h.queue ∧ (h.replay = [] → t = s) ∧
        (h.replay ≠ [] → (t.chip.hlPort p).replays = h.replays + 1))

/-- R513, R516, R517, R520, R523, R524, R529 to R531. -/
def Obligations.ReceivedPacketsAreCheckedAndPlaced : Prop :=
  ∀ (p : Nat) (bytes : List Byte) (s : State), p < 4 → s.chip.hl.ports.length = 4 →
    let c := s.chip
    let h := c.hlPort p
    let n := bytes.length
    let crc := crc32 (bytes.take (n - 4))
    let got := leAt bytes (n - 4) 4
    let k : Pkt := ⟨bytes.take 16, slice bytes 16 (32 * (⟨bytes.take 16, []⟩ : Pkt).len)⟩
    (c.hlState p ≠ 2 → exec (.packetReceive p false bytes) s = .next s) ∧
    (c.hlState p = 2 →
      (n < 20 ∨ (got ≠ crc ∧ got ≠ crc ^^^ 0xFFFFFFFF) → Completes (.packetReceive p false bytes) s fun t =>
        s.keeps t [0x40040108 + 0x40 * p] ∧ (t.chip.hlPort p).skipping = true ∧ (t.chip.hlPort p).rxSeq = h.rxSeq ∧
        fld (t.chip.reg (0x40040108 + 0x40 * p)) 0 16 = sat 16 (fld (c.reg (0x40040108 + 0x40 * p)) 0 16 + 1) ∧
        (t.chip.hlPort p).sent.getLast? = some (ctlWord 2 (leBytes 2 ((h.rxSeq + 4095) % 4096))) ∧ t.chip.hl.inbox = c.hl.inbox) ∧
      (20 ≤ n → got = crc ∨ got = crc ^^^ 0xFFFFFFFF → leAt bytes 12 4 % 4096 ≠ h.rxSeq →
        exec (.packetReceive p false bytes) s = .next s) ∧
      (20 ≤ n → leAt bytes 12 4 % 4096 = h.rxSeq → got = crc ^^^ 0xFFFFFFFF → Completes (.packetReceive p false bytes) s fun t =>
        s.keeps t [0x4004010C + 0x40 * p] ∧ (t.chip.hlPort p).rxSeq = (h.rxSeq + 1) % 4096 ∧ t.chip.hl.inbox = c.hl.inbox ∧
        fld (t.chip.reg (0x4004010C + 0x40 * p)) 0 8 = sat 8 (fld (c.reg (0x4004010C + 0x40 * p)) 0 8 + 1)) ∧
      (20 ≤ n → leAt bytes 12 4 % 4096 = h.rxSeq → got = crc → got ≠ crc ^^^ 0xFFFFFFFF →
        (k.wellFormed = false → Completes (.packetReceive p false bytes) s fun t =>
          s.keeps t [0x4004010C + 0x40 * p, 0x40040000] ∧ (t.chip.hlPort p).rxSeq = (h.rxSeq + 1) % 4096 ∧ t.chip.hl.inbox = c.hl.inbox ∧
          bit (t.chip.reg 0x40040000) 2 = true ∧
          fld (t.chip.reg (0x4004010C + 0x40 * p)) 16 8 = sat 8 (fld (c.reg (0x4004010C + 0x40 * p)) 16 8 + 1)) ∧
        (k.wellFormed = true → n = k.size k.auth → k.vc = 1 ∨ k.vc = 3 → Completes (.packetReceive p false bytes) s fun t =>
          (t.chip.hlPort p).rxSeq = (h.rxSeq + 1) % 4096 ∧
          (c.hlId = some k.dst → 3 ≤ k.kind ∨ c.hl.accept = true → s.keeps t [] ∧ t.chip.hl.inbox = c.hl.inbox ++ [⟨p, k, c.clocks.packNs⟩]) ∧
          (c.hlId = some k.dst → k.kind ≤ 2 → c.hl.accept = false → s.keeps t [] ∧ t.chip.hl.inbox = c.hl.inbox) ∧
          (c.hlId ≠ some k.dst → 31 ≤ k.hops → s.keeps t [0x40040020]) ∧
          (∀ q, c.hlId ≠ some k.dst → k.hops < 31 → c.bit 0x40040008 0 = true → c.route k.dst k.vc = some q → s.keeps t [] ∧
            (t.chip.hlPort q).queue = (c.hlPort q).queue ++ [⟨k.hop, 1 + p, c.real, k.units k.auth, false, none⟩]))))

/-- R525 to R527, R531, R543, R544, R546. -/
def Obligations.RequestsAreExecutedAndAnswered : Prop :=
  ∀ s : State, s.chip.hl.ports.length = 4 → s.chip.ecc = [] → (∀ g < 8, nth s.chip.power.grp g .off = .awake) →
    let c := s.chip
    let oldest := fun (n : Nat) => c.hl.inbox.find? fun x => [n].contains x.pkt.kind
    let row := fun (n : Nat) => match n with | 0 => Instr.rd | 1 => Instr.wr | 2 => Instr.fadd | _ => Instr.pwr
    let answered := fun (t : State) (d : Delivered) (r : Pkt) => ∀ q, c.route d.pkt.src d.pkt.vc = some q →
      (t.chip.hlPort q).queue = (c.hlPort q).queue ++ [⟨r, 0, c.real, 0, false, none⟩] ∧
      ∀ p, p ≠ q → (t.chip.hlPort p).queue = (c.hlPort p).queue
    (∀ n < 4, oldest n = none → exec (row n) s = .next s) ∧
    (∀ n < 3, ∀ d, oldest n = some d → 2000 < d.pkt.age → Completes (row n) s fun t => s.keeps t [0x4004001C] ∧
      t.chip.hl.inbox = c.hl.inbox.erase d ∧ (t.chip.reg 0x4004001C).toNat = sat 32 ((c.reg 0x4004001C).toNat + 1)) ∧
    (∀ d, oldest 0 = some d → d.pkt.age ≤ 2000 → d.pkt.addr + d.pkt.bytes ≤ 0x800000 →
      c.gate (43 + d.port) d.pkt.fabricCls d.pkt.addr d.pkt.bytes false = .open → (c.route d.pkt.src d.pkt.vc).isSome → Completes .rd s fun t =>
        s.keeps t [] ∧ t.chip.hl.inbox = c.hl.inbox.erase d ∧
        answered t d (d.pkt.resp d.pkt.dst 0 (c.peekN d.pkt.addr d.pkt.bytes))) ∧
    (∀ d x r, oldest 1 = some d ∨ oldest 2 = some d → d.pkt.age ≤ 2000 →
      (c.hl.dedup.find? fun x => decide (x.src = d.pkt.src ∧ x.tag = d.pkt.tag)) = some x → x.resp = some r → r.dst = d.pkt.src →
      r.vc = d.pkt.vc → (c.route d.pkt.src d.pkt.vc).isSome → Completes (row d.pkt.kind) s fun t =>
        s.keeps t [] ∧ t.chip.hl.dedup = c.hl.dedup ∧ answered t d r) ∧
    (∀ d, oldest 1 = some d → d.pkt.age ≤ 2000 → d.pkt.attempt = 0 → d.pkt.addr + d.pkt.bytes ≤ 0x800000 →
      (∀ x ∈ c.hl.dedup, ¬ (x.src = d.pkt.src ∧ x.tag = d.pkt.tag)) → d.pkt.bytes ≤ d.pkt.pay.length →
      c.gate (43 + d.port) d.pkt.fabricCls d.pkt.addr d.pkt.bytes true = .open → (c.route d.pkt.src d.pkt.vc).isSome → Completes .wr s fun t =>
        s.sameStores t ∧ c.sameRegs t.chip [] ∧ c.wrote t.chip d.pkt.addr (d.pkt.pay.take d.pkt.bytes) ∧ t.chip.hl.dedup = c.hl.dedup ∧
        answered t d (d.pkt.resp d.pkt.dst 0 [])) ∧
    (∀ d, oldest 2 = some d → d.pkt.age ≤ 2000 → d.pkt.addr % 8 = 0 → d.pkt.addr < 0x800000 → c.hl.dedup.length < 4096 →
      (∀ x ∈ c.hl.dedup, ¬ (x.src = d.pkt.src ∧ x.tag = d.pkt.tag)) → (∀ w, c.gate (43 + d.port) d.pkt.fabricCls d.pkt.addr 8 w = .open) →
      (c.route d.pkt.src d.pkt.vc).isSome → Completes .fadd s fun t =>
        let r := d.pkt.resp d.pkt.dst 0 (c.peekN d.pkt.addr 8)
        s.sameStores t ∧ c.sameRegs t.chip [0x40040018] ∧
        c.wrote t.chip d.pkt.addr (leBytes 8 (c.peekLe d.pkt.addr 8 + leAt d.pkt.pay 0 8)) ∧
        t.chip.hl.dedup = c.hl.dedup ++ [⟨d.pkt.src, d.pkt.tag, some r⟩] ∧ answered t d r) ∧
    (∀ d, oldest 3 = some d → d.pkt.addr + d.pkt.bytes ≤ 0x800000 → d.pkt.bytes ≤ d.pkt.pay.length →
      c.gate (43 + d.port) d.pkt.fabricCls d.pkt.addr d.pkt.bytes true = .open → Completes .pwr s fun t =>
        s.sameStores t ∧ c.sameRegs t.chip [] ∧ c.wrote t.chip d.pkt.addr (d.pkt.pay.take d.pkt.bytes) ∧
        ∀ p, (t.chip.hlPort p).queue = (c.hlPort p).queue)

/-- R524, R535, R538 to R542, R544, R546. -/
def Obligations.TransactionsEndAndTagsReturn : Prop :=
  ∀ s : State, s.chip.hl.ports.length = 4 → s.chip.fwRuns = false → (∀ e, 26 ≤ e → e < 30 → (s.chip.engine e).run = none) →
    let c := s.chip
    let open' := fun (d : Delivered) => c.hl.xacts.find? fun x => decide (x.ended = none ∧ 1 ≤ x.sends ∧ x.dest = d.pkt.src ∧ x.tag = d.pkt.tag)
    let closed := fun (t : State) (x : Xact) (q st : Nat) => s.keeps t [0x4004040C + 0x200 * q] ∧ t.chip.hl.xacts = [] ∧
      fld (t.chip.reg (0x4004040C + 0x200 * q)) 0 2 = (if st = 0 then 2 else 3) ∧ fld (t.chip.reg (0x4004040C + 0x200 * q)) 8 8 = st ∧
      t.chip.hl.held = if x.sends ≤ 1 ∧ x.kind ≠ 2 ∧ ¬ (x.kind = 1 ∧ touchesRegs x.addr x.bytes = true) then c.hl.held else c.hl.held ++ [x.tag]
    ((c.hl.inbox.find? fun x => [4].contains x.pkt.kind) = none → exec .resp s = .next s) ∧
    (∀ d, (c.hl.inbox.find? fun x => [4].contains x.pkt.kind) = some d →
      (open' d = none ∨ 2000 < d.pkt.age → Completes .resp s fun t => s.keeps t [0x4004001C] ∧
        (t.chip.reg 0x4004001C).toNat = sat 32 ((c.reg 0x4004001C).toNat + 1) ∧ t.chip.hl.xacts = c.hl.xacts) ∧
      (∀ x, open' d = some x → d.pkt.age ≤ 2000 →
        (d.pkt.addr = 4 ∨ d.pkt.addr = 5 → Completes .resp s fun t => s.keeps t [] ∧
          t.chip.hl.xacts = c.hl.xacts.replace x { x with cause := d.pkt.addr }) ∧
        (d.pkt.addr ≤ 3 → 2 ≤ x.sends → Completes .resp s fun t => s.keeps t [] ∧
          t.chip.hl.xacts = c.hl.xacts.replace x
            { x with ended := some d.pkt.addr, data := d.pkt.pay.take (if d.pkt.len = 0 then 0 else d.pkt.bytes) }) ∧
        (∀ q < 4, d.pkt.addr ≤ 3 → x.sends = 1 → x.owner = .mail q → c.hl.xacts = [x] → Completes .resp s fun t =>
          closed t x q d.pkt.addr))) ∧
    (∀ x, (c.hl.xacts.find? fun x => decide (x.ended = none ∧ 1 ≤ x.sends)) = some x →
      (3 < x.sends → Completes .transactionTimeout s fun t => s.keeps t [] ∧
        t.chip.hl.xacts = c.hl.xacts.replace x { x with ended := some x.cause }) ∧
      (x.sends ≤ 3 → c.hlId = none ∨ c.hlId = some x.dest → Completes .transactionTimeout s fun t => s.keeps t [] ∧
        t.chip.hl.xacts = c.hl.xacts.erase x ++ [{ x with sends := x.sends + 1, cause := 5 }]) ∧
      (∀ id q, x.sends ≤ 3 → c.hlId = some id → id ≠ x.dest → c.route (x.packet id).dst (x.packet id).vc = some q →
        Completes .transactionTimeout s fun t => s.keeps t [] ∧
          t.chip.hl.xacts = c.hl.xacts.erase x ++ [{ x with sends := x.sends + 1 }] ∧
          (t.chip.hlPort q).queue = (c.hlPort q).queue ++ [⟨x.packet id, 0, c.real, 0, false, none⟩])) ∧
    ((c.hl.xacts.find? fun x => decide (x.ended = none ∧ 1 ≤ x.sends)) = none → exec .transactionTimeout s = .next s) ∧
    (∀ x q st, q < 4 → st < 256 → c.hl.xacts = [x] → x.ended = some st → x.owner = .mail q → Completes .transactionComplete s fun t =>
      closed t x q st) ∧
    ((∀ x ∈ c.hl.xacts, x.ended = none) → exec .transactionComplete s = .next s) ∧
    ((∀ x ∈ c.hl.xacts, x.tag ≠ 65536) → Completes .tagReturn s fun t => s.keeps t [] ∧ t.chip.hl = { c.hl with held := c.hl.held.drop 1 }) ∧
    (Completes .dedupExpiry s fun t => s.keeps t [0x40040018] ∧ t.chip.hl = { c.hl with dedup := c.hl.dedup.drop 1 } ∧
      fld (t.chip.reg 0x40040018) 0 13 = (c.hl.dedup.length - 1) % 8192) ∧
    (Completes (.requestAcceptOpen false) s fun t => s.keeps t [] ∧ t.chip.hl = { c.hl with accept := true }) ∧
    (c.hl.xacts = [] → Completes (.requestAcceptOpen true) s fun t => s.keeps t [] ∧
      t.chip.hl = { c.hl with accept := true, originate := true })

/-- R532 to R537, R541, R568, R569. -/
def Obligations.MailboxesAndEnumerationSendAndAnswer : Prop :=
  ∀ s : State, s.chip.hl.ports.length = 4 →
    let c := s.chip
    let hdr := fun (q : Nat) => 0x40040400 + 0x200 * q
    let stat := fun (q : Nat) => 0x4004040C + 0x200 * q
    (∀ (port q id : Nat) (v : Word), q < 4 → c.canStore port (hdr q + 8) → v = 1 → fld (c.reg (stat q)) 0 2 ≠ 1 → c.hlId = some id →
      let vc := c.fld (hdr q) 4 2
      let dst := c.fld (hdr q) 16 10
      let n := c.fld (hdr q) 8 8 + 1
      let pay := ((List.range 64).flatMap fun i => leBytes 4 (c.act (hdr q + 0x100 + 4 * i)).toNat).take n
      let k := Pkt.make 3 vc 0 dst (c.portCls port) id 0 (c.act (hdr q + 4)).toNat n pay
      (c.fld (hdr q) 0 4 ≠ 1 → exec (.mbSendWr port q v) s = .next s) ∧ (c.fld (hdr q) 0 4 ≠ 3 → exec (.mbSendPwr port q v) s = .next s) ∧
      (c.fld (hdr q) 0 4 = 1 → vc ≠ 1 → c.tagsUsed.length < 65536 → Completes (.mbSendWr port q v) s fun t =>
        s.keeps t [stat q] ∧ fld (t.chip.reg (stat q)) 0 2 = 1 ∧ ∃ tag < 65536, ∃ cause, tag ∉ c.tagsUsed ∧
          t.chip.hl.xacts = c.hl.xacts ++ [⟨tag, dst, 1, vc, c.portCls port, (c.act (hdr q + 4)).toNat, n, pay, if c.hl.originate then 1 else 0,
            cause, none, [], .mail q⟩]) ∧
      (c.fld (hdr q) 0 4 = 3 → vc ≠ 2 →
        (dst = id ∨ c.route k.dst k.vc = none → Completes (.mbSendPwr port q v) s fun t =>
          s.keeps t [stat q] ∧ fld (t.chip.reg (stat q)) 0 2 = 3 ∧ fld (t.chip.reg (stat q)) 8 8 = 5 ∧ t.chip.hl = c.hl) ∧
        (∀ p, dst ≠ id → c.route k.dst k.vc = some p → Completes (.mbSendPwr port q v) s fun t =>
          s.keeps t [stat q] ∧ fld (t.chip.reg (stat q)) 0 2 = 1 ∧
          (t.chip.hlPort p).queue = (c.hlPort p).queue ++ [⟨k, 0, c.real, 0, false, some q⟩]))) ∧
    (∀ (port : Nat), c.canStore port 0x40040C04 →
      (c.hlId ≠ none → Completes (.eqEnable port 1) s fun t => s.keeps t [0x40040C04, 0x40040C0C] ∧ bit (t.chip.reg 0x40040C04) 0 = true ∧
        fld (t.chip.reg 0x40040C0C) 0 8 = 0) ∧
      (c.hlId = none → Completes (.eqEnable port 1) s fun t => s.keeps t [0x40040000] ∧ bit (t.chip.reg 0x40040000) 0 = true)) ∧
    (∀ (i p : Nat), i = fld (c.reg 0x40040C0C) 0 8 → c.ecc = [] → c.eqAt 256 ≤ 0x800000 → (∀ g < 8, nth c.power.grp g .off = .awake) →
      (c.bit 0x40040C04 0 = false → exec .eqSend s = .next s) ∧
      (c.bit 0x40040C04 0 = true → c.fld 0x40040C08 0 8 = (i + 1) % 256 → c.peekLe (c.eqAt i + 1) 1 = 1 → p = c.peekLe (c.eqAt i + 0x10) 1 % 4 →
        c.peekLe (c.eqAt i) 1 = 5 ∨ c.peekLe (c.eqAt i) 1 = 6 → Completes .eqSend s fun t =>
          s.sameStores t ∧ c.sameRegs t.chip [0x40040C0C] ∧ fld (t.chip.reg 0x40040C0C) 0 8 = (i + 1) % 256 ∧
          (c.hlState p ≠ 2 → c.wrote t.chip (c.eqAt i + 1) [5] ∧ t.chip.hl = c.hl) ∧
          (c.hlState p = 2 → c.wrote t.chip (c.eqAt i + 1) [2] ∧ t.chip.hl.eqSent = c.hl.eqSent ++ [i] ∧
            (t.chip.hlPort p).queue.length = (c.hlPort p).queue.length + 1)) ∧
      (∀ k rest, c.hl.eqSent = k :: rest → k < 256 → Completes .eqEntryTimeout s fun t =>
        s.sameStores t ∧ c.sameRegs t.chip [0x40040C0C] ∧ c.wrote t.chip (c.eqAt k + 1) [4] ∧ t.chip.hl.eqSent = rest) ∧
      (∀ d, (c.hl.inbox.find? fun x => [7].contains x.pkt.kind) = some d →
        (2000 < d.pkt.age ∨ d.pkt.tag < 0xFF00 ∨ d.pkt.tag - 0xFF00 ∉ c.hl.eqSent → Completes .enumResp s fun t => s.keeps t [0x4004001C] ∧
          t.chip.hl.eqSent = c.hl.eqSent) ∧
        (d.pkt.age ≤ 2000 → 0xFF00 ≤ d.pkt.tag → d.pkt.tag - 0xFF00 ∈ c.hl.eqSent → 36 ≤ d.pkt.pay.length → Completes .enumResp s fun t =>
          let a := c.eqAt (d.pkt.tag - 0xFF00)
          s.sameStores t ∧ c.sameRegs t.chip [0x40040C0C] ∧ t.chip.hl.eqSent = c.hl.eqSent.erase (d.pkt.tag - 0xFF00) ∧
          t.chip.peekLe (a + 1) 1 = 3 ∧ t.chip.peekLe (a + 8) 1 = d.pkt.addr % 256 ∧
          t.chip.peekN (a + 0x50) 12 = d.pkt.pay.take 8 ++ slice d.pkt.pay 32 4))) ∧
    (∀ d a, (c.hl.inbox.find? fun x => [5].contains x.pkt.kind) = some d → d.pkt.age ≤ 2000 → a = d.pkt.addr → hlNamed a = true →
      Completes .enumRd s fun t => ∃ r, r = d.pkt.enumResp 0 (c.reg (0x40040000 + a)) ∧ s.keeps t [] ∧
        (c.hlState (pathAt r.pay 0 0) = 2 → (t.chip.hlPort (pathAt r.pay 0 0)).queue =
          (c.hlPort (pathAt r.pay 0 0)).queue ++ [⟨r, 0, c.real, 0, false, none⟩])) ∧
    (∀ d, (c.hl.inbox.find? fun x => [6].contains x.pkt.kind) = some d → d.pkt.age ≤ 2000 →
      (c.bit 0x40040008 1 = false → Completes .enumWr s fun t => s.keeps t []) ∧
      (c.bit 0x40040008 1 = true → d.pkt.addr = 4 → leAt d.pkt.pay 32 4 / 1024 % 2 ^ 21 = 0 → Completes .enumWr s fun t =>
        s.keeps t [0x40040004] ∧ fld (t.chip.reg 0x40040004) 0 10 = leAt d.pkt.pay 32 4 % 1024 ∧
        bit (t.chip.reg 0x40040004) 31 = (leAt d.pkt.pay 32 4).testBit 31))

/-- R553 to R556. -/
def Obligations.TimeExchangesAlignPackTime : Prop :=
  ∀ (p : Nat) (s : State), p < 4 → s.chip.hl.ports.length = 4 →
    let c := s.chip
    let shown := [0x4008001C, 0x40040014]
    (c.timePort = none → Completes .tsyncSend s fun t => s.keeps t shown ∧ t.chip.hl.ports = c.hl.ports) ∧
    (c.timePort = some p → Completes .tsyncSend s fun t => s.keeps t shown ∧ ∃ k : Pkt, k.kind = 8 ∧ k.vc = 0 ∧
      (t.chip.hlPort p).queue = (c.hlPort p).queue ++ [⟨k, 0, c.real, 0, false, none⟩]) ∧
    (∀ d, (c.hl.inbox.find? fun x => [8].contains x.pkt.kind) = some d → d.port = p →
      (c.timePort ≠ some p → c.timeUsable p = true → Completes .tsync s fun t => s.keeps t shown ∧ ∃ k : Pkt, k.kind = 8 ∧
        leAt k.pay 0 8 = d.stamp % 2 ^ 64 ∧ (t.chip.hlPort p).queue = (c.hlPort p).queue ++ [⟨k, 0, c.real, 0, false, none⟩]) ∧
      (∀ t1, c.timePort = some p → c.hl.t1 = some t1 → Completes .tsync s fun t =>
        let z := sext 64 (tc 64 ((leAt d.pkt.pay 0 8 : Int) - t1 - ((d.stamp : Int) - leAt d.pkt.pay 8 8)))
        let inside : Prop := z.natAbs ≤ syncBound (fld (c.reg (hlStat p)) 3 2)
        let was := bit (c.reg 0x40040014) 0
        s.keeps t (0x4008000C :: shown) ∧ fld (t.chip.reg 0x40040014) 16 16 = sat 16 (z.natAbs / 2) ∧
        (inside → t.chip.hl.good = c.hl.good + 1 ∧ t.chip.hl.bad = 0 ∧
          bit (t.chip.reg 0x40040014) 0 = (was || decide (16 ≤ c.hl.good + 1))) ∧
        (¬ inside → t.chip.hl.good = 0 ∧ t.chip.hl.bad = c.hl.bad + 1 ∧ bit (t.chip.reg 0x40040014) 0 = (was && decide (c.hl.bad + 1 < 4))) ∧
        (z.natAbs ≤ 20000 → t.chip.clocks = c.clocks ∧ (sext 24 (fld (t.chip.reg 0x4008000C) 0 24)).natAbs ≤ 200000) ∧
        (20000 < z.natAbs → t.chip.reg 0x4008000C = c.reg 0x4008000C ∧
          (t.chip.clocks.packNs * 2 ^ 32 + t.chip.clocks.packFrac : Nat) =
            ((c.clocks.packNs * 2 ^ 32 + c.clocks.packFrac : Nat) + z * 2 ^ 31) % 2 ^ 96)))

/-- R559, R561. -/
def Obligations.MessagesAreHeardOnce : Prop :=
  ∀ (i : Instr) (src type : Nat) (k : SysConf) (s : State), msgRow i = some (src, type) → src < 1024 →
    let b := s.chip.peekN (k.inbox + 64 * src) 64
    let new := Sparse.find src s.chip.fw.heard ≠ some (leAt b 8 4, leAt b 4 4)
    let wrong := leAt b 0 1 = 0 ∨ 12 < leAt b 0 1 ∨ leAt b 1 1 ≠ 1 ∨ leAt b 2 2 ≠ src
    (s.chip.fwRuns = false → exec i s = .next s) ∧
    (s.chip.fw.conf = some k → ¬ new → exec i s = .next s) ∧
    (s.chip.fw.conf = some k → s.chip.fwRuns = true → new → ¬ wrong → leAt b 0 1 ≠ type → exec i s = .next s) ∧
    (s.chip.fw.conf = some k → s.chip.fwRuns = true → new → wrong → Completes i s fun t =>
      s.keeps t [0x40090000] ∧ t.chip.fw = (s.chip.heardMsg src b).fw ∧ t.chip = (s.chip.heardMsg src b).fwLog 0x59 src ∧
      (s.chip.log.buf.length ≤ 4 → ⟨36, 0x59, src, s.chip.clocks.rtc⟩ ∈ t.chip.log.buf))

/-- R570 step 8, R572, R574, R585, R586, R588, R589. -/
def Obligations.MembersFollowTheManager : Prop :=
  (∀ (src : Nat) (k : SysConf) (b : List Byte) (s : State), s.chip.hears src 1 k b →
    let c := s.chip.heardMsg src b
    let term := leAt b 8 4
    Completes (.heartbeat src) s fun t => s.sameStores t ∧
      (term < c.fw.term → t.chip = c) ∧
      (c.fw.term ≤ term → t.chip.fw.term = term ∧ t.chip.fw.active = idAt b 0x10 ∧ t.chip.fw.standby = idAt b 0x12 ∧
        t.chip.fw.committed = some (max (c.fw.committed.getD 0) (leAt b 0x14 4)) ∧
        (c.isMgr = false ∨ term ≤ c.mgr.term → s.keeps t [] ∧ t.chip.mgr = c.mgr) ∧
        (c.isMgr = true → c.mgr.term < term → t.chip.mgr.term = term ∧
          t.chip.mgr.state = if c.mgr.state = .active ∨ c.mgr.state = .candidate then .standby else c.mgr.state))) ∧
  (∀ (src : Nat) (k : SysConf) (b : List Byte) (s : State), s.chip.hears src 5 k b → Completes (.schedule src) s fun t =>
    let c := s.chip.heardMsg src b
    s.sameStores t ∧
    t.chip = (({ c with fw.sched := some (leAt b 0x10 4), fw.buddy := idAt b 0x14, fw.standby := idAt b 0x16 }).dropMirrors k
      (idAt b 0x14)).discShow) ∧
  (∀ (src chem : Nat) (k : SysConf) (b : List Byte) (s : State), s.chip.hears src 6 k b → Completes (.delegate src chem) s fun t =>
    let c := s.chip.heardMsg src b
    let ref := leAt b 0x10 2
    let st := c.takeStatus k ref chem
    let own : Taken := ⟨ref, leAt b 0x16 2, decide (leAt b 0x13 1 = 1), leAt b 0x14 2, leAt b 0x18 4⟩
    let withdraws := ∃ x ∈ c.fw.taken, x.ref = ref ∧ x.switch = leAt b 0x18 4
    s.sameStores t ∧
    (leAt b 0x12 1 = 0 → ∃ d, t.chip = d.fwTell src 7 (leBytes 2 ref ++ leBytes 1 st) ∧
      (st ≠ 0 → d = c) ∧ (st = 0 → d = { c with fw.taken := (c.fw.taken.filter fun x => decide (x.ref ≠ ref)) ++ [own] })) ∧
    (leAt b 0x12 1 ≠ 0 → s.keeps t [] ∧
      (withdraws → t.chip.fw.released = c.fw.released ∧ ∀ x, x ∈ t.chip.fw.taken ↔ x ∈ c.fw.taken ∧ x.ref ≠ ref) ∧
      (¬ withdraws → t.chip.fw.taken = c.fw.taken ∧ ⟨ref, decide (leAt b 0x13 1 = 1), leAt b 0x18 4⟩ ∈ t.chip.fw.released ∧
        ∀ x : Released, x.ref ≠ ref → (x ∈ t.chip.fw.released ↔ x ∈ c.fw.released)))) ∧
  (∀ (src : Nat) (brought : List (Nat × Option (List Byte))) (k : SysConf) (b : List Byte) (s : State), s.chip.hears src 11 k b →
    Completes (.refresh src brought) s fun t =>
      let c := s.chip.heardMsg src b
      let ref := leAt b 0x10 2
      let named := fun (i : Nat) => ∃ j < leAt b 0x12 1, i = 20 + ref / 1024 % 32 + j
      s.sameStores t ∧
      (brought = [] → s.keeps t [] ∧
        ∀ i, i ∈ t.chip.fw.resync ↔ i ∈ c.fw.resync ∨ (named i ∧ i < 40 ∧ c.holds k i 1 (ref % 1024) = true)) ∧
      (∀ x i, brought = [(i, some x)] → leAt b 0x12 1 = 1 → named i → i < 40 → c.holds k i 1 (ref % 1024) = true → x.length = 2048 →
        ctxAt k i + 2048 ≤ 0x800000 → s.chip.ecc = [] →
        s.chip.wrote t.chip (ctxAt k i) (splice x 5 (leBytes 1 1)) ∧ i ∉ t.chip.fw.resync))

/-- R103, R107, R562, R579, R580, R592. -/
def Obligations.SnapshotsLocketsAndResetCommand : Prop :=
  (∀ (src : Nat) (k : SysConf) (b : List Byte) (s : State), s.chip.hears src 2 k b →
    let c := s.chip.heardMsg src b
    let buf := leAt b 0x14 1
    let good := buf < 2 ∧ leAt b 0x15 4 ≤ 0x80000 ∧ crc32 (c.peekN (epochBuf k buf) (leAt b 0x15 4)) = leAt b 0x19 4
    let reply := fun (n : Nat) => leBytes 4 (leAt b 0x10 4) ++ leBytes 1 n
    Completes (.prepare src) s fun t => s.sameStores t ∧ (c.mgr.state ≠ .standby → t.chip = c) ∧
      (c.mgr.state = .standby →
        (leAt b 8 4 < c.mgr.term → t.chip = c.fwTell src 3 (reply 2)) ∧
        (c.mgr.term ≤ leAt b 8 4 → ¬ good → t.chip = c.fwTell src 3 (reply 1)) ∧
        (c.mgr.term ≤ leAt b 8 4 → good →
          t.chip = ({ c with mgr.prepared := some (buf, leAt b 0x10 4) }).fwTell src 3 (reply 0)))) ∧
  (∀ (src : Nat) (k : SysConf) (b : List Byte) (s : State), s.chip.hears src 4 k b → Completes (.commit src) s fun t =>
    let c := s.chip.heardMsg src b
    let mine := c.mgr.state = .standby ∧ c.mgr.prepared = some (leAt b 0x14 1, leAt b 0x10 4)
    let snap := c.peekN (epochBuf k (leAt b 0x14 1)) 0x80000
    s.keeps t [] ∧ (¬ mine → t.chip = c) ∧
    (mine → t.chip.mgr.adopted = some (leAt b 0x10 4) ∧ t.chip.mgr.committed = some (leAt b 0x10 4) ∧
      t.chip.mgr.sched = leAt snap 0x16 4 ∧ t.chip.mgr.cells.length = leAt snap 0x12 4 % 65536 ∧
      (∀ d ∈ t.chip.mgr.devs, d.id < 1024 ∧ d.serial = leAt snap (64 + 64 * d.id) 8 ∧ d.nextSeq = leAt snap (64 + 64 * d.id + 28) 4) ∧
      t.chip.mgr.state = .standby ∧ t.chip.mgr.term = c.mgr.term)) ∧
  (∀ (src : Nat) (k : SysConf) (b : List Byte) (s : State), s.chip.hears src 9 k b → Completes (.locketReq src) s fun t =>
    let c := s.chip.heardMsg src b
    let dest := leAt b 0x20 2 % 1024
    let held := c.trayLockets k (slice b 0x10 16)
    let base := match c.mgr.dev dest with | some d => d.locketIn | none => k.locketIn
    s.sameStores t ∧ (held ≠ [] → t.chip =
      ({ c with fw.copies := held.map fun (x : Nat × List Byte) => (⟨dest, base + 4096 * (x.1 % 20), x.2⟩ : FwCopy) }).fwTell dest 10
        (padTo 16 (slice b 0x10 16) ++ leBytes 1 held.length ++ leBytes 4 (c.restSent dest)))) ∧
  (∀ (src : Nat) (volts : List Nat) (amps : Nat) (k : SysConf) (b : List Byte) (s : State), s.chip.hears src 10 k b →
    let c := s.chip.heardMsg src b
    let mine := c.fw.tagStat = 0 ∧ slice b 0x10 16 = slice c.fw.tag 8 16
    Completes (.locketSent src volts amps) s fun t => s.sameStores t ∧ (¬ mine → t.chip = c) ∧
      (mine → c.fw.started = true → s.keeps t [] ∧
        ∀ tap l, tap < 20 → tap < c.fw.series → ctxLive (c.ctx k tap) = true → 2 ≤ leAt (c.ctx k tap) 0x0B 1 →
          c.stagedLocket k tap = some l → Sparse.find tap t.chip.fw.late = some l.ctx)) ∧
  (∀ (src : Nat) (k : SysConf) (b : List Byte) (s : State), s.chip.hears src 12 k b → s.chip.power.inReset = false →
    Completes (.resetCmd src) s fun t => s.sameStores t ∧ (s.chip.fw.active ≠ some src → t.chip = s.chip.heardMsg src b) ∧
      (s.chip.fw.active = some src → s.chip.systemReset t.chip))

/-- R17 to R21, R565, R566, R584, R587. -/
def Obligations.ManagersResolveAndTakeOver : Prop :=
  (∀ (w : List Seen) (activeId : Option Nat) (k : SysConf) (s : State), s.chip.fw.conf = some k → s.chip.fwRuns = true →
    let ms := ((w.drop 1).filter dGood).filter dMgr
    let top := ((seenAt w 0 :: (w.drop 1).filter dGood).map dTerm).foldl max 0
    let has := fun (n : Nat) => ∃ z ∈ ms, dState z = n
    let outranked := ∃ z ∈ ms, dState z = 1 ∧ (dRole z < s.chip.boot.role ∨ (dRole z = s.chip.boot.role ∧ dSerial z < leNat s.chip.ownSerial))
    (s.chip.isMgr = false ∨ s.chip.mgr.state ≠ .none → exec (.managerCandidate w activeId) s = .next s) ∧
    (s.chip.isMgr = true → s.chip.mgr.state = .none → Completes (.managerCandidate w activeId) s fun t => s.sameStores t ∧
      (has 2 → has 3 → t.chip.mgr.state = .excluded) ∧
      (has 2 ∧ ¬ has 3 ∨ ¬ has 2 ∧ outranked → t.chip.mgr.state = .standby ∧ t.chip.mgr.term = top) ∧
      (¬ has 2 → ¬ outranked → s.chip.boot.role = 1 →
        t.chip.mgr.state = .active ∧ t.chip.mgr.term = top + 1 ∧ t.chip.fw.active = some 0 ∧ t.chip.fw.term = top + 1) ∧
      (¬ has 2 → ¬ outranked → s.chip.boot.role = 2 → t.chip.mgr.state = .candidate ∧ t.chip.mgr.term = 0))) ∧
  (∀ (k : SysConf) (s : State), s.chip.fw.conf = some k → s.chip.fwRuns = true →
    let candidate := s.chip.isMgr = true ∧ s.chip.mgr.state = .candidate
    (¬ candidate → exec .discoveryWindowExpiry s = .next s) ∧
    (candidate → Completes .discoveryWindowExpiry s fun t => s.sameStores t ∧ t.chip.mgr.state = .active ∧
      t.chip.mgr.term = (s.chip.mgr.seen.map dTerm).foldl max 0 + 1)) ∧
  (∀ (k : SysConf) (s : State), s.chip.fw.conf = some k → s.chip.fwRuns = true →
    let standby := s.chip.isMgr = true ∧ s.chip.mgr.state = .standby ∧ s.chip.hlId ≠ none
    (¬ standby → exec .managerLost s = .next s) ∧
    (standby → Completes .managerLost s fun t => s.sameStores t ∧ t.chip.mgr.state = .active ∧
      t.chip.mgr.term = (s.chip.mgr.term + 1) % 2 ^ 32 ∧ t.chip.mgr.standby = none ∧ t.chip.mgr.moves = [] ∧ t.chip.mgr.snap = none))

/-- R567, R578 to R583, R588. -/
def Obligations.ActiveManagerRunsEpochsAndMoves : Prop :=
  (∀ (i : Instr) (k : SysConf) (s : State), s.chip.fw.conf = some k → s.chip.active = false →
    (i = .heartbeatTick ∨ (∃ c, i = .epochEnd c) ∨ (∃ r t m l w h, i = .delegation r t m l w h)) → exec i s = .next s) ∧
  (∀ (k : SysConf) (id : Nat) (s : State), s.chip.fw.conf = some k → s.chip.fwRuns = true → s.chip.active = true → s.chip.hlId = some id →
    s.chip.mgr.moves = [] → s.chip.fw.out = [] → (∀ q < 4, s.chip.mbBusy q = true) → Completes .heartbeatTick s fun t =>
      s.keeps t [] ∧ t.chip.fw.out.map (·.dest) = s.chip.members ∧
      ∀ o ∈ t.chip.fw.out, o.msg = true ∧ leAt o.data 0 1 = 1 ∧ leAt o.data 2 2 = id % 65536 ∧ leAt o.data 8 4 = s.chip.mgr.term % 2 ^ 32) ∧
  (∀ (copied : Bool) (k : SysConf) (s : State), s.chip.fw.conf = some k → s.chip.fwRuns = true → s.chip.active = true →
    s.chip.mgr.snap = none →
    let e := (epochOf k s.chip.fullUs + 2 ^ 32 - 1) % 2 ^ 32
    Completes (.epochEnd copied) s fun t => s.sameStores t ∧
      (s.chip.mgr.standby = none → s.keeps t [] ∧ t.chip.mgr = { s.chip.mgr with committed := some e }) ∧
      (∀ d, s.chip.mgr.standby = some d →
        let b := s.chip.snapshot e
        let c : Chip := { s.chip with
          mgr.snap := some ⟨e, s.chip.mgr.buf, false⟩, fw.copies := [⟨d, epochBuf k s.chip.mgr.buf, b⟩] }
        (copied = false → t.chip = c) ∧
        (copied = true → t.chip = c.fwTell d 2 (leBytes 4 e ++ leBytes 1 s.chip.mgr.buf ++ leBytes 4 b.length ++ leBytes 4 (crc32 b))))) ∧
  (∀ (src : Nat) (k : SysConf) (b : List Byte) (n : MSnap) (s : State), s.chip.hears src 3 k b → s.chip.mgr.snap = some n →
    let c := s.chip.heardMsg src b
    let due := c.active = true ∧ n.commitSent = false ∧ n.epoch = leAt b 0x10 4 ∧ leAt b 0x14 1 = 0 ∧ c.mgr.standby = some src
    Completes (.prepared src) s fun t => s.sameStores t ∧ (¬ due → t.chip = c) ∧
      (due → t.chip = ({ c with mgr.snap := some { n with commitSent := true } }).fwTell src 4 (leBytes 4 n.epoch ++ leBytes 1 n.buf))) ∧
  (∀ (ref target slot switch chem : Nat) (remote : Bool) (k : SysConf) (x : MCell) (s : State), s.chip.fw.conf = some k →
    s.chip.fwRuns = true → s.chip.active = true → (s.chip.mgr.cells.find? fun x => decide (x.ref = ref)) = some x → target ∈ s.chip.members →
    s.chip.hlId ≠ some target → x.host ≠ target → (∀ m ∈ s.chip.mgr.moves, m.ref ≠ ref) →
    atOrAfter switch (s.chip.packUs + 2 * s.chip.period k) = true → Completes (.delegation ref target remote slot switch chem) s fun t =>
      let m : MMove := ⟨ref, target, x.host, remote, slot, switch % 2 ^ 32, false⟩
      s.sameStores t ∧ t.chip = ({ s.chip with mgr.moves := s.chip.mgr.moves ++ [m] }).fwTell target 6 (m.body 0)) ∧
  (∀ (src : Nat) (k : SysConf) (b : List Byte) (m : MMove) (s : State), s.chip.hears src 7 k b → s.chip.active = true →
    (s.chip.mgr.moves.find? fun m => decide (m.ref = leAt b 0x10 2 ∧ m.target = src ∧ m.accepted = false)) = some m →
    Completes (.delegateAck src) s fun t =>
      let c := s.chip.heardMsg src b
      let rest := c.mgr.moves.erase m
      s.sameStores t ∧ (leAt b 0x12 1 ≠ 0 → t.chip = { c with mgr.moves := rest }) ∧
      (leAt b 0x12 1 = 0 → t.chip = ({ c with mgr.moves := rest ++ [{ m with accepted := true }] }).tellRelease m m.source)) ∧
  (∀ (src : Nat) (k : SysConf) (b : List Byte) (s : State), s.chip.hears src 8 k b → s.chip.active = true → Completes (.newPeer src) s fun t =>
    s.keeps t [] ∧ ∀ x, x ∈ t.chip.mgr.walks ↔ x ∈ s.chip.mgr.walks ∨ x = (src, leAt b 0x10 1))

/-- R570, R574 to R577, R590, R732, R735. -/
def Obligations.ActiveManagerCollectsAndEnumerates : Prop :=
  (∀ (id : Nat) (k : SysConf) (d : MDev) (s : State), s.chip.fw.conf = some k → s.chip.fwRuns = true → s.chip.active = true →
    s.chip.mgr.dev id = some d →
    let b := s.chip.peekN (collectAt k id) 1024
    let right := d.state = 1 ∧ batchOk id b = true ∧ leAt b 8 4 = d.nextSeq
    (¬ right → exec (.resultBatchAccept id) s = .next s) ∧
    (right → Completes (.resultBatchAccept id) s fun t => s.sameStores t ∧
      t.chip = (s.chip.onDev id fun d => { d with
        nextSeq := (d.nextSeq + 1) % 2 ^ 32, fails := 0, lates := if batchLate b then d.lates + 1 else 0 }).checkBatch k id d.nextSeq
          (leAt b 6 1) false)) ∧
  (∀ (id : Nat) (got : Option (List Byte)) (seqs : List Nat) (k : SysConf) (d : MDev) (s : State), s.chip.fw.conf = some k →
    s.chip.fwRuns = true → s.chip.active = true → s.chip.mgr.dev id = some d → d.state = 1 →
    Completes (.batchMissingRead id got seqs) s fun t => s.sameStores t ∧
      (got = none → d.fails < 2 → t.chip = s.chip.onDev id fun d => { d with fails := d.fails + 1 }) ∧
      (got = none → 2 ≤ d.fails → t.chip = (s.chip.onDev id fun d => { d with fails := d.fails + 1 }).loseWorker id ∧
        ∃ e, t.chip.mgr.dev id = some e ∧ e.state = 2) ∧
      (∀ b, got = some b → batchOk id b = false ∨ (s.chip.mgr.again.contains (id, leAt b 8 4) = false ∧ leAt b 8 4 ≠ d.nextSeq ∧
        atOrAfter (leAt b 8 4) d.nextSeq = false) → t.chip = s.chip.onDev id fun d => { d with fails := 0 })) ∧
  (∀ (reads : List (Nat × List Byte × List Byte)) (a b : Nat) (k : SysConf) (s : State), s.chip.fw.conf = some k → s.chip.fwRuns = true →
    s.chip.active = true → s.chip.mgr.nextPair = some (a, b) → (∀ x ∈ reads, diverged x.2.1 x.2.2 = false) →
    Completes (.mirrorCompare reads) s fun t => t = { s with chip := { s.chip with mgr.pair := a } }) ∧
  (∀ (w : List Seen) (keys : List KeyTry) (olds : List (Nat × Option Nat × Bool)) (k : SysConf) (own : Nat) (s : State),
    s.chip.fw.conf = some k → s.chip.hlId = some own → s.chip.fwRuns = true → s.chip.active = true →
    Completes (.enumeration w keys olds) s fun t => s.sameStores t ∧
      t.chip.mgr.sched = (s.chip.mgr.sched + 1) % 2 ^ 32 ∧ t.chip.mgr.seen = w ∧ t.chip.mgr.walks = [] ∧
      t.chip.mgr.standby = (otherMgr w).bind (idOf (s.chip.mgr.assign own w)) ∧
      ∀ x ∈ s.chip.mgr.assign own w, ∃ d ∈ t.chip.mgr.devs, d.id = x.2 ∧ d.state = 1 ∧ d.serial = dSerial (seenAt w x.1)) ∧
  (∀ (keys : List KeyTry) (k : SysConf) (s : State), s.chip.fw.conf = some k → s.chip.fwRuns = true → s.chip.active = true →
    Completes (.linkKeySweep keys) s fun t => s.sameStores t ∧ (keys = [] → t = s) ∧
      (∀ x, keys = [x] → s.chip.hlId ≠ some x.dev → x.ok1 = false → x.ok2 = false → t.chip = s.chip.fwLog 0x5A x.dev) ∧
      (∀ x, keys = [x] → s.chip.hlId ≠ some x.dev → x.ok1 = true ∨ x.ok2 = true → t = s)) ∧
  (∀ (i : Instr) (k : SysConf) (s : State), s.chip.fw.conf = some k → s.chip.active = false →
    (∃ a b c r w y o, i = .resultBatchAccept a ∨ i = .batchMissingRead a b c ∨ i = .mirrorCompare r ∨ i = .enumeration w y o ∨
      i = .linkKeySweep y) → exec i s = .next s)

/-- R594, R596, R597, R602; REC follows log entry 17. -/
def Obligations.CanFramesAreFilteredAndPlaced : Prop :=
  ∀ (n : Nat) (e : List Byte) (s : State), n < 2 → 16 ≤ e.length → s.chip.ecc = [] →
    let c := s.chip
    let fmt := leAt e 4 1 % 4
    let hears : Prop := c.dom 3 = true ∧ c.canMode n ≠ 0 ∧ c.canMode n ≠ 4 ∧ c.canOff n = false ∧ (fmt = 2 → c.canXl n = true)
    let fltId := fun (f : Nat) => (c.act (canReg n (0x100 + 8 * f))).toNat
    let fltMask := fun (f : Nat) => canReg n (0x104 + 8 * f)
    let takes := fun (f : Nat) => c.bit (fltMask f) 31 = true ∧ (fltId f / 2 ^ 30 = 0 ∨ fltId f / 2 ^ 30 = fmt + 1) ∧
      (fltId f ^^^ leAt e 0 4) &&& ((c.act (fltMask f)).toNat % 2 ^ 29) = 0
    (¬ hears → exec (.canFrameReceive n e) s = .next s) ∧
    (hears → Completes (.canFrameReceive n e) s fun t =>
      let put := fun (filt r : Nat) =>
        let ring := canReg n r
        let wr := (c.reg (ring + 8)).toNat
        let slot := c.slotAt ring wr
        let entry := splice (splice e 5 (leBytes 1 filt)) 8 (leBytes 4 (c.clocks.packNs % 2 ^ 32))
        let fits := c.bit (ring + 4) 0 = true ∧ c.ringNext ring wr ≠ (c.act (ring + 12)).toNat ∧ e.length ≤ c.slotSize ring
        (¬ fits → s.keeps t [canReg n 0, canReg n 0x18, ring + 4] ∧
          fld (t.chip.reg (ring + 4)) 16 16 = sat 16 (fld (c.reg (ring + 4)) 16 16 + 1)) ∧
        (fits → slot + e.length ≤ 0x800000 → c.gate 48 (c.portCls 48) slot e.length true = .open →
          (∀ l ∈ linesOf slot e.length, nth c.power.grp (grpOf l) .off = .awake) →
          s.sameStores t ∧ c.wrote t.chip slot entry ∧ c.sameRegs t.chip [canReg n 0, canReg n 0x18, ring + 8] ∧
          (t.chip.reg (ring + 8)).toNat = c.ringNext ring wr % 2 ^ 32) ∧
        (fits → c.gate 48 (c.portCls 48) slot e.length true ≠ .open →
          bit (t.chip.reg (canReg n 0)) 5 = true)
      (∀ f < 32, takes f → (∀ g < f, ¬ takes g) → put f (if c.bit (fltMask f) 29 then 0x60 else 0x50)) ∧
      ((∀ f < 32, ¬ takes f) → c.bit (canReg n 4) 4 = true → put 0xFF 0x60) ∧
      ((∀ f < 32, ¬ takes f) → c.bit (canReg n 4) 4 = false → s.keeps t [canReg n 0, canReg n 0x18] ∧
        fld (t.chip.reg (canReg n 0x18)) 16 16 = sat 16 (fld (c.reg (canReg n 0x18)) 16 16 + 1)))

/-- R595, R597, R599 to R605; TEC and REC follow log entry 17, and how an offer ends comes with the command. -/
def Obligations.CanOffersAndModes : Prop :=
  ∀ (n : Nat) (s : State), n < 2 → s.chip.can.length = 2 → s.chip.vif.sent.length = 4 →
    let c := s.chip
    let st := canReg n 0
    let ctl := canReg n 4
    let cnt := canReg n 0x18
    let safe := (nth c.can n default).safeGo
    let held := fun (d : Chip) => bit (d.reg st) 3 = ((nth d.can n default).safeGo && (decide (d.canMode n ≠ 1) || d.canOff n))
    (c.dom 3 = true → c.canMode n = 1 → c.canOff n = false →
      (safe = true →
        ((nth c.can n default).safeDue = false → Completes (.canFrameTransmit n .sent) s fun t =>
          s.keeps t [st, cnt, canReg n 0x250] ∧ nth t.chip.vif.sent n [] = c.safeEntry n ∧
          bit (t.chip.reg (canReg n 0x250)) 1 = true ∧ (nth t.chip.can n default).safeGo = false ∧ held t.chip) ∧
        exec (.canFrameTransmit n .lost) s = .next s ∧
        Completes (.canFrameTransmit n .error) s fun t => s.keeps t [st, cnt] ∧ t.chip.can = c.can ∧
          fld (t.chip.reg cnt) 0 8 = sat 8 (fld (c.reg cnt) 0 8 + 8)) ∧
      (safe = false → c.txSlot (canReg n 0x40) = none → ∀ o, exec (.canFrameTransmit n o) s = .next s) ∧
      (safe = false → ∀ a, c.txSlot (canReg n 0x40) = some a →
        let h := c.peekN a 16
        let len := leAt h 6 2
        let advanced := fun (t : State) => (t.chip.reg (canReg n 0x4C)).toNat =
          c.ringNext (canReg n 0x40) (c.reg (canReg n 0x4C)).toNat % 2 ^ 32
        c.ecc = [] → (∀ g < 8, nth c.power.grp g .off = .awake) → a < 0x800000 →
        c.gate 48 (c.portCls 48) a 16 false = .open → (len ≠ 0 → c.gate 48 (c.portCls 48) (a + 16) len false = .open) →
        (c.canBad n (canReg n 0x40) h = true → ∀ o, Completes (.canFrameTransmit n o) s fun t =>
          s.keeps t [st, canReg n 0x4C] ∧ bit (t.chip.reg st) 4 = true ∧ advanced t ∧ t.chip.vif = c.vif) ∧
        (c.canBad n (canReg n 0x40) h = false →
          (Completes (.canFrameTransmit n .sent) s fun t => s.keeps t [st, cnt, canReg n 0x4C] ∧ advanced t ∧
            nth t.chip.vif.sent n [] = h ++ c.peekN (a + 16) len) ∧
          exec (.canFrameTransmit n .lost) s = .next s ∧
          Completes (.canFrameTransmit n .error) s fun t => s.keeps t [st, cnt] ∧ t.chip.vif = c.vif))) ∧
    (∀ port v, c.canStore port (canReg n 0x250) → Completes (.canSafeGo port n v) s fun t =>
      s.keeps t [st, canReg n 0x250] ∧
      (port ≠ 40 → s.keeps t [st] ∧ t.chip.can = c.can) ∧
      (port = 40 → (nth t.chip.can n default).safeGo = (safe || bit v 0) ∧ (bit v 0 = true → held t.chip) ∧
        (bit v 1 = true → bit (t.chip.reg (canReg n 0x250)) 1 = false))) ∧
    (∀ port v, c.canStore port ctl → Completes (.canModeWrite port n v) s fun t =>
      let w := fld v 0 3
      let xl := if c.canMode n = 0 then decide (n = 0) && bit v 5 else c.canXl n
      let timed := c.timingOk (canReg n 8) 80 640 = true ∧ c.timingOk (canReg n 12) 10 (2 ^ 20) = true ∧
        (xl = true → c.timingOk (canReg n 16) 4 (2 ^ 20) = true)
      s.keeps t [st, ctl, cnt] ∧ held t.chip ∧ t.chip.canXl n = xl ∧ t.chip.bit ctl 3 = bit v 3 ∧ t.chip.bit ctl 4 = bit v 4 ∧
      (w < 5 → w = 0 ∨ w = c.canMode n ∨ timed → t.chip.canMode n = w) ∧
      (5 ≤ w ∨ (w ≠ 0 ∧ w ≠ c.canMode n ∧ ¬ timed) → t.chip.canMode n = c.canMode n ∧ bit (t.chip.reg st) 0 = true) ∧
      (c.canMode n = 0 → t.chip.canMode n = 1 → t.chip.canOff n = false ∧ (c.canOff n = true → fld (t.chip.reg cnt) 0 16 = 0))) ∧
    (c.dom 3 = true → c.canMode n ≠ 0 → Completes (.canBusOff n) s fun t => s.keeps t [st] ∧ t.chip.canOff n = true ∧ held t.chip) ∧
    (c.canOff n = true → c.canMode n ≠ 0 →
      (c.bit ctl 3 = true → Completes (.canBusOffRecovery n) s fun t =>
        s.keeps t [st, cnt] ∧ t.chip.canOff n = false ∧ fld (t.chip.reg cnt) 0 16 = 0 ∧ held t.chip) ∧
      (c.bit ctl 3 = false → exec (.canBusOffRecovery n) s = .next s))

/-- R594 to R599, R606 to R611. -/
def Obligations.MacFramesAreAcceptedAndSent : Prop :=
  ∀ (eth : Bool) (s : State), s.chip.vif.sent.length = 4 → s.chip.ecc = [] →
    let c := s.chip
    let b := if eth then 0x40053000 else 0x40052000
    let runs : Prop := c.dom 3 = true ∧ c.bit (b + 4) 0 = true
    (∀ (f : List Byte) (ok : Bool),
      let rx := if eth then Instr.ethFrameReceive f ok else Instr.t1sFrameReceive f ok
      let dst := f.take 6
      let good : Prop := ok = true ∧ 60 ≤ f.length ∧ f.length ≤ 1518
      let mine : Prop := dst = c.macAt (b + 12) (b + 16) ∨ dst = List.replicate 6 0xFF ∨ c.bit (b + 4) 2 = true ∨
        ∃ k < 4, c.bit (b + 0x24 + 8 * k) 31 = true ∧ c.macAt (b + 0x20 + 8 * k) (b + 0x24 + 8 * k) = dst
      let r := if slice f 12 2 = [0x88, 0xF7] then b + 0x60 else b + 0x50
      let wr := (c.reg (r + 8)).toNat
      let slot := c.slotAt r wr
      let fits : Prop := c.bit (r + 4) 0 = true ∧ c.ringNext r wr ≠ (c.act (r + 12)).toNat ∧ 16 + f.length ≤ c.slotSize r
      (¬ runs ∨ (good ∧ ¬ mine) → exec rx s = .next s) ∧
      (runs → ¬ good → Completes rx s fun t => s.keeps t [b + 0x18] ∧
        fld (t.chip.reg (b + 0x18)) 0 16 = sat 16 (fld (c.reg (b + 0x18)) 0 16 + 1)) ∧
      (runs → good → mine → ¬ fits → Completes rx s fun t => s.keeps t [r + 4] ∧
        fld (t.chip.reg (r + 4)) 16 16 = sat 16 (fld (c.reg (r + 4)) 16 16 + 1)) ∧
      (runs → good → mine → fits → slot + (16 + f.length) ≤ 0x800000 →
        c.gate 48 (c.portCls 48) slot (16 + f.length) true = .open →
        (∀ l ∈ linesOf slot (16 + f.length), nth c.power.grp (grpOf l) .off = .awake) → Completes rx s fun t =>
          s.sameStores t ∧ c.sameRegs t.chip [r + 8] ∧ (t.chip.reg (r + 8)).toNat = c.ringNext r wr % 2 ^ 32 ∧ ∃ h : List Byte,
            c.wrote t.chip slot (h ++ f) ∧ h.length = 16 ∧ leAt h 6 2 = f.length ∧
            leAt h 8 4 = (c.clocks.packNs + c.fld (b + 0x14) 0 16) % 2 ^ 32)) ∧
    (∀ (r a : Nat),
      let tx := if eth then Instr.ethFrameTransmit else Instr.t1sFrameTransmit false
      let h := c.peekN a 16
      let len := leAt h 6 2
      let f := padTo (max 60 len) (c.peekN (a + 16) len)
      let bad : Prop := 2 ≤ leAt h 0 4 ∨ leAt h 4 2 ≠ 0 ∨ leAt h 12 4 ≠ 0 ∨ len < 14 ∨ 1518 < len ∨ c.slotSize r < 16 + len
      let rd := fun (t : State) => (t.chip.reg (r + 12)).toNat = c.ringNext r (c.reg (r + 12)).toNat % 2 ^ 32
      runs → (if eth then (r = b + 0x70 ∨ (r = b + 0x40 ∧ c.txSlot (b + 0x70) = none)) else r = b + 0x40) → c.txSlot r = some a →
      (∀ g < 8, nth c.power.grp g .off = .awake) → a + 1536 ≤ 0x800000 → c.gate 48 (c.portCls 48) a 16 false = .open →
      (bad ∨ c.gate 48 (c.portCls 48) (a + 16) len false = .open) → c.gate 48 (c.portCls 48) (a + 8) 4 true = .open →
        (bad → Completes tx s fun t => s.keeps t [b, r + 12] ∧ bit (t.chip.reg b) 4 = true ∧ rd t ∧ t.chip.vif = c.vif) ∧
        (¬ bad → Completes tx s fun t => s.sameStores t ∧ c.sameRegs t.chip [r + 12] ∧ rd t ∧
          nth t.chip.vif.sent (if eth then 3 else 2) [] = f ++ leBytes 4 (crc32 f) ∧
          (leAt h 0 4 = 0 → c.sameMem t.chip) ∧
          (leAt h 0 4 = 1 → c.wrote t.chip (a + 8) (leBytes 4 ((c.clocks.packNs + c.fld (b + 0x14) 16 16) % 2 ^ 32))))) ∧
    (c.txSlot 0x40052040 = none → ∀ o, exec (.t1sFrameTransmit o) s = .next s) ∧
    (c.txSlot 0x40053070 = none → c.txSlot 0x40053040 = none → exec .ethFrameTransmit s = .next s) ∧
    (eth = false → runs → c.txSlot 0x40052040 ≠ none → Completes (.t1sFrameTransmit true) s fun t => s.keeps t [0x40052018] ∧
      fld (t.chip.reg 0x40052018) 16 16 = sat 16 (fld (c.reg 0x40052018) 16 16 + 1))

/-- R607, R614, R615, R627, R628. -/
def Obligations.ManagementBusesAndPackTime : Prop :=
  (∀ (port : Nat) (v : Word) (s : State), s.chip.canStore port 0x40053080 → Completes (.ethMdio port v) s fun t =>
    s.keeps t [0x40053000, 0x40053084] ∧
    (s.chip.vif.mdio = none → t.chip.vif = { s.chip.vif with mdio := some v } ∧ bit (t.chip.reg 0x40053084) 0 = true) ∧
    (s.chip.vif.mdio ≠ none → s.keeps t [0x40053000] ∧ t.chip.vif = s.chip.vif ∧ bit (t.chip.reg 0x40053000) 0 = true)) ∧
  (∀ (data : Nat) (v : Word) (s : State), s.chip.vif.mdio = some v → Completes (.ethMdioDone data) s fun t =>
    s.keeps t [0x40053084] ∧ t.chip.vif = { s.chip.vif with mdio := none } ∧ bit (t.chip.reg 0x40053084) 0 = false ∧
    fld (t.chip.reg 0x40053084) 16 16 = if bit v 11 then data % 65536 else fld (s.chip.reg 0x40053084) 16 16) ∧
  (∀ (up : Bool) (speed : Nat) (s : State), s.chip.dom 3 = true → speed < 3 → Completes (.sgmiiLinkStatus up speed) s fun t =>
    s.onlyRegs t [0x40053000] ∧ bit (t.chip.reg 0x40053000) 1 = up ∧ fld (t.chip.reg 0x40053000) 2 2 = speed) ∧
  (∀ (port : Nat) (v : Word) (s : State), s.chip.canStore port 0x40056004 → Completes (.i3cCmd port v) s fun t =>
    let busy := bit (s.chip.reg 0x40056008) 0
    let on := s.chip.bit 0x40056000 0
    let window := (List.range 32).map fun j => BitVec.ofNat 8 ((s.chip.act (0x40056020 + 4 * (j / 4))).toNat / 256 ^ (j % 4))
    s.keeps t [0x40056008] ∧ (busy = true → bit (t.chip.reg 0x40056008) 4 = true ∧ t.chip.vif = s.chip.vif) ∧
    (busy = false → bit (t.chip.reg 0x40056008) 0 = on ∧ (on = false → t.chip.vif = s.chip.vif) ∧
      (on = true → t.chip.vif = { s.chip.vif with
        i3c := some v, i3cOut := if bit v 7 then [] else window.take (fld v 8 5 + 1) }))) ∧
  (∀ (ack : Bool) (data : List Byte) (v : Word) (s : State), s.chip.vif.i3c = some v → Completes (.i3cCmdDone ack data) s fun t =>
    s.keeps t (0x40056008 :: (List.range 8).map fun i => 0x40056020 + 4 * i) ∧ t.chip.vif = { s.chip.vif with i3c := none } ∧
    bit (t.chip.reg 0x40056008) 0 = false ∧ (ack = false ∨ bit v 7 = false → s.keeps t [0x40056008]) ∧
    (ack = true → bit (t.chip.reg 0x40056008) 1 = true ∧ (bit v 7 = true → ∀ j < data.length, j < fld v 8 5 + 1 →
      (t.chip.reg (0x40056020 + 4 * (j / 4))).toNat / 256 ^ (j % 4) % 256 = (nth data j 0).toNat)) ∧
    (ack = false → bit (t.chip.reg 0x40056008) 2 = true)) ∧
  (∀ (v : Word) (s : State), s.chip.vif.i3c = some v → Completes .i3cTimeout s fun t =>
    s.keeps t [0x40056008] ∧ t.chip.vif = { s.chip.vif with i3c := none } ∧ bit (t.chip.reg 0x40056008) 0 = false ∧
    bit (t.chip.reg 0x40056008) 3 = true) ∧
  (∀ (port : Nat) (v : Word) (s : State), s.chip.canStore port 0x40080018 → Completes (.ptmStep port v) s fun t =>
    let owned := bit (s.chip.reg 0x4008001C) 3
    let step := (s.chip.act 0x40080010).toNat + 2 ^ 32 * (s.chip.act 0x40080014).toNat
    s.keeps t [0x4008001C] ∧
    (bit v 0 = true → owned = false → t.chip.clocks.packNs = (s.chip.clocks.packNs + step) % 2 ^ 64 ∧
      bit (t.chip.reg 0x4008001C) 1 = true) ∧
    (bit v 0 = false ∨ owned = true → t.chip.clocks = s.chip.clocks) ∧
    (bit v 0 = true → owned = true → bit (t.chip.reg 0x4008001C) 0 = true)) ∧
  (∀ (port : Nat) (s : State), s.chip.canLoad port 0x40080000 → Completes (.ptmNsLoRead port) s fun t =>
    s.keeps t [0x40080000, 0x40080004] ∧ t.chip.bus = ⟨leBytes 4 (s.chip.clocks.packNs % 2 ^ 32), false⟩ ∧
    (t.chip.reg 0x40080004).toNat = s.chip.clocks.packNs / 2 ^ 32 % 2 ^ 32)

/-- R622 to R625, R632 to R635, R637, R638. -/
def Obligations.TdmFramesAndStreamBlocks : Prop :=
  (∀ (p : Nat) (s : State), p < 2 → s.chip.vif.tdm.length = 2 → s.chip.dom 3 = true → s.chip.bit (tdmReg p 0) 0 = true →
    let c := s.chip
    let r := tdmReg p 0x40
    let n := 4 * (c.tdmSlots p 0).length
    let old := nth c.vif.tdm p default
    (Completes (.tdmFsync p) s fun t =>
      let new := nth t.chip.vif.tdm p default
      t.chip.reg (tdmReg p 12) = c.reg (tdmReg p 12) + 1 ∧ new.dout = some old.next ∧ new.stamp = c.clocks.packNs % 2 ^ 32 ∧
      (c.txSlot r = none → s.keeps t [tdmReg p 12, tdmReg p 8] ∧ new.next = List.replicate n 0 ∧
        fld (t.chip.reg (tdmReg p 8)) 16 16 = sat 16 (fld (c.reg (tdmReg p 8)) 16 16 + 1)) ∧
      (∀ a, c.txSlot r = some a → c.ecc = [] → (∀ g < 8, nth c.power.grp g .off = .awake) →
        c.gate 48 (c.portCls 48) a n false = .open → n ≠ 0 → a < 0x800000 →
        s.keeps t [tdmReg p 12, r + 12] ∧ new.next = c.tdmTrim p (c.peekN a n) ∧
        (t.chip.reg (r + 12)).toNat = c.ringNext r (c.reg (r + 12)).toNat % 2 ^ 32)) ∧
    (c.bit (tdmReg p 0) 1 = true → exec (.clkLost p) s = .next s) ∧
    (c.bit (tdmReg p 0) 1 = false → Completes (.clkLost p) s fun t => s.keeps t [tdmReg p 8] ∧
      bit (t.chip.reg (tdmReg p 8)) 1 = true ∧ nth t.chip.vif.tdm p default = { old with dout := none }) ∧
    (∀ slots : List Nat, old.dout ≠ none → c.ecc = [] →
      let r := tdmReg p 0x50
      let wr := (c.reg (r + 8)).toNat
      let slot := c.slotAt r wr
      let entry := (c.tdmSlots p 16).flatMap fun i => leBytes 4 (nth slots i 0 * if c.bit (tdmReg p 0) 7 then 65536 else 1)
      c.bit (r + 4) 0 = true → c.ringNext r wr ≠ (c.act (r + 12)).toNat → entry.length ≤ c.slotSize r → entry ≠ [] →
      slot + entry.length ≤ 0x800000 → c.gate 48 (c.portCls 48) slot entry.length true = .open →
      (∀ l ∈ linesOf slot entry.length, nth c.power.grp (grpOf l) .off = .awake) → Completes (.tdmFrameReceived p slots) s fun t =>
        s.sameStores t ∧ c.wrote t.chip slot entry ∧ c.sameRegs t.chip [r + 8] ∧
        (t.chip.reg (r + 8)).toNat = c.ringNext r wr % 2 ^ 32)) ∧
  (∀ (port p : Nat) (s : State), p < 2 → s.chip.canLoad port (tdmReg p 12) → Completes (.tdmFcntRead port p) s fun t =>
    s.keeps t [tdmReg p 16] ∧ t.chip.bus = ⟨leBytes 4 (s.chip.reg (tdmReg p 12)).toNat, false⟩ ∧
    (t.chip.reg (tdmReg p 16)).toNat = (nth s.chip.vif.tdm p default).stamp % 2 ^ 32) ∧
  (∀ (k : SysConf) (id : Nat) (s : State), s.chip.fw.conf = some k → s.chip.fwRuns = true → s.chip.hlId = some id → 0 < k.srcNf →
    k.srcAxes ≠ [] → 0 < k.srcFrameNs →
    let c := s.chip
    let done := (c.clocks.packNs / k.srcFrameNs + 1) / k.srcNf
    let n0 := (done - 1) * k.srcNf
    let nax := k.srcAxes.length
    let outOf := fun (j f : Nat) => frameOut k (c.outsOf k.srcPath) (nth k.srcAxes j 0) (n0 + f)
    (done = 0 ∨ c.fw.lastBlock = some n0 → exec .streamBlockSend s = .next s) ∧
    (done ≠ 0 → c.fw.lastBlock ≠ some n0 → Completes .streamBlockSend s fun t => s.sameStores t ∧ ∃ d o,
      t.chip = Chip.fwSend d [o] ∧ d = { c with fw := d.fw } ∧ d.fw.lastBlock = some n0 ∧ o.kind = 3 ∧ o.vc = 1 ∧ o.dest = k.sinkId ∧
      o.addr = k.sinkBase + 2048 * id + 64 * (n0 / k.srcNf % 32) ∧ o.data.length = 16 + 2 * k.srcNf * nax ∧
      leAt o.data 4 2 = n0 / k.srcNf % 65536 ∧ leAt o.data 6 1 = k.srcNf % 256 ∧ leAt o.data 7 1 = nax % 256 ∧
      leAt o.data 8 4 = k.srcFrameNs % 2 ^ 32 ∧
      ∀ j < nax, ∀ f < k.srcNf,
        let sample := leAt o.data (16 + 2 * (f * nax + j)) 2
        (∀ x, outOf j f = some x → sample = tc 16 (shrEven x.value 6)) ∧
        (outOf j f = none → nbit (leAt o.data 0xC 1) 5 = true ∧
          (0 < f → sample = leAt o.data (16 + 2 * ((f - 1) * nax + j)) 2)))) ∧
  (∀ (n : Nat) (e : List Byte) (k : SysConf) (s : State), s.chip.fw.conf = some k → s.chip.fwRuns = true → k.sinkFrom ≠ [] →
    k.sinkTdm < 2 →
    let c := s.chip
    let r := tdmReg k.sinkTdm 0x40
    let size := 2 ^ c.fld (r + 4) 1 4
    let wr := (c.act (r + 8)).toNat
    let rd := (c.reg (r + 12)).toNat
    let depth := (wr + 1 + size - rd) % size
    let header := fun (b : List Byte) => leAt b 4 2 = n % 65536 ∧ leAt b 6 1 = k.sinkNf ∧ leAt b 7 1 = k.sinkNax ∧
      leAt b 8 4 = k.sinkFrameNs ∧ nbit (leAt b 0xC 1) 0 = false ∧ nbit (leAt b 0xC 1) 3 = false
    (c.bit (r + 4) 0 = false → Completes (.sinkBlockStart n []) s fun t => s.keeps t [] ∧
      t.chip.fw.blocks.map (·.1) = k.sinkFrom ∧ ∀ w x, (w, x) ∈ t.chip.fw.blocks →
        let b := c.peekN (k.sinkBase + 2048 * w + 64 * (n % 32)) 64
        (header b → x = some (b.take (16 + 2 * k.sinkNf * k.sinkNax))) ∧ (¬ header b → x = none)) ∧
    (c.bit (r + 4) 0 = true → c.fld (r + 4) 1 4 ≤ 10 → wr < size → rd < size → c.canStore 36 (r + 8) → c.ecc = [] →
      (∀ g < 8, nth c.power.grp g .off = .awake) → c.slotAt r wr + e.length ≤ 0x800000 → e ≠ [] →
      Completes (.sinkBlockStart n [e]) s fun t => s.sameStores t ∧ c.sameRegs t.chip [r + 8] ∧
        (depth = k.sinkDepth → c.wrote t.chip (c.slotAt r wr) e ∧ (t.chip.act (r + 8)).toNat = (wr + 1) % size) ∧
        (depth = k.sinkDepth + 1 → c.wrote t.chip (c.slotAt r wr) e ∧ (t.chip.act (r + 8)).toNat = wr) ∧
        (depth + 1 = k.sinkDepth → (t.chip.act (r + 8)).toNat = (wr + 2) % size)))

/-- R657, R658, R667, R668, R254, R699. -/
def Obligations.BelfryTakesItsProgramAndBecomesReady : Prop :=
  let blogRegs := (List.range 256).map fun i => 0x40090400 + 4 * i
  (∀ (a len : Nat) (s : State), s.chip.awaitsHandover = true → s.chip.handoverAt = some (a, len) → s.chip.ecc = [] →
    (∀ g < 8, nth s.chip.power.grp g .off = .awake) →
    (456 ≤ len → len ≤ 0x40000 → s.chip.gate 40 0 a len false = .open) → Completes .handoverRecord s fun t =>
      let p := s.chip.peekN a len
      let key := slice p (len - 128) 64
      let cause :=
        if len < 456 ∨ 0x40000 < len ∨ leAt p 0 4 ≠ 0x504C4542 ∨ leAt p 4 2 ≠ 1 then 2
        else if ((List.range 3).any fun k => decide (s.otp.rootHash k = some (sha256 key))) = false then 3
        else if ecdsaOk (sha256 (p.take (len - 128))) key (slice p (len - 64) 64) = false then 4
        else if programBad p len = true then 5 else if chkListBad p = true then 6 else 0
      (cause ≠ 0 → s.keeps t (0x40070004 :: blogRegs) ∧ t.chip.bel = s.chip.bel ∧ fld (t.chip.reg 0x40070004) 8 4 = cause) ∧
      (cause = 0 → s.keeps t (0x4007003C :: blogRegs) ∧ t.chip.bel = { s.chip.bel with prog := p } ∧
        (t.chip.reg 0x4007003C).toNat = leAt p 8 4)) ∧
  (∀ s : State, s.chip.awaitsHandover = false ∨ s.chip.handoverAt = none → exec .handoverRecord s = .next s) ∧
  (∀ s : State, s.chip.awaitsHandover = true → s.chip.handoverAt = none → Completes .handoverNotStaged s fun t =>
    s.keeps t (0x40070004 :: blogRegs) ∧ t.chip.bel = s.chip.bel ∧ fld (t.chip.reg 0x40070004) 8 4 = 1) ∧
  (∀ s : State, s.chip.dom 1 = true → s.chip.saf = 0 → fld (s.chip.reg 0x40070004) 8 4 = 0 → s.chip.handoverAt ≠ none →
    bit (s.chip.reg 0x40010000) 2 = false → bit (s.chip.reg 0x40010110) 8 = false → Completes .refbCalTimeout s fun t =>
      s.keeps t (0x40070004 :: blogRegs) ∧ fld (t.chip.reg 0x40070004) 8 4 = 7) ∧
  (∀ s : State,
    let c := s.chip
    let able : Prop := c.dom 1 = true ∧ c.saf = 0 ∧ c.phaseCPassed = true ∧ fld (c.reg 0x40070004) 8 4 = 0 ∧ c.bel.prog ≠ [] ∧
      bit (c.reg 0x22000100) 0 = true ∧ bit (c.reg 0x40010000) 2 = true ∧ bit (c.reg 0x40010110) 8 = true ∧ c.safe.held = false ∧
      c.power.mode ≠ .fenced ∧ c.power.mode ≠ .dark ∧ c.power.mode ≠ .watch
    (¬ able → exec .belfryReady s = .next s) ∧
    (able → c.marks = 0 → Completes .belfryReady s fun t =>
      s.keeps t (0x40070000 :: 0x40070004 :: blogRegs) ∧ t.chip.saf = 1 ∧ t.chip.pins = c.pins) ∧
    (able → c.marks ≠ 0 → Completes .belfryReady s fun t =>
      s.sameStores t ∧ c.sameMem t.chip ∧ t.chip.saf = 2 ∧ t.chip.pins.faultN = false ∧ (∀ b ∈ t.chip.pins.bal, b = false) ∧
      bit (t.chip.reg 0x40010008) 0 = false ∧ bit (t.chip.reg 0x40010000) 4 = false ∧ t.chip.marks = c.marks))

/-- R663, R665, R670, R676, R699, R706. -/
def Obligations.BelfryAnchorsAndJudges : Prop :=
  (∀ s : State,
    let c := s.chip
    let due : Prop := c.dom 1 = true ∧ c.atRest = true ∧ (∀ t, c.bel.anchored = some t → 60000000000 ≤ c.clocks.packNs - t) ∧
      (c.bel.rested = true → ∀ k ∈ c.bel.cells.take (leAt c.bel.prog 0x1A 1), k.vb ≠ none)
    (c.bel.ownChem = none ∨ ¬ due → exec .restAnchor s = .next s) ∧
    (∀ blk, c.bel.ownChem = some blk → due → Completes .restAnchor s fun t =>
      s.keeps t [] ∧ t.chip.bel.anchored = some c.clocks.packNs ∧ t.chip.bel.qB = ⟨0, 1⟩ ∧ t.chip.bel.qAbs = ⟨0, 1⟩ ∧
      t.chip.bel.qGap = ⟨0, 1⟩ ∧ t.chip.bel.tA = ⟨0, 1⟩ ∧ t.chip.bel.rested = false ∧ t.chip.bel.cells.length = c.bel.cells.length ∧
      ∀ j < c.bel.cells.length,
        let old := nth c.bel.cells j default
        (old.vb = none → (nth t.chip.bel.cells j default).anchor = none) ∧
        (∀ v, old.vb = some v → ∃ soc slope, ocvInverse (ocvTable blk) v = (soc, slope) ∧
          (nth t.chip.bel.cells j default).anchor = some (soc, ((q32At blk 8).div slope).add (q32At blk 12))))) ∧
  (∀ (late : Bool) (custom : List Nat) (s : State),
    let c := s.chip
    let base := leAt c.bel.prog 0x14 4
    let slots := leAt c.bel.prog 0x18 2
    let rd := fld (c.reg 0x40070038) 0 8
    let wr := leAt (c.peekN base 64) 0 4 % slots
    c.dom 1 = true → c.bel.prog ≠ [] → c.saf ≠ 0 → c.safe.held = false → c.fw.due = none → c.mgr.checks = [] → c.ecc = [] →
    (∀ g < 8, nth c.power.grp g .off = .awake) → 0 < slots → slots ≤ 256 → rd < slots → base % 64 = 0 →
    base + 64 + 32 * slots ≤ 0x800000 →
    (rd = wr → exec (.handoffPoll late custom) s = .next s) ∧
    Completes (.handoffPoll late custom) s fun t =>
      let a := base + 64 + 32 * rd
      let e := c.peekN a 32
      let rec0 := leAt e 4 4
      t.pending = s.pending ∧ t.nvm = s.nvm ∧ t.otpA = s.otpA ∧ t.otpB = s.otpB ∧ fld (t.chip.reg 0x40070038) 0 8 = wr ∧
      (wr = (rd + 1) % slots → rd ≠ wr →
        (leAt e 0 1 = 2 → entryOk e = true → leAt e 1 1 = 1 → rec0 + 32 ≤ 0x800000 →
          c.wrote t.chip (a + 0x1C) (leBytes 4 (if leAt (c.peekN rec0 32) 0x1C 4 = c.bel.bcrc (c.peekN rec0 32) then 0 else 1))) ∧
        (leAt e 0 1 = 2 → entryOk e = false → c.wrote t.chip (a + 0x1C) (leBytes 4 0xFFFFFFFF)) ∧
        (leAt e 0 1 = 1 → entryOk e = false → bit (t.chip.reg 0x40070000) 7 = true) ∧
        (leAt e 0 1 = 1 → entryOk e = true → leAt e 1 1 = 1 → leAt e 2 2 = 0 → leAt e 0x0C 4 = 0 → rec0 + 32 ≤ 0x800000 →
          c.saf = 2 ∨ c.saf = 3 → (t.chip.peek (rec0 + 0x1B)).toNat / 16 = 3)))

/-- R699, R701, R703, R705, R707, R709 to R711. -/
def Obligations.MarkingsMessagesAndSelfTests : Prop :=
  let blogRegs := (List.range 256).map fun i => 0x40090400 + 4 * i
  (∀ (code : Nat) (s : State), code ∈ [8, 9, 11, 12, 13] → bit (s.chip.reg 0x40070040) code = true → s.chip.dom 1 = true →
    (code = 8 → s.chip.sense.main.frozen = false) → Completes (.markingEnd code) s fun t =>
      let last : Prop := s.chip.saf = 2 ∧ (∀ j, 8 ≤ j → j < 14 → j ≠ code → bit (s.chip.reg 0x40070040) j = false) ∧
        bit (s.chip.reg 0x40070040) 16 = false
      s.sameStores t ∧ s.chip.sameMem t.chip ∧ bit (t.chip.reg 0x40070040) code = false ∧ t.chip.pins = s.chip.pins ∧
      (last → t.chip.saf = 1 ∧ fld (t.chip.reg 0x4007004C) 0 16 = (fld (s.chip.reg 0x4007004C) 0 16 + 1) % 65536) ∧
      (¬ last → s.keeps t [0x40070040])) ∧
  (∀ s : State, s.chip.saf = 2 ∨ s.chip.saf = 3 → s.chip.dom 1 = true → s.chip.can.length = 2 → Completes .faultMessageRepeat s fun t =>
    let count := (fld (s.chip.reg 0x4007004C) 0 16 + 1) % 65536
    let frame := fun (n : Nat) => (List.range 20).flatMap fun i => leBytes 4 (t.chip.reg (canReg n (0x200 + 4 * i))).toNat
    s.sameStores t ∧ s.chip.sameMem t.chip ∧ fld (t.chip.reg 0x4007004C) 0 16 = count ∧ ∀ n < 2,
      ((nth s.chip.can n default).safeGo = true → (nth t.chip.can n default).safeDue = true ∧
        ∀ i < 20, t.chip.reg (canReg n (0x200 + 4 * i)) = s.chip.reg (canReg n (0x200 + 4 * i))) ∧
      ((nth s.chip.can n default).safeGo = false → (nth t.chip.can n default).safeGo = true ∧
        leAt (frame n) 0 4 = 0x20A00000 + (if bit (s.chip.reg 0x40040004) 31 then fld (s.chip.reg 0x40040004) 0 10 else 0x400) ∧
        leAt (frame n) 4 4 = 0x00080000 ∧ leAt (frame n) 16 1 = s.chip.saf ∧
        leAt (frame n) 17 1 = fld (s.chip.reg 0x40070040) 20 12 % 256 ∧ leAt (frame n) 18 2 = s.chip.marks ∧
        leAt (frame n) 20 2 = count ∧ leAt (frame n) 22 1 = fld (s.chip.reg 0x40070000) 0 8 ∧
        leAt (frame n) 23 1 = crc8 (slice (frame n) 16 7))) ∧
  (∀ (pass : Bool) (s : State),
    let c := s.chip
    let runs : Prop := c.dom 1 = true ∧ c.safe.held = false ∧
      (((c.saf = 1 ∨ c.saf = 2) ∧ (c.power.mode = .run ∨ c.power.mode = .scan) ∧ (c.safe.woke = true → c.safe.verdictSeen = true)) ∨
        c.saf = 3)
    let i := c.safe.retry.getD (c.nextSlice (fld (c.reg 0x40070048) 8 7))
    let waits : Prop := 32 ≤ i ∧ i < 64 ∧ (c.calAt 1 = true ∨ c.calAt 2 = true) ∧ bit (c.reg 0x40010100) 3 = false
    let next := c.nextSlice ((i + 1) % 128)
    let moved := fun (t : State) => fld (t.chip.reg 0x40070048) 8 7 = next % 128 ∧ t.chip.safe.retry = none ∧
      fld (t.chip.reg 0x40070048) 24 8 = sat 8 (fld (c.reg 0x40070048) 24 8 + if next ≤ i then 1 else 0)
    (¬ runs → exec (.selftestSlice pass) s = .next s) ∧
    (runs → Completes (.selftestSlice pass) s fun t => s.sameStores t ∧
      (waits → i ∉ c.safe.skipLast → s.keeps t [0x40070048] ∧ moved t ∧
        fld (t.chip.reg 0x40070048) 16 8 = sat 8 (fld (c.reg 0x40070048) 16 8 + 1)) ∧
      (¬ waits → pass = true → s.keeps t [0x40070048] ∧ moved t) ∧
      (¬ waits → pass = false → c.safe.retry = none → s.keeps t (0x40070048 :: blogRegs) ∧
        fld (t.chip.reg 0x40070048) 0 8 = i % 256 ∧ t.chip.safe.retry = some i) ∧
      (¬ waits → pass = false → c.safe.retry = some i → c.power.mode ≠ .dark → c.power.mode ≠ .watch →
        (i < 16 ∨ (104 ≤ i ∧ i < 120) → t.chip.dark) ∧
        ((16 ≤ i ∧ i < 48) ∨ (64 ≤ i ∧ i < 72) ∨ (80 ≤ i ∧ i < 104) ∨ (120 ≤ i ∧ i < 128) → c.power.mode ≠ .fenced → c.saf ≠ 3 →
          t.chip.fenced))))

/-- R718. -/
def Obligations.LockedNeedsSecretAndRootAndStays : Prop :=
  (∀ (port : Nat) (i : Instr) (s : State), s.chip.canStore port 0x400600B8 → ¬ (s.otp.secretProg = true ∧ s.otp.prog ≠ 0) →
    i = .otpLock port ∨ (i = .otpProgram port ∧ s.chip.act 0x400600B0 = 0xC0 ∧ s.chip.bit 0x400600B4 0 = true) →
    Completes i s fun t => s.keeps t [0x40060004] ∧ t.chip.sec = s.chip.sec ∧ bit (t.chip.reg 0x40060004) 0 = true) ∧
  (∀ s t : State, s.otp.locked = true → step s = .next t → t.otp.locked = true)

/-- R716 to R720. -/
def Obligations.OtpIsProgrammedAndSlotsRevoked : Prop :=
  let shown := [0x40060004, 0x400600A0, 0x400600A4] ++ ((List.range 4).map fun i => 0x40060010 + 4 * i) ++
    (List.range 24).map fun i => 0x40060040 + 4 * i
  (∀ (port : Nat) (i : Instr) (off data : Nat) (s : State), s.chip.canStore port 0x400600B8 →
    (i = .otpLock port ∧ off = 0xC0 ∧ data = 1) ∨
      (i = .otpProgram port ∧ off = (s.chip.act 0x400600B0).toNat ∧ data = (s.chip.act 0x400600B4).toNat) →
    let allowed : Prop := s.otp.locked = false ∧ ((36 ≤ port ∧ port < 40) ∨ port = 47) ∧ off ≤ 0xC0 ∧ off % 4 = 0 ∧
      (0x10 ≤ off → off < 0x30 → s.otp.secretProg = false) ∧ (0x30 ≤ off → off < 0x50 → s.otp.fleetProg = false) ∧
      (off = 0xB0 → data / 16 % 16 = 0) ∧ (off = 0xC0 → data % 2 = 1 → s.otp.secretProg = true ∧ s.otp.prog ≠ 0)
    Completes i s fun t =>
      (s.chip.sec.otpRun = none ∧ allowed → s.keeps t [] ∧ t.chip.sec = { s.chip.sec with otpRun := some (off, data) }) ∧
      (¬ (s.chip.sec.otpRun = none ∧ allowed) → s.keeps t [0x40060004] ∧ t.chip.sec = s.chip.sec ∧
        bit (t.chip.reg 0x40060004) 0 = true)) ∧
  (∀ s : State, s.chip.sec.otpRun = none → exec .otpProgramDone s = .next s) ∧
  (∀ (off data : Nat) (s : State), s.chip.sec.otpRun = some (off, data) → Completes .otpProgramDone s fun t =>
    t.pending = s.pending ∧ t.nvm = s.nvm ∧ t.otpA = s.otpA.program off data ∧ t.otpB = s.otpB.program off data ∧
    t.chip.sec = { s.chip.sec with otpRun := none } ∧ s.chip.sameRegs t.chip shown ∧ s.chip.sameMem t.chip ∧
    bit (t.chip.reg 0x40060004) 1 = t.otp.locked ∧ bit (t.chip.reg 0x40060004) 2 = decide (t.otpA ≠ t.otpB) ∧
    fld (t.chip.reg 0x400600A0) 0 3 = t.otp.prog ∧ fld (t.chip.reg 0x400600A0) 4 3 = t.otp.revoked ∧
    (t.chip.reg 0x400600A4).toNat = t.otp.rollback ∧
    (off < 0x10 → t.otpA = { s.otpA with serial := t.otpA.serial } ∧ ∀ j < 4, off + j < s.otpA.serial.length →
      nth t.otpA.serial (off + j) 0 = nth s.otpA.serial (off + j) 0 ||| BitVec.ofNat 8 (data / 256 ^ j)) ∧
    (off = 0x2C → t.otp.secretProg = true) ∧ (off = 0x4C → t.otp.fleetProg = true) ∧
    (off = 0xB8 → t.otpA.rollback = Nat.lor s.otpA.rollback data) ∧
    (off = 0xC0 → t.otp.locked = (s.otp.locked || decide (data % 2 = 1)))) ∧
  (∀ (port : Nat) (v : Word) (s : State), s.chip.canStore port 0x400600A8 →
    let k := fld v 0 2
    let allowed : Prop := k ≠ 3 ∧ 36 ≤ port ∧ port < 40 ∧ ¬ (s.chip.boot.rom = .done ∧ k = s.chip.boot.keySlot) ∧
      s.otp.prog.testBit k = true ∧ ∃ j < 3, j ≠ k ∧ s.otp.usable j = true
    Completes (.secRevoke port v) s fun t => t.pending = s.pending ∧ t.nvm = s.nvm ∧
      (allowed → s.chip.sameRegs t.chip shown ∧ s.chip.sameMem t.chip ∧ t.otp.usable k = false ∧
        t.otpA = { s.otpA with rootState := s.otpA.rootState ||| BitVec.ofNat 8 (2 ^ (4 + k)) } ∧
        t.otpB = { s.otpB with rootState := s.otpB.rootState ||| BitVec.ofNat 8 (2 ^ (4 + k)) } ∧
        fld (t.chip.reg 0x400600A0) 4 3 = t.otp.revoked) ∧
      (¬ allowed → s.keeps t [0x40060004] ∧ bit (t.chip.reg 0x40060004) 0 = true))

/-- R726, R729 to R731, R734, R736 to R740. -/
def Obligations.KeysAndTokensAreJudged : Prop :=
  (∀ (port : Nat) (v : Word) (s : State), s.chip.canStore port 0x40060140 → Completes (.secKclr port v) s fun t =>
    let k := fld v 0 4
    s.keeps t [0x40060100 + 4 * k, 0x40060004] ∧ t.chip.reg (0x40060100 + 4 * k) = 0 ∧ nth t.chip.sec.slots k none = none ∧
    (∀ j, j ≠ k → nth t.chip.sec.slots j none = nth s.chip.sec.slots j none) ∧ t.chip.sec.linkRoot = s.chip.sec.linkRoot ∧
    (fld v 4 28 = 0 → s.keeps t [0x40060100 + 4 * k])) ∧
  (∀ (port p : Nat) (s : State), p < 4 → s.chip.sec.nonceOk.length = 4 → s.chip.canStore port (lkReg p 0x28) →
    Completes (.linkKeyStart port p) s fun t =>
      s.keeps t [lkReg p 0, lkReg p 4, lkReg p 8, lkReg p 12, lkReg p 0x2C] ∧ t.chip.reg (lkReg p 0x2C) = 1 ∧
      nth t.chip.sec.nonceOk p false = true ∧ t.chip.sec.linkKeys = s.chip.sec.linkKeys) ∧
  (∀ (port p : Nat) (s : State), p < 4 → s.chip.sec.linkKeys.length = 4 → s.chip.canStore port (lkReg p 0x28) →
    Completes (.linkKeyInstall port p) s fun t =>
      let c := s.chip
      let own := (c.block 0x40060010 4).take 8
      let peer := c.block (lkReg p 0x20) 2
      let nOwn := c.block (lkReg p 0) 4
      let nPeer := c.block (lkReg p 0x10) 4
      let low : Prop := leNat own < leNat peer
      let code := if c.hlState p ≠ 2 then 3 else if nth c.sec.nonceOk p false = false then 4 else if peer = own then 5
        else if c.sec.linkRoot = none then 6 else 2
      (t.chip.reg (lkReg p 0x2C)).toNat = code ∧ (code ≠ 2 → s.keeps t [lkReg p 0x2C] ∧ t.chip.sec = c.sec) ∧
      (code = 2 → s.keeps t [lkReg p 0x2C, 0x40040104 + 0x40 * p] ∧ bit (t.chip.reg (0x40040104 + 0x40 * p)) 5 = true ∧
        ∀ root, c.sec.linkRoot = some root → ∃ key, nth t.chip.sec.linkKeys p none = some key ∧ key.txc = 0 ∧ key.rxc = 0 ∧
          (low → key.dir = 0 ∧ key.key ++ key.session = kdf root (ascii "MLM-LINK") (nOwn ++ nPeer ++ own ++ peer) 288) ∧
          (¬ low → key.dir = 1 ∧ key.key ++ key.session = kdf root (ascii "MLM-LINK") (nPeer ++ nOwn ++ peer ++ own) 288))) ∧
  (∀ s : State, s.chip.secUp = true → Completes .secChal s fun t => s.keeps t [] ∧
    t.chip.sec = { s.chip.sec with shiftOut := s.chip.block 0x40060010 4 ++ s.chip.sec.chal }) ∧
  (∀ (w : List Byte) (s : State),
    let c := s.chip
    let key := slice w 40 64
    let fits : Prop := w.length = 168 ∧ leAt w 0 4 = 0x4B544244 ∧ leAt w 4 2 = 1 ∧ leAt w 6 2 < 8 ∧
      slice w 8 16 = c.block 0x40060010 4 ∧ slice w 24 16 = c.sec.chal ∧ ecdsaOk (sha256 (w.take 104)) key (slice w 104 64) = true
    (c.secUp = false ∨ bit (c.reg 0x40060004) 6 = true → exec (.secToken w) s = .next s) ∧
    (c.secUp = true → bit (c.reg 0x40060004) 6 = false →
      (¬ (fits ∧ ∃ k < 3, s.otp.rootHash k = some (sha256 key)) → Completes (.secToken w) s fun t =>
        s.keeps t [0x40060004] ∧ t.chip.sec.rejects = c.sec.rejects + 1 ∧ t.chip.sec.chal.length = 16 ∧
        (c.sec.rejects < 7 → s.keeps t []) ∧ (7 ≤ c.sec.rejects → bit (t.chip.reg 0x40060004) 6 = true)) ∧
      (∀ k < 3, fits → s.otp.rootHash k = some (sha256 key) → (∀ j < k, s.otp.rootHash j ≠ some (sha256 key)) →
        Completes (.secToken w) s fun t => s.sameStores t ∧ (c.setBit 0x40060004 3 true).systemReset t.chip ∧
          t.chip.dbgSession = true ∧ t.chip.sec.perm = leAt w 6 2 ∧ (∀ a, t.chip.peek a = 0) ∧ (∀ x ∈ t.chip.sec.slots, x = none) ∧
          ⟨0, 0x24, k + 256 * leAt w 6 2, c.clocks.rtc⟩ ∈ t.chip.log.buf)))

/-- R747, R748, R751 to R756, R762, R764, R765, R138. R151 to R153. -/
def Obligations.LogDumpAndNvmCommandsComplete : Prop :=
  (
    (∀ (port : Nat) (v : Word) (s : State), s.chip.canStore port 0x40090020 → Completes (.logWrite port v) s fun t =>
      let k := fld v 0 8
      let barred : Prop := k < 0x30 ∨ k = 0x4E ∨ k = 0x4F ∨ (0x5B ≤ k ∧ k < 0x80) ∨ (0x30 ≤ k ∧ k < 0x40 ∧ bit (s.chip.reg 0x40020800) 0 = true)
      let room : Prop := s.chip.log.buf.length ≤ 4
      (barred → s.keeps t [0x40090000] ∧ t.chip.log = s.chip.log ∧ bit (t.chip.reg 0x40090000) 0 = true) ∧
      (¬ barred → room → s.keeps t [] ∧ t.chip.log.buf.length = s.chip.log.buf.length + 1 ∧
        ⟨port, k, fld v 8 24, s.chip.clocks.rtc⟩ ∈ t.chip.log.buf) ∧
      (¬ barred → ¬ room → s.keeps t [0x40090000] ∧ t.chip.log = ⟨s.chip.log.buf, s.chip.log.lost + 1⟩ ∧
        bit (t.chip.reg 0x40090000) 5 = true)) ∧
    (∀ (port : Nat) (s : State), s.chip.canStore port 0x40090004 → s.chip.dump.busy = false → Completes (.capture port) s fun t =>
      let off : Prop := nth s.chip.power.grp 7 .off = .off
      let trig := if fld (s.chip.reg 0x40090040) 4 2 = 1 ∧ s.chip.dump.req = 4 then 4 else 1
      (off → s.keeps t [0x40090000] ∧ t.chip.dump = s.chip.dump ∧ bit (t.chip.reg 0x40090000) 4 = true) ∧
      (¬ off → s.chip.dumpValid = true → s.keeps t [0x40090000, 0x40090010] ∧ t.chip.dump = s.chip.dump ∧
        bit (t.chip.reg 0x40090000) 3 = true ∧ fld (t.chip.reg 0x40090010) 0 16 = sat 16 (fld (s.chip.reg 0x40090010) 0 16 + 1)) ∧
      (¬ off → s.chip.dumpValid = false → s.keeps t [0x40090000] ∧ bit (t.chip.reg 0x40090000) 1 = true ∧
        t.chip.dump = { s.chip.dump with
          busy := true, trigger := trig, image := s.chip.dumpImage trig (s.chip.reg 0x40090008).toNat })) ∧
    (∀ s : State, (s.chip.dump.busy = false → exec .dumpDone s = .next s) ∧
      (s.chip.dump.busy = true → s.chip.dump.resetAfter = none → s.chip.dump.image.length ≤ 65536 → Completes .dumpDone s fun t =>
        let seq := ((s.chip.reg 0x4009000C).toNat + 1) % 2 ^ 32
        s.sameStores t ∧ t.chip.peekN dumpBase s.chip.dump.image.length = s.chip.dump.image ∧ t.chip.dump.busy = false ∧ t.chip.dump.image = [] ∧
        bit (t.chip.reg 0x40090000) 1 = false ∧ bit (t.chip.reg 0x40090000) 2 = true ∧ (t.chip.reg 0x4009000C).toNat = seq ∧
        (s.chip.dump.fenceAfter = false → s.chip.wrote t.chip dumpBase s.chip.dump.image ∧ s.chip.sameRegs t.chip [0x40090000, 0x4009000C] ∧
          ⟨0, 0x26, (s.chip.dump.trigger + 256 * (seq % 65536)) % 2 ^ 24, s.chip.clocks.rtc⟩ ∈ t.chip.log.buf) ∧
        (s.chip.dump.fenceAfter = true → t.chip.power.mode = .fenced ∧ t.chip.dump.fenceAfter = false ∧
          ∀ g ∈ t.chip.eng, g.pw = .off))) ∧
    (∀ s : State, s.chip.dom 2 = true → nth s.chip.power.grp 7 .off = .awake → s.chip.dumpValid = true → s.chip.dump.busy = false →
      bit (s.chip.reg 0x40055000) 1 = false → s.chip.log.buf.length ≤ 3 → Completes .dumpSave s fun t =>
        let d := s.chip.peekN dumpBase s.chip.dumpLen
        t.pending = s.pending ∧ t.otpA = s.otpA ∧ t.otpB = s.otpB ∧ s.chip.wrote t.chip dumpBase [0, 0, 0, 0] ∧
        s.chip.sameRegs t.chip [] ∧ ∃ b < 2,
          (∃ q, t.slotSeq (dumpSlot b) 4 0 = some q) ∧ t.slotData (dumpSlot b) = d ∧
          (∀ x, x < (dumpSlot b).base ∨ (dumpSlot b).base + 0x11000 ≤ x → t.nvmByte x = s.nvmByte x) ∧
          ⟨36, 0x4D, b + 256 * (leAt d 8 4 % 65536), s.chip.clocks.rtc⟩ ∈ t.chip.log.buf) ∧
    (∀ (i : Instr) (port n : Nat) (s : State), (i, n) ∈ [(Instr.dumpReqRelease port, 0), (.dumpReqRetained port, 1),
        (.dumpReqNvmNewer port, 2), (.dumpReqNvmOlder port, 3), (.dumpReqCapture port, 4)] → s.chip.canStore port 0x40090040 →
      Completes i s fun t =>
        let held : Prop := fld (s.chip.reg 0x40090040) 4 2 = 1
        (held → s.keeps t [0x40090000] ∧ t.chip.dump = s.chip.dump ∧ bit (t.chip.reg 0x40090000) 0 = true) ∧
        (¬ held → s.keeps t [0x40090040] ∧ fld (t.chip.reg 0x40090040) 4 2 = (if n = 0 then 0 else 1) ∧
          (n = 0 → t.chip.dump = s.chip.dump) ∧ (n ≠ 0 → t.chip.dump = { s.chip.dump with req := n }))) ∧
    (∀ (port : Nat) (v : Word) (s : State), s.chip.canStore port 0x40090044 → Completes (.dmpReqAck port v) s fun t =>
      let held : Prop := fld (s.chip.reg 0x40090040) 4 2 = 1
      (held → v = 1 ∨ v = 2 → s.keeps t [0x40090040] ∧ fld (t.chip.reg 0x40090040) 4 2 = v.toNat + 1) ∧
      (¬ held ∨ (v ≠ 1 ∧ v ≠ 2) → s.keeps t [0x40090000] ∧ bit (t.chip.reg 0x40090000) 0 = true))) ∧
  (
    (∀ (i : Instr) (port op : Nat) (s : State), (i, op) ∈ [(Instr.xspiRead port, 1), (.xspiProgram port, 2), (.erase4k port, 3),
        (.erase64k port, 4)] → s.chip.canStore port 0x40055014 →
      let c := s.chip
      let a := (c.act 0x40055008).toNat
      let n := if op = 3 then 4096 else if op = 4 then 65536 else c.fld 0x40055010 0 17
      let sram := c.fld 0x4005500C 0 23
      let busy := bit (c.reg 0x40055000) 1
      let wrong : Prop := (op = 2 ∧ (256 < n ∨ a / 256 ≠ (a + n - 1) / 256)) ∨ ((op = 3 ∨ op = 4) ∧ a % n ≠ 0)
      let shields := fun (x : Nat) => x < 0x2000000 ∧ c.bit 0x40055018 (x / 0x1000000) = true ∧ (op ≠ 2 ∨ x % 0x1000000 < 0xFFF000)
      let barred : Prop := op ≠ 1 ∧ (shields a ∨ shields (a + n - 1))
      Completes i s fun t =>
        (busy = true → s.keeps t [0x40055000] ∧ t.chip.xspi = c.xspi ∧ bit (t.chip.reg 0x40055000) 0 = true) ∧
        (busy = false → wrong → s.keeps t [0x40055000] ∧ t.chip.xspi = c.xspi ∧ bit (t.chip.reg 0x40055000) 3 = true ∧
          bit (t.chip.reg 0x40055000) 0 = true) ∧
        (busy = false → ¬ wrong → barred → s.keeps t [0x40055000] ∧ t.chip.xspi = c.xspi ∧ bit (t.chip.reg 0x40055000) 4 = true) ∧
        (busy = false → ¬ wrong → ¬ barred → op ≠ 2 ∨ (0 < n ∧ sram + n ≤ 0x800000 ∧ c.gate 42 (c.portCls 42) sram n false = .open ∧
            c.ecc = [] ∧ ∀ l ∈ linesOf sram n, nth c.power.grp (grpOf l) .off = .awake) →
          t.pending = s.pending ∧ t.otpA = s.otpA ∧ t.otpB = s.otpB ∧ c.sameRegs t.chip [0x40055000] ∧ c.sameMem t.chip ∧
          bit (t.chip.reg 0x40055000) 1 = true ∧ (op = 1 → t.nvm = s.nvm) ∧
          (∀ x, x < a ∨ a + n ≤ x → t.nvmByte x = s.nvmByte x) ∧ t.chip.xspi = some ⟨op, a, sram, n, false,
            if op = 2 then progOver (s.nvmRead a n) (c.peekN sram n) else []⟩)) ∧
    (∀ (ok : Bool) (s : State), s.chip.xspi = none → exec (.xspiCmdComplete ok) s = .next s) ∧
    (∀ (ok : Bool) (x : XCmd) (s : State), s.chip.xspi = some x → Completes (.xspiCmdComplete ok) s fun t =>
      let c := s.chip
      let good : Prop := ok = true ∧ x.bad = false
      t.pending = s.pending ∧ t.otpA = s.otpA ∧ t.otpB = s.otpB ∧ t.chip.xspi = none ∧ bit (t.chip.reg 0x40055000) 1 = false ∧
      (¬ good → s.keeps t [0x40055000] ∧ bit (t.chip.reg 0x40055000) 3 = true) ∧
      (good → x.op = 1 → t.nvm = s.nvm ∧ (0 < x.len → x.sram + x.len ≤ 0x800000 →
        c.gate 42 (c.portCls 42) x.sram x.len true = .open → c.ecc = [] →
        (∀ l ∈ linesOf x.sram x.len, nth c.power.grp (grpOf l) .off = .awake) →
          c.wrote t.chip x.sram (s.nvmRead x.addr x.len) ∧ c.sameRegs t.chip [0x40055000] ∧ bit (t.chip.reg 0x40055000) 2 = true)) ∧
      (good → x.op ≠ 1 → c.sameRegs t.chip [0x40055000] ∧ c.sameMem t.chip ∧
        bit (t.chip.reg 0x40055000) 2 = true ∧
        (x.op = 2 → t.nvmRead x.addr x.fin.length = x.fin ∧
          ∀ y, y < x.addr ∨ x.addr + x.fin.length ≤ y → t.nvmByte y = s.nvmByte y) ∧
        (x.op ≠ 2 → (∀ y, x.addr ≤ y → y < x.addr + x.len → t.nvmByte y = 0xFF) ∧
          ∀ y, y < x.addr ∨ x.addr + x.len ≤ y → t.nvmByte y = s.nvmByte y))))

/-- Equal NVM contents are equal data: R136 to R141, R146, R151 to R153 keep the form. Table 20-2: programming goes from 0 to 1 only
(R148, R717, R718, R720). -/
def Obligations.StepKeepsNvmAndOtpForm : Prop :=
  (
    ∀ s t : State, Nvm.wf s.nvm = true → step s = .next t → Nvm.wf t.nvm = true) ∧
  (
    ∀ s t : State, step s = .next t → s.otpA.kept t.otpA ∧ s.otpB.kept t.otpB)

/-- R4, R6, R8, R10, R11. -/
def Obligations.RegisterStoresFollowFieldTypes : Prop :=
  ∀ (port a : Nat) (v : Word) (s : State), s.chip.canStore port a →
    (a ∈ [0x40090008, 0x40090048, 0x4009004C, 0x40055008, 0x400600B0] ∨ (0x40040040 ≤ a ∧ a < 0x40040080) →
      Completes (.registerWrite port a 4 v) s fun t => s.keeps t [a] ∧ t.chip.bus = ⟨[], false⟩ ∧ t.chip.reg a = v ∧ t.chip.act a = v) ∧
    (∀ m : Nat, (a, m) ∈ [(0x4000000C, 0x3F), (0x40000048, 1), (0x40010000, 0x89), (0x40010100, 5), (0x40020000, 15), (0x40030000, 31),
        (0x40030304, 0xFFFFFFFF), (0x40040000, 31), (0x40050000, 0x31), (0x40052000, 0x31), (0x40055000, 0x1D), (0x40060004, 0x101),
        (0x40090000, 0x3D)] → v &&& ~~~BitVec.ofNat 32 m = 0 →
      Completes (.registerWrite port a 4 v) s fun t => s.keeps t [a] ∧ t.chip.bus = ⟨[], false⟩ ∧
        t.chip.reg a = s.chip.reg a &&& ~~~v ∧ t.chip.act a = s.chip.act a &&& ~~~v) ∧
    (a ∈ [0x40000034, 0x40000038, 0x40020004, 0x40030004, 0x40040014, 0x40055004, 0x40060000, 0x40070000, 0x40090024] →
      Completes (.registerWrite port a 4 v) s fun t => s.keeps t [] ∧ t.chip.bus = ⟨[], false⟩) ∧
    ((∃ i < 24, a = 0x40020100 + 4 * i) → bit (s.chip.reg 0x40020800) 0 = true → fld v 12 4 = 0 →
      Completes (.registerWrite port a 4 v) s fun t => t.chip.bus = ⟨[], false⟩ ∧
        (fld v 0 12 = fld (s.chip.reg a) 0 12 → fld v 16 16 = fld (s.chip.reg a) 16 16 → s.keeps t []) ∧
        (fld v 0 12 ≠ fld (s.chip.reg a) 0 12 ∨ fld v 16 16 ≠ fld (s.chip.reg a) 16 16 →
          s.keeps t [0x40020000] ∧ bit (t.chip.reg 0x40020000) 0 = true)) ∧
    (a = 0x4004000C → fld v 0 8 = 0 → Completes (.registerWrite port a 4 v) s fun t =>
      s.keeps t [a, 0x40040000] ∧ t.chip.bus = ⟨[], false⟩ ∧ fld (t.chip.reg a) 0 8 = 0 ∧ fld (t.chip.act a) 0 8 = fld (s.chip.act a) 0 8 ∧
        bit (t.chip.reg 0x40040000) 0 = true) ∧
    (a = 0x40040004 → Completes (.registerWrite port a 4 v) s fun t =>
      s.keeps t [a, 0x40040000] ∧ t.chip.bus = ⟨[], false⟩ ∧ fld (t.chip.reg a) 0 10 = fld v 0 10 ∧ bit (t.chip.reg a) 31 = bit v 31 ∧
        (fld v 10 21 ≠ 0 → bit (t.chip.reg 0x40040000) 0 = true) ∧ (fld v 10 21 = 0 → s.keeps t [a]))
end

