-- ==== Sys2Proof/Laws/Bits.lean ====
section
/-! SUPPORT. Bit fields: what a field reads after a field has been put. -/
namespace Sys2Proof.Machine

theorem bit_fldMask (lo w i : Nat) : (fldMask lo w).getLsbD i = (decide (i < 32) && decide (lo ≤ i) && decide (i < lo + w)) := by
  unfold fldMask
  rw [BitVec.getLsbD_ofNat, Nat.testBit_mul_two_pow, Nat.testBit_two_pow_sub_one]
  by_cases h1 : i < 32 <;> by_cases h2 : lo ≤ i <;> by_cases h3 : i < lo + w <;> simp [h1, h2, h3] <;> omega

/-- Bit `i` after field [lo+w-1 : lo] has been put. -/
theorem bit_putFld (v : Word) (lo w x i : Nat) :
    bit (putFld v lo w x) i = if lo ≤ i ∧ i < lo + w ∧ i < 32 then x.testBit (i - lo) else bit v i := by
  unfold putFld bit
  rw [BitVec.getLsbD_or, BitVec.getLsbD_and, BitVec.getLsbD_not, bit_fldMask, BitVec.getLsbD_ofNat, Nat.testBit_mul_two_pow,
    Nat.testBit_mod_two_pow]
  by_cases h1 : i < 32
  · by_cases h2 : lo ≤ i
    · by_cases h3 : i < lo + w
      · have h4 : i - lo < w := by omega
        simp [h1, h2, h3, h4]
      · have h4 : ¬ i - lo < w := by omega
        simp [h1, h2, h3, h4]
    · simp [h1, h2]
  · have : v.getLsbD i = false := BitVec.getLsbD_of_ge _ _ (by omega)
    simp [h1, this]

theorem testBit_fld (v : Word) (lo w i : Nat) : (fld v lo w).testBit i = (decide (i < w) && bit v (lo + i)) := by
  unfold fld bit
  rw [Nat.testBit_mod_two_pow, Nat.testBit_div_two_pow, BitVec.getLsbD, Nat.add_comm]

theorem fld_lt (v : Word) (lo w : Nat) : fld v lo w < 2 ^ w := Nat.mod_lt _ (Nat.two_pow_pos w)

/-- A field reads what was put into it. -/
theorem fld_putFld_self (v : Word) {lo w : Nat} (x : Nat) (h : lo + w ≤ 32) : fld (putFld v lo w x) lo w = x % 2 ^ w := by
  refine Nat.eq_of_testBit_eq fun i => ?_
  rw [testBit_fld, bit_putFld, Nat.testBit_mod_two_pow]
  by_cases hi : i < w
  · have : lo ≤ lo + i ∧ lo + i < lo + w ∧ lo + i < 32 := by omega
    simp [hi, this]
  · simp [hi]

/-- A field that shares no bit with the one put keeps its value. -/
theorem fld_putFld_other (v : Word) {lo w lo' w' : Nat} (x : Nat) (h : lo + w ≤ lo' ∨ lo' + w' ≤ lo) :
    fld (putFld v lo w x) lo' w' = fld v lo' w' := by
  refine Nat.eq_of_testBit_eq fun i => ?_
  rw [testBit_fld, testBit_fld, bit_putFld]
  by_cases hi : i < w'
  · have : ¬ (lo ≤ lo' + i ∧ lo' + i < lo + w ∧ lo' + i < 32) := by omega
    simp [hi, this]
  · simp [hi]

theorem fld_ofNat (n lo w : Nat) (h : n < 2 ^ 32) : fld (BitVec.ofNat 32 n) lo w = n / 2 ^ lo % 2 ^ w := by
  rw [fld, BitVec.toNat_ofNat, Nat.mod_eq_of_lt h]

theorem bit_putFld_one (v : Word) (i : Nat) (b : Bool) (h : i < 32) : bit (putFld v i 1 (if b then 1 else 0)) i = b := by
  rw [bit_putFld]; cases b <;> simp [h]

theorem bit_putFld_one_other (v : Word) {i j : Nat} (x : Nat) (h : i ≠ j) : bit (putFld v i 1 x) j = bit v j := by
  rw [bit_putFld, if_neg (by omega)]

@[simp] theorem length_leBytes (k n : Nat) : (leBytes k n).length = k := by
  induction k generalizing n with
  | zero => rfl
  | succ k ih => simp [leBytes, ih]

theorem leNat_leBytes (k n : Nat) : leNat (leBytes k n) = n % 256 ^ k := by
  induction k generalizing n with
  | zero => simp [leBytes, leNat, Nat.mod_one]
  | succ k ih =>
    simp only [leBytes, leNat, ih, BitVec.toNat_ofNat, Nat.reducePow]
    rw [Nat.pow_succ, Nat.mul_comm (256 ^ k) 256, Nat.mod_mul]

@[simp] theorem length_upd {α : Type} (l : List α) (i : Nat) (f : α → α) : (upd l i f).length = l.length := by
  simp [upd]

theorem nth_upd_self {α : Type} {l : List α} {i : Nat} (f : α → α) (d : α) (h : i < l.length) :
    nth (upd l i f) i d = f (nth l i d) := by
  simp [nth, upd, List.getD_eq_getElem?_getD, h]

theorem nth_upd_other {α : Type} (l : List α) {i j : Nat} (f : α → α) (d : α) (h : i ≠ j) : nth (upd l i f) j d = nth l j d := by
  simp [nth, upd, List.getD_eq_getElem?_getD, h]

end Sys2Proof.Machine
end

