-- ==== Sys2Proof/Laws/Sparse.lean ====
section
/-! SUPPORT. Sparse lists: what is read after a write, and that every operation keeps the canonical form. -/
namespace Sys2Proof.Machine

/-- Keys strictly rising. -/
abbrev Sparse.rising {α : Type} (l : List (Nat × α)) : Prop := l.Pairwise fun x y => x.1 < y.1

theorem Sparse.find_put_self {α : Type} (a : Nat) (v : α) (l : List (Nat × α)) : Sparse.find a (Sparse.put a v l) = some v := by
  induction l with
  | nil => simp [Sparse.put, Sparse.find]
  | cons x r ih =>
    obtain ⟨k, w⟩ := x
    by_cases h : a < k
    · simp [Sparse.put, h, Sparse.find]
    · by_cases h2 : k = a
      · simp [Sparse.put, h2, Sparse.find]
      · simp [Sparse.put, h, h2, Sparse.find, ih]

theorem Sparse.find_put_other {α : Type} {a b : Nat} (h : a ≠ b) (v : α) (l : List (Nat × α)) :
    Sparse.find b (Sparse.put a v l) = Sparse.find b l := by
  induction l with
  | nil => simp [Sparse.put, Sparse.find, h]
  | cons x r ih =>
    obtain ⟨k, w⟩ := x
    by_cases h1 : a < k
    · simp [Sparse.put, h1, Sparse.find, h]
    · by_cases h2 : k = a
      · subst h2; simp [Sparse.put, Sparse.find, h]
      · simp [Sparse.put, h1, h2, Sparse.find, ih]

theorem Sparse.find_del_self {α : Type} (a : Nat) (l : List (Nat × α)) : Sparse.find a (Sparse.del a l) = none := by
  induction l with
  | nil => rfl
  | cons x r ih => by_cases h : x.1 = a <;> simp [Sparse.del, Sparse.find, h, ih]

theorem Sparse.find_del_other {α : Type} {a b : Nat} (h : a ≠ b) (l : List (Nat × α)) :
    Sparse.find b (Sparse.del a l) = Sparse.find b l := by
  induction l with
  | nil => rfl
  | cons x r ih =>
    by_cases h1 : x.1 = a
    · have h2 : x.1 ≠ b := by omega
      simp [Sparse.del, Sparse.find, h1, h, ih]
    · simp [Sparse.del, Sparse.find, h1, ih]

/-- What a set key reads as. -/
theorem Sparse.find_set_self {α : Type} [DecidableEq α] (d : α) (a : Nat) (v : α) (l : List (Nat × α)) :
    (Sparse.find a (Sparse.set d a v l)).getD d = v := by
  by_cases h : v = d
  · simp [Sparse.set, h, Sparse.find_del_self]
  · simp [Sparse.set, h, Sparse.find_put_self]

theorem Sparse.find_set_other {α : Type} [DecidableEq α] (d : α) {a b : Nat} (h : a ≠ b) (v : α) (l : List (Nat × α)) :
    Sparse.find b (Sparse.set d a v l) = Sparse.find b l := by
  by_cases h1 : v = d
  · simp [Sparse.set, h1, Sparse.find_del_other h]
  · simp [Sparse.set, h1, Sparse.find_put_other h]

/-- The canonical form, as rising keys and no entry equal to what its key reads as when unlisted. -/
theorem Sparse.wf_iff {α : Type} [DecidableEq α] (d : Nat → α) (l : List (Nat × α)) :
    Sparse.wf d l = true ↔ Sparse.rising l ∧ ∀ x ∈ l, x.2 ≠ d x.1 := by
  induction l with
  | nil => simp [Sparse.wf]
  | cons x r ih =>
    cases r with
    | nil => simp [Sparse.wf]
    | cons y r =>
      simp only [Sparse.wf, Bool.and_eq_true, decide_eq_true_eq, ih, List.pairwise_cons, List.mem_cons, forall_eq_or_imp]
      constructor
      · rintro ⟨⟨h1, h2⟩, ⟨h3, h4⟩, h5, h6⟩
        exact ⟨⟨⟨h2, fun z hz => Nat.lt_trans h2 (h3 z hz)⟩, h3, h4⟩, h1, h5, h6⟩
      · rintro ⟨⟨⟨h2, _⟩, h3, h4⟩, h1, h5, h6⟩
        exact ⟨⟨h1, h2⟩, ⟨h3, h4⟩, h5, h6⟩

theorem Sparse.mem_del {α : Type} {a : Nat} {l : List (Nat × α)} {x : Nat × α} (h : x ∈ Sparse.del a l) : x ∈ l ∧ x.1 ≠ a := by
  induction l with
  | nil => simp [Sparse.del] at h
  | cons y r ih =>
    by_cases h1 : y.1 = a
    · simp only [Sparse.del, h1, if_true] at h
      exact ⟨List.mem_cons_of_mem _ (ih h).1, (ih h).2⟩
    · simp only [Sparse.del, h1, if_false, List.mem_cons] at h
      rcases h with h | h
      · subst h; exact ⟨List.mem_cons_self .., h1⟩
      · exact ⟨List.mem_cons_of_mem _ (ih h).1, (ih h).2⟩

theorem Sparse.mem_put {α : Type} {a : Nat} {v : α} {l : List (Nat × α)} {x : Nat × α} (h : x ∈ Sparse.put a v l) :
    x = (a, v) ∨ x ∈ l := by
  induction l with
  | nil => simpa [Sparse.put] using h
  | cons y r ih =>
    obtain ⟨k, w⟩ := y
    unfold Sparse.put at h
    split at h
    · simpa using h
    · split at h
      · rcases List.mem_cons.1 h with h | h
        · exact .inl h
        · exact .inr (List.mem_cons_of_mem _ h)
      · rcases List.mem_cons.1 h with h | h
        · exact .inr (h ▸ List.mem_cons_self ..)
        · exact (ih h).imp id (List.mem_cons_of_mem _)

theorem Sparse.rising_del {α : Type} {l : List (Nat × α)} (a : Nat) (h : Sparse.rising l) : Sparse.rising (Sparse.del a l) := by
  induction l with
  | nil => exact h
  | cons y r ih =>
    obtain ⟨h1, h2⟩ := List.pairwise_cons.1 h
    by_cases hy : y.1 = a
    · simpa [Sparse.del, hy] using ih h2
    · simp only [Sparse.del, hy, if_false]
      exact List.pairwise_cons.2 ⟨fun z hz => h1 z (Sparse.mem_del hz).1, ih h2⟩

theorem Sparse.rising_put {α : Type} {l : List (Nat × α)} (a : Nat) (v : α) (h : Sparse.rising l) :
    Sparse.rising (Sparse.put a v l) := by
  induction l with
  | nil => simp [Sparse.put]
  | cons y r ih =>
    obtain ⟨k, w⟩ := y
    obtain ⟨h1, h2⟩ := List.pairwise_cons.1 h
    unfold Sparse.put
    split
    · rename_i hy
      refine List.pairwise_cons.2 ⟨fun z hz => ?_, h⟩
      rcases List.mem_cons.1 hz with hz | hz
      · subst hz; exact hy
      · exact Nat.lt_trans hy (h1 z hz)
    · split
      · rename_i hk
        exact List.pairwise_cons.2 ⟨fun z hz => hk ▸ h1 z hz, h2⟩
      · refine List.pairwise_cons.2 ⟨fun z hz => ?_, ih h2⟩
        rcases Sparse.mem_put hz with hz | hz
        · subst hz; show k < a; omega
        · exact h1 z hz

theorem Sparse.wf_filter {α : Type} [DecidableEq α] {d : Nat → α} {l : List (Nat × α)} (p : Nat × α → Bool)
    (h : Sparse.wf d l = true) : Sparse.wf d (l.filter p) = true := by
  rw [Sparse.wf_iff] at *
  exact ⟨h.1.filter p, fun x hx => h.2 x (List.mem_filter.1 hx).1⟩

theorem Sparse.wf_del {α : Type} [DecidableEq α] {d : Nat → α} {l : List (Nat × α)} (a : Nat) (h : Sparse.wf d l = true) :
    Sparse.wf d (Sparse.del a l) = true := by
  rw [Sparse.wf_iff] at *
  exact ⟨Sparse.rising_del a h.1, fun x hx => h.2 x (Sparse.mem_del hx).1⟩

/-- Setting a key keeps the canonical form. -/
theorem Sparse.wf_set {α : Type} [DecidableEq α] {d : Nat → α} {l : List (Nat × α)} (a : Nat) (v : α) (h : Sparse.wf d l = true) :
    Sparse.wf d (Sparse.set (d a) a v l) = true := by
  by_cases hv : v = d a
  · simpa [Sparse.set, hv] using Sparse.wf_del a h
  · rw [Sparse.wf_iff] at *
    simp only [Sparse.set, hv, if_false]
    refine ⟨Sparse.rising_put a v h.1, fun x hx => ?_⟩
    rcases Sparse.mem_put hx with hx | hx
    · subst hx; exact hv
    · exact h.2 x hx

end Sys2Proof.Machine
end

