-- ==== Sys2Proof/Laws/State.lean ====
section
/-! SUPPORT. What each named update of State and Chip leaves in each field; every lemma is true by rfl. -/
namespace Sys2Proof.Machine

/-! ### Setting a register -/

@[simp] theorem Chip.setReg_mem (c : Chip) (a : Nat) (v : Word) : (c.setReg a v).mem = c.mem := rfl
@[simp] theorem Chip.setReg_ecc (c : Chip) (a : Nat) (v : Word) : (c.setReg a v).ecc = c.ecc := rfl
@[simp] theorem Chip.setReg_stalled (c : Chip) (a : Nat) (v : Word) : (c.setReg a v).stalled = c.stalled := rfl
@[simp] theorem Chip.setReg_resv (c : Chip) (a : Nat) (v : Word) : (c.setReg a v).resv = c.resv := rfl
@[simp] theorem Chip.setReg_bankPtr (c : Chip) (a : Nat) (v : Word) : (c.setReg a v).bankPtr = c.bankPtr := rfl
@[simp] theorem Chip.setReg_bankGrant (c : Chip) (a : Nat) (v : Word) : (c.setReg a v).bankGrant = c.bankGrant := rfl
@[simp] theorem Chip.setReg_scrub (c : Chip) (a : Nat) (v : Word) : (c.setReg a v).scrub = c.scrub := rfl
@[simp] theorem Chip.setReg_power (c : Chip) (a : Nat) (v : Word) : (c.setReg a v).power = c.power := rfl
@[simp] theorem Chip.setReg_clocks (c : Chip) (a : Nat) (v : Word) : (c.setReg a v).clocks = c.clocks := rfl
@[simp] theorem Chip.setReg_pins (c : Chip) (a : Nat) (v : Word) : (c.setReg a v).pins = c.pins := rfl
@[simp] theorem Chip.setReg_bus (c : Chip) (a : Nat) (v : Word) : (c.setReg a v).bus = c.bus := rfl
@[simp] theorem Chip.setReg_log (c : Chip) (a : Nat) (v : Word) : (c.setReg a v).log = c.log := rfl
@[simp] theorem Chip.setReg_dump (c : Chip) (a : Nat) (v : Word) : (c.setReg a v).dump = c.dump := rfl
@[simp] theorem Chip.setReg_sec (c : Chip) (a : Nat) (v : Word) : (c.setReg a v).sec = c.sec := rfl
@[simp] theorem Chip.setReg_boot (c : Chip) (a : Nat) (v : Word) : (c.setReg a v).boot = c.boot := rfl
@[simp] theorem Chip.setReg_xspi (c : Chip) (a : Nat) (v : Word) : (c.setReg a v).xspi = c.xspi := rfl
@[simp] theorem Chip.setReg_safe (c : Chip) (a : Nat) (v : Word) : (c.setReg a v).safe = c.safe := rfl
@[simp] theorem Chip.setReg_bel (c : Chip) (a : Nat) (v : Word) : (c.setReg a v).bel = c.bel := rfl
@[simp] theorem Chip.setReg_can (c : Chip) (a : Nat) (v : Word) : (c.setReg a v).can = c.can := rfl
@[simp] theorem Chip.setReg_sense (c : Chip) (a : Nat) (v : Word) : (c.setReg a v).sense = c.sense := rfl
@[simp] theorem Chip.setReg_eng (c : Chip) (a : Nat) (v : Word) : (c.setReg a v).eng = c.eng := rfl
@[simp] theorem Chip.setReg_zle (c : Chip) (a : Nat) (v : Word) : (c.setReg a v).zle = c.zle := rfl
@[simp] theorem Chip.setReg_hl (c : Chip) (a : Nat) (v : Word) : (c.setReg a v).hl = c.hl := rfl
@[simp] theorem Chip.setReg_vif (c : Chip) (a : Nat) (v : Word) : (c.setReg a v).vif = c.vif := rfl
@[simp] theorem Chip.setReg_fw (c : Chip) (a : Nat) (v : Word) : (c.setReg a v).fw = c.fw := rfl
@[simp] theorem Chip.setReg_mgr (c : Chip) (a : Nat) (v : Word) : (c.setReg a v).mgr = c.mgr := rfl
@[simp] theorem Chip.setReg_fresh (c : Chip) (a : Nat) (v : Word) : (c.setReg a v).fresh = c.fresh := rfl

/-! ### Setting a register and what its block acts on -/

@[simp] theorem Chip.setRegAct_mem (c : Chip) (a : Nat) (v e : Word) : (c.setRegAct a v e).mem = c.mem := rfl
@[simp] theorem Chip.setRegAct_ecc (c : Chip) (a : Nat) (v e : Word) : (c.setRegAct a v e).ecc = c.ecc := rfl
@[simp] theorem Chip.setRegAct_stalled (c : Chip) (a : Nat) (v e : Word) : (c.setRegAct a v e).stalled = c.stalled := rfl
@[simp] theorem Chip.setRegAct_resv (c : Chip) (a : Nat) (v e : Word) : (c.setRegAct a v e).resv = c.resv := rfl
@[simp] theorem Chip.setRegAct_bankPtr (c : Chip) (a : Nat) (v e : Word) : (c.setRegAct a v e).bankPtr = c.bankPtr := rfl
@[simp] theorem Chip.setRegAct_bankGrant (c : Chip) (a : Nat) (v e : Word) : (c.setRegAct a v e).bankGrant = c.bankGrant := rfl
@[simp] theorem Chip.setRegAct_scrub (c : Chip) (a : Nat) (v e : Word) : (c.setRegAct a v e).scrub = c.scrub := rfl
@[simp] theorem Chip.setRegAct_power (c : Chip) (a : Nat) (v e : Word) : (c.setRegAct a v e).power = c.power := rfl
@[simp] theorem Chip.setRegAct_clocks (c : Chip) (a : Nat) (v e : Word) : (c.setRegAct a v e).clocks = c.clocks := rfl
@[simp] theorem Chip.setRegAct_pins (c : Chip) (a : Nat) (v e : Word) : (c.setRegAct a v e).pins = c.pins := rfl
@[simp] theorem Chip.setRegAct_bus (c : Chip) (a : Nat) (v e : Word) : (c.setRegAct a v e).bus = c.bus := rfl
@[simp] theorem Chip.setRegAct_log (c : Chip) (a : Nat) (v e : Word) : (c.setRegAct a v e).log = c.log := rfl
@[simp] theorem Chip.setRegAct_dump (c : Chip) (a : Nat) (v e : Word) : (c.setRegAct a v e).dump = c.dump := rfl
@[simp] theorem Chip.setRegAct_sec (c : Chip) (a : Nat) (v e : Word) : (c.setRegAct a v e).sec = c.sec := rfl
@[simp] theorem Chip.setRegAct_boot (c : Chip) (a : Nat) (v e : Word) : (c.setRegAct a v e).boot = c.boot := rfl
@[simp] theorem Chip.setRegAct_xspi (c : Chip) (a : Nat) (v e : Word) : (c.setRegAct a v e).xspi = c.xspi := rfl
@[simp] theorem Chip.setRegAct_safe (c : Chip) (a : Nat) (v e : Word) : (c.setRegAct a v e).safe = c.safe := rfl
@[simp] theorem Chip.setRegAct_bel (c : Chip) (a : Nat) (v e : Word) : (c.setRegAct a v e).bel = c.bel := rfl
@[simp] theorem Chip.setRegAct_can (c : Chip) (a : Nat) (v e : Word) : (c.setRegAct a v e).can = c.can := rfl
@[simp] theorem Chip.setRegAct_sense (c : Chip) (a : Nat) (v e : Word) : (c.setRegAct a v e).sense = c.sense := rfl
@[simp] theorem Chip.setRegAct_eng (c : Chip) (a : Nat) (v e : Word) : (c.setRegAct a v e).eng = c.eng := rfl
@[simp] theorem Chip.setRegAct_zle (c : Chip) (a : Nat) (v e : Word) : (c.setRegAct a v e).zle = c.zle := rfl
@[simp] theorem Chip.setRegAct_hl (c : Chip) (a : Nat) (v e : Word) : (c.setRegAct a v e).hl = c.hl := rfl
@[simp] theorem Chip.setRegAct_vif (c : Chip) (a : Nat) (v e : Word) : (c.setRegAct a v e).vif = c.vif := rfl
@[simp] theorem Chip.setRegAct_fw (c : Chip) (a : Nat) (v e : Word) : (c.setRegAct a v e).fw = c.fw := rfl
@[simp] theorem Chip.setRegAct_mgr (c : Chip) (a : Nat) (v e : Word) : (c.setRegAct a v e).mgr = c.mgr := rfl
@[simp] theorem Chip.setRegAct_fresh (c : Chip) (a : Nat) (v e : Word) : (c.setRegAct a v e).fresh = c.fresh := rfl

/-! ### Setting a field -/

@[simp] theorem Chip.setFld_mem (c : Chip) (a lo w x : Nat) : (c.setFld a lo w x).mem = c.mem := rfl
@[simp] theorem Chip.setFld_ecc (c : Chip) (a lo w x : Nat) : (c.setFld a lo w x).ecc = c.ecc := rfl
@[simp] theorem Chip.setFld_stalled (c : Chip) (a lo w x : Nat) : (c.setFld a lo w x).stalled = c.stalled := rfl
@[simp] theorem Chip.setFld_resv (c : Chip) (a lo w x : Nat) : (c.setFld a lo w x).resv = c.resv := rfl
@[simp] theorem Chip.setFld_bankPtr (c : Chip) (a lo w x : Nat) : (c.setFld a lo w x).bankPtr = c.bankPtr := rfl
@[simp] theorem Chip.setFld_bankGrant (c : Chip) (a lo w x : Nat) : (c.setFld a lo w x).bankGrant = c.bankGrant := rfl
@[simp] theorem Chip.setFld_scrub (c : Chip) (a lo w x : Nat) : (c.setFld a lo w x).scrub = c.scrub := rfl
@[simp] theorem Chip.setFld_power (c : Chip) (a lo w x : Nat) : (c.setFld a lo w x).power = c.power := rfl
@[simp] theorem Chip.setFld_clocks (c : Chip) (a lo w x : Nat) : (c.setFld a lo w x).clocks = c.clocks := rfl
@[simp] theorem Chip.setFld_pins (c : Chip) (a lo w x : Nat) : (c.setFld a lo w x).pins = c.pins := rfl
@[simp] theorem Chip.setFld_bus (c : Chip) (a lo w x : Nat) : (c.setFld a lo w x).bus = c.bus := rfl
@[simp] theorem Chip.setFld_log (c : Chip) (a lo w x : Nat) : (c.setFld a lo w x).log = c.log := rfl
@[simp] theorem Chip.setFld_dump (c : Chip) (a lo w x : Nat) : (c.setFld a lo w x).dump = c.dump := rfl
@[simp] theorem Chip.setFld_sec (c : Chip) (a lo w x : Nat) : (c.setFld a lo w x).sec = c.sec := rfl
@[simp] theorem Chip.setFld_boot (c : Chip) (a lo w x : Nat) : (c.setFld a lo w x).boot = c.boot := rfl
@[simp] theorem Chip.setFld_xspi (c : Chip) (a lo w x : Nat) : (c.setFld a lo w x).xspi = c.xspi := rfl
@[simp] theorem Chip.setFld_safe (c : Chip) (a lo w x : Nat) : (c.setFld a lo w x).safe = c.safe := rfl
@[simp] theorem Chip.setFld_bel (c : Chip) (a lo w x : Nat) : (c.setFld a lo w x).bel = c.bel := rfl
@[simp] theorem Chip.setFld_can (c : Chip) (a lo w x : Nat) : (c.setFld a lo w x).can = c.can := rfl
@[simp] theorem Chip.setFld_sense (c : Chip) (a lo w x : Nat) : (c.setFld a lo w x).sense = c.sense := rfl
@[simp] theorem Chip.setFld_eng (c : Chip) (a lo w x : Nat) : (c.setFld a lo w x).eng = c.eng := rfl
@[simp] theorem Chip.setFld_zle (c : Chip) (a lo w x : Nat) : (c.setFld a lo w x).zle = c.zle := rfl
@[simp] theorem Chip.setFld_hl (c : Chip) (a lo w x : Nat) : (c.setFld a lo w x).hl = c.hl := rfl
@[simp] theorem Chip.setFld_vif (c : Chip) (a lo w x : Nat) : (c.setFld a lo w x).vif = c.vif := rfl
@[simp] theorem Chip.setFld_fw (c : Chip) (a lo w x : Nat) : (c.setFld a lo w x).fw = c.fw := rfl
@[simp] theorem Chip.setFld_mgr (c : Chip) (a lo w x : Nat) : (c.setFld a lo w x).mgr = c.mgr := rfl
@[simp] theorem Chip.setFld_fresh (c : Chip) (a lo w x : Nat) : (c.setFld a lo w x).fresh = c.fresh := rfl

/-! ### Setting a bit -/

@[simp] theorem Chip.setBit_mem (c : Chip) (a i : Nat) (b : Bool) : (c.setBit a i b).mem = c.mem := rfl
@[simp] theorem Chip.setBit_ecc (c : Chip) (a i : Nat) (b : Bool) : (c.setBit a i b).ecc = c.ecc := rfl
@[simp] theorem Chip.setBit_stalled (c : Chip) (a i : Nat) (b : Bool) : (c.setBit a i b).stalled = c.stalled := rfl
@[simp] theorem Chip.setBit_resv (c : Chip) (a i : Nat) (b : Bool) : (c.setBit a i b).resv = c.resv := rfl
@[simp] theorem Chip.setBit_bankPtr (c : Chip) (a i : Nat) (b : Bool) : (c.setBit a i b).bankPtr = c.bankPtr := rfl
@[simp] theorem Chip.setBit_bankGrant (c : Chip) (a i : Nat) (b : Bool) : (c.setBit a i b).bankGrant = c.bankGrant := rfl
@[simp] theorem Chip.setBit_scrub (c : Chip) (a i : Nat) (b : Bool) : (c.setBit a i b).scrub = c.scrub := rfl
@[simp] theorem Chip.setBit_power (c : Chip) (a i : Nat) (b : Bool) : (c.setBit a i b).power = c.power := rfl
@[simp] theorem Chip.setBit_clocks (c : Chip) (a i : Nat) (b : Bool) : (c.setBit a i b).clocks = c.clocks := rfl
@[simp] theorem Chip.setBit_pins (c : Chip) (a i : Nat) (b : Bool) : (c.setBit a i b).pins = c.pins := rfl
@[simp] theorem Chip.setBit_bus (c : Chip) (a i : Nat) (b : Bool) : (c.setBit a i b).bus = c.bus := rfl
@[simp] theorem Chip.setBit_log (c : Chip) (a i : Nat) (b : Bool) : (c.setBit a i b).log = c.log := rfl
@[simp] theorem Chip.setBit_dump (c : Chip) (a i : Nat) (b : Bool) : (c.setBit a i b).dump = c.dump := rfl
@[simp] theorem Chip.setBit_sec (c : Chip) (a i : Nat) (b : Bool) : (c.setBit a i b).sec = c.sec := rfl
@[simp] theorem Chip.setBit_boot (c : Chip) (a i : Nat) (b : Bool) : (c.setBit a i b).boot = c.boot := rfl
@[simp] theorem Chip.setBit_xspi (c : Chip) (a i : Nat) (b : Bool) : (c.setBit a i b).xspi = c.xspi := rfl
@[simp] theorem Chip.setBit_safe (c : Chip) (a i : Nat) (b : Bool) : (c.setBit a i b).safe = c.safe := rfl
@[simp] theorem Chip.setBit_bel (c : Chip) (a i : Nat) (b : Bool) : (c.setBit a i b).bel = c.bel := rfl
@[simp] theorem Chip.setBit_can (c : Chip) (a i : Nat) (b : Bool) : (c.setBit a i b).can = c.can := rfl
@[simp] theorem Chip.setBit_sense (c : Chip) (a i : Nat) (b : Bool) : (c.setBit a i b).sense = c.sense := rfl
@[simp] theorem Chip.setBit_eng (c : Chip) (a i : Nat) (b : Bool) : (c.setBit a i b).eng = c.eng := rfl
@[simp] theorem Chip.setBit_zle (c : Chip) (a i : Nat) (b : Bool) : (c.setBit a i b).zle = c.zle := rfl
@[simp] theorem Chip.setBit_hl (c : Chip) (a i : Nat) (b : Bool) : (c.setBit a i b).hl = c.hl := rfl
@[simp] theorem Chip.setBit_vif (c : Chip) (a i : Nat) (b : Bool) : (c.setBit a i b).vif = c.vif := rfl
@[simp] theorem Chip.setBit_fw (c : Chip) (a i : Nat) (b : Bool) : (c.setBit a i b).fw = c.fw := rfl
@[simp] theorem Chip.setBit_mgr (c : Chip) (a i : Nat) (b : Bool) : (c.setBit a i b).mgr = c.mgr := rfl
@[simp] theorem Chip.setBit_fresh (c : Chip) (a i : Nat) (b : Bool) : (c.setBit a i b).fresh = c.fresh := rfl

/-! ### Storing a byte -/

@[simp] theorem Chip.poke_regs (c : Chip) (a : Nat) (b : Byte) : (c.poke a b).regs = c.regs := rfl
@[simp] theorem Chip.poke_acts (c : Chip) (a : Nat) (b : Byte) : (c.poke a b).acts = c.acts := rfl
@[simp] theorem Chip.poke_ecc (c : Chip) (a : Nat) (b : Byte) : (c.poke a b).ecc = c.ecc := rfl
@[simp] theorem Chip.poke_stalled (c : Chip) (a : Nat) (b : Byte) : (c.poke a b).stalled = c.stalled := rfl
@[simp] theorem Chip.poke_resv (c : Chip) (a : Nat) (b : Byte) : (c.poke a b).resv = c.resv := rfl
@[simp] theorem Chip.poke_bankPtr (c : Chip) (a : Nat) (b : Byte) : (c.poke a b).bankPtr = c.bankPtr := rfl
@[simp] theorem Chip.poke_bankGrant (c : Chip) (a : Nat) (b : Byte) : (c.poke a b).bankGrant = c.bankGrant := rfl
@[simp] theorem Chip.poke_scrub (c : Chip) (a : Nat) (b : Byte) : (c.poke a b).scrub = c.scrub := rfl
@[simp] theorem Chip.poke_power (c : Chip) (a : Nat) (b : Byte) : (c.poke a b).power = c.power := rfl
@[simp] theorem Chip.poke_clocks (c : Chip) (a : Nat) (b : Byte) : (c.poke a b).clocks = c.clocks := rfl
@[simp] theorem Chip.poke_pins (c : Chip) (a : Nat) (b : Byte) : (c.poke a b).pins = c.pins := rfl
@[simp] theorem Chip.poke_bus (c : Chip) (a : Nat) (b : Byte) : (c.poke a b).bus = c.bus := rfl
@[simp] theorem Chip.poke_log (c : Chip) (a : Nat) (b : Byte) : (c.poke a b).log = c.log := rfl
@[simp] theorem Chip.poke_dump (c : Chip) (a : Nat) (b : Byte) : (c.poke a b).dump = c.dump := rfl
@[simp] theorem Chip.poke_sec (c : Chip) (a : Nat) (b : Byte) : (c.poke a b).sec = c.sec := rfl
@[simp] theorem Chip.poke_boot (c : Chip) (a : Nat) (b : Byte) : (c.poke a b).boot = c.boot := rfl
@[simp] theorem Chip.poke_xspi (c : Chip) (a : Nat) (b : Byte) : (c.poke a b).xspi = c.xspi := rfl
@[simp] theorem Chip.poke_safe (c : Chip) (a : Nat) (b : Byte) : (c.poke a b).safe = c.safe := rfl
@[simp] theorem Chip.poke_bel (c : Chip) (a : Nat) (b : Byte) : (c.poke a b).bel = c.bel := rfl
@[simp] theorem Chip.poke_can (c : Chip) (a : Nat) (b : Byte) : (c.poke a b).can = c.can := rfl
@[simp] theorem Chip.poke_sense (c : Chip) (a : Nat) (b : Byte) : (c.poke a b).sense = c.sense := rfl
@[simp] theorem Chip.poke_eng (c : Chip) (a : Nat) (b : Byte) : (c.poke a b).eng = c.eng := rfl
@[simp] theorem Chip.poke_zle (c : Chip) (a : Nat) (b : Byte) : (c.poke a b).zle = c.zle := rfl
@[simp] theorem Chip.poke_hl (c : Chip) (a : Nat) (b : Byte) : (c.poke a b).hl = c.hl := rfl
@[simp] theorem Chip.poke_vif (c : Chip) (a : Nat) (b : Byte) : (c.poke a b).vif = c.vif := rfl
@[simp] theorem Chip.poke_fw (c : Chip) (a : Nat) (b : Byte) : (c.poke a b).fw = c.fw := rfl
@[simp] theorem Chip.poke_mgr (c : Chip) (a : Nat) (b : Byte) : (c.poke a b).mgr = c.mgr := rfl
@[simp] theorem Chip.poke_fresh (c : Chip) (a : Nat) (b : Byte) : (c.poke a b).fresh = c.fresh := rfl

/-! ### Answering -/

@[simp] theorem Chip.respond_regs (c : Chip) (d : List Byte) : (c.respond d).regs = c.regs := rfl
@[simp] theorem Chip.respond_acts (c : Chip) (d : List Byte) : (c.respond d).acts = c.acts := rfl
@[simp] theorem Chip.respond_mem (c : Chip) (d : List Byte) : (c.respond d).mem = c.mem := rfl
@[simp] theorem Chip.respond_ecc (c : Chip) (d : List Byte) : (c.respond d).ecc = c.ecc := rfl
@[simp] theorem Chip.respond_stalled (c : Chip) (d : List Byte) : (c.respond d).stalled = c.stalled := rfl
@[simp] theorem Chip.respond_resv (c : Chip) (d : List Byte) : (c.respond d).resv = c.resv := rfl
@[simp] theorem Chip.respond_bankPtr (c : Chip) (d : List Byte) : (c.respond d).bankPtr = c.bankPtr := rfl
@[simp] theorem Chip.respond_bankGrant (c : Chip) (d : List Byte) : (c.respond d).bankGrant = c.bankGrant := rfl
@[simp] theorem Chip.respond_scrub (c : Chip) (d : List Byte) : (c.respond d).scrub = c.scrub := rfl
@[simp] theorem Chip.respond_power (c : Chip) (d : List Byte) : (c.respond d).power = c.power := rfl
@[simp] theorem Chip.respond_clocks (c : Chip) (d : List Byte) : (c.respond d).clocks = c.clocks := rfl
@[simp] theorem Chip.respond_pins (c : Chip) (d : List Byte) : (c.respond d).pins = c.pins := rfl
@[simp] theorem Chip.respond_log (c : Chip) (d : List Byte) : (c.respond d).log = c.log := rfl
@[simp] theorem Chip.respond_dump (c : Chip) (d : List Byte) : (c.respond d).dump = c.dump := rfl
@[simp] theorem Chip.respond_sec (c : Chip) (d : List Byte) : (c.respond d).sec = c.sec := rfl
@[simp] theorem Chip.respond_boot (c : Chip) (d : List Byte) : (c.respond d).boot = c.boot := rfl
@[simp] theorem Chip.respond_xspi (c : Chip) (d : List Byte) : (c.respond d).xspi = c.xspi := rfl
@[simp] theorem Chip.respond_safe (c : Chip) (d : List Byte) : (c.respond d).safe = c.safe := rfl
@[simp] theorem Chip.respond_bel (c : Chip) (d : List Byte) : (c.respond d).bel = c.bel := rfl
@[simp] theorem Chip.respond_can (c : Chip) (d : List Byte) : (c.respond d).can = c.can := rfl
@[simp] theorem Chip.respond_sense (c : Chip) (d : List Byte) : (c.respond d).sense = c.sense := rfl
@[simp] theorem Chip.respond_eng (c : Chip) (d : List Byte) : (c.respond d).eng = c.eng := rfl
@[simp] theorem Chip.respond_zle (c : Chip) (d : List Byte) : (c.respond d).zle = c.zle := rfl
@[simp] theorem Chip.respond_hl (c : Chip) (d : List Byte) : (c.respond d).hl = c.hl := rfl
@[simp] theorem Chip.respond_vif (c : Chip) (d : List Byte) : (c.respond d).vif = c.vif := rfl
@[simp] theorem Chip.respond_fw (c : Chip) (d : List Byte) : (c.respond d).fw = c.fw := rfl
@[simp] theorem Chip.respond_mgr (c : Chip) (d : List Byte) : (c.respond d).mgr = c.mgr := rfl
@[simp] theorem Chip.respond_fresh (c : Chip) (d : List Byte) : (c.respond d).fresh = c.fresh := rfl

/-! ### Answering with a bus error -/

@[simp] theorem Chip.busError_regs (c : Chip) (n : Nat) : (c.busError n).regs = c.regs := rfl
@[simp] theorem Chip.busError_acts (c : Chip) (n : Nat) : (c.busError n).acts = c.acts := rfl
@[simp] theorem Chip.busError_mem (c : Chip) (n : Nat) : (c.busError n).mem = c.mem := rfl
@[simp] theorem Chip.busError_ecc (c : Chip) (n : Nat) : (c.busError n).ecc = c.ecc := rfl
@[simp] theorem Chip.busError_stalled (c : Chip) (n : Nat) : (c.busError n).stalled = c.stalled := rfl
@[simp] theorem Chip.busError_resv (c : Chip) (n : Nat) : (c.busError n).resv = c.resv := rfl
@[simp] theorem Chip.busError_bankPtr (c : Chip) (n : Nat) : (c.busError n).bankPtr = c.bankPtr := rfl
@[simp] theorem Chip.busError_bankGrant (c : Chip) (n : Nat) : (c.busError n).bankGrant = c.bankGrant := rfl
@[simp] theorem Chip.busError_scrub (c : Chip) (n : Nat) : (c.busError n).scrub = c.scrub := rfl
@[simp] theorem Chip.busError_power (c : Chip) (n : Nat) : (c.busError n).power = c.power := rfl
@[simp] theorem Chip.busError_clocks (c : Chip) (n : Nat) : (c.busError n).clocks = c.clocks := rfl
@[simp] theorem Chip.busError_pins (c : Chip) (n : Nat) : (c.busError n).pins = c.pins := rfl
@[simp] theorem Chip.busError_log (c : Chip) (n : Nat) : (c.busError n).log = c.log := rfl
@[simp] theorem Chip.busError_dump (c : Chip) (n : Nat) : (c.busError n).dump = c.dump := rfl
@[simp] theorem Chip.busError_sec (c : Chip) (n : Nat) : (c.busError n).sec = c.sec := rfl
@[simp] theorem Chip.busError_boot (c : Chip) (n : Nat) : (c.busError n).boot = c.boot := rfl
@[simp] theorem Chip.busError_xspi (c : Chip) (n : Nat) : (c.busError n).xspi = c.xspi := rfl
@[simp] theorem Chip.busError_safe (c : Chip) (n : Nat) : (c.busError n).safe = c.safe := rfl
@[simp] theorem Chip.busError_bel (c : Chip) (n : Nat) : (c.busError n).bel = c.bel := rfl
@[simp] theorem Chip.busError_can (c : Chip) (n : Nat) : (c.busError n).can = c.can := rfl
@[simp] theorem Chip.busError_sense (c : Chip) (n : Nat) : (c.busError n).sense = c.sense := rfl
@[simp] theorem Chip.busError_eng (c : Chip) (n : Nat) : (c.busError n).eng = c.eng := rfl
@[simp] theorem Chip.busError_zle (c : Chip) (n : Nat) : (c.busError n).zle = c.zle := rfl
@[simp] theorem Chip.busError_hl (c : Chip) (n : Nat) : (c.busError n).hl = c.hl := rfl
@[simp] theorem Chip.busError_vif (c : Chip) (n : Nat) : (c.busError n).vif = c.vif := rfl
@[simp] theorem Chip.busError_fw (c : Chip) (n : Nat) : (c.busError n).fw = c.fw := rfl
@[simp] theorem Chip.busError_mgr (c : Chip) (n : Nat) : (c.busError n).mgr = c.mgr := rfl
@[simp] theorem Chip.busError_fresh (c : Chip) (n : Nat) : (c.busError n).fresh = c.fresh := rfl

/-! ### Logging -/

@[simp] theorem Chip.logFrom_regs (c : Chip) (prio code arg : Nat) : (c.logFrom prio code arg).regs = c.regs := rfl
@[simp] theorem Chip.logFrom_acts (c : Chip) (prio code arg : Nat) : (c.logFrom prio code arg).acts = c.acts := rfl
@[simp] theorem Chip.logFrom_mem (c : Chip) (prio code arg : Nat) : (c.logFrom prio code arg).mem = c.mem := rfl
@[simp] theorem Chip.logFrom_ecc (c : Chip) (prio code arg : Nat) : (c.logFrom prio code arg).ecc = c.ecc := rfl
@[simp] theorem Chip.logFrom_stalled (c : Chip) (prio code arg : Nat) : (c.logFrom prio code arg).stalled = c.stalled := rfl
@[simp] theorem Chip.logFrom_resv (c : Chip) (prio code arg : Nat) : (c.logFrom prio code arg).resv = c.resv := rfl
@[simp] theorem Chip.logFrom_bankPtr (c : Chip) (prio code arg : Nat) : (c.logFrom prio code arg).bankPtr = c.bankPtr := rfl
@[simp] theorem Chip.logFrom_bankGrant (c : Chip) (prio code arg : Nat) : (c.logFrom prio code arg).bankGrant = c.bankGrant := rfl
@[simp] theorem Chip.logFrom_scrub (c : Chip) (prio code arg : Nat) : (c.logFrom prio code arg).scrub = c.scrub := rfl
@[simp] theorem Chip.logFrom_power (c : Chip) (prio code arg : Nat) : (c.logFrom prio code arg).power = c.power := rfl
@[simp] theorem Chip.logFrom_clocks (c : Chip) (prio code arg : Nat) : (c.logFrom prio code arg).clocks = c.clocks := rfl
@[simp] theorem Chip.logFrom_pins (c : Chip) (prio code arg : Nat) : (c.logFrom prio code arg).pins = c.pins := rfl
@[simp] theorem Chip.logFrom_bus (c : Chip) (prio code arg : Nat) : (c.logFrom prio code arg).bus = c.bus := rfl
@[simp] theorem Chip.logFrom_dump (c : Chip) (prio code arg : Nat) : (c.logFrom prio code arg).dump = c.dump := rfl
@[simp] theorem Chip.logFrom_sec (c : Chip) (prio code arg : Nat) : (c.logFrom prio code arg).sec = c.sec := rfl
@[simp] theorem Chip.logFrom_boot (c : Chip) (prio code arg : Nat) : (c.logFrom prio code arg).boot = c.boot := rfl
@[simp] theorem Chip.logFrom_xspi (c : Chip) (prio code arg : Nat) : (c.logFrom prio code arg).xspi = c.xspi := rfl
@[simp] theorem Chip.logFrom_safe (c : Chip) (prio code arg : Nat) : (c.logFrom prio code arg).safe = c.safe := rfl
@[simp] theorem Chip.logFrom_bel (c : Chip) (prio code arg : Nat) : (c.logFrom prio code arg).bel = c.bel := rfl
@[simp] theorem Chip.logFrom_can (c : Chip) (prio code arg : Nat) : (c.logFrom prio code arg).can = c.can := rfl
@[simp] theorem Chip.logFrom_sense (c : Chip) (prio code arg : Nat) : (c.logFrom prio code arg).sense = c.sense := rfl
@[simp] theorem Chip.logFrom_eng (c : Chip) (prio code arg : Nat) : (c.logFrom prio code arg).eng = c.eng := rfl
@[simp] theorem Chip.logFrom_zle (c : Chip) (prio code arg : Nat) : (c.logFrom prio code arg).zle = c.zle := rfl
@[simp] theorem Chip.logFrom_hl (c : Chip) (prio code arg : Nat) : (c.logFrom prio code arg).hl = c.hl := rfl
@[simp] theorem Chip.logFrom_vif (c : Chip) (prio code arg : Nat) : (c.logFrom prio code arg).vif = c.vif := rfl
@[simp] theorem Chip.logFrom_fw (c : Chip) (prio code arg : Nat) : (c.logFrom prio code arg).fw = c.fw := rfl
@[simp] theorem Chip.logFrom_mgr (c : Chip) (prio code arg : Nat) : (c.logFrom prio code arg).mgr = c.mgr := rfl
@[simp] theorem Chip.logFrom_fresh (c : Chip) (prio code arg : Nat) : (c.logFrom prio code arg).fresh = c.fresh := rfl

/-! ### A meaning that acts on the chip alone -/

theorem State.onChip_eq (s : State) (f : Chip → Chip) : s.onChip f = .next { s with chip := f s.chip } := rfl

/-- The only way a chip meaning ends. -/
theorem State.onChip_iff (s t : State) (f : Chip → Chip) :
    s.onChip f = .next t ↔ t = { s with chip := f s.chip } := by
  unfold State.onChip; constructor
  · intro h; injection h with h; exact h.symm
  · rintro rfl; rfl

end Sys2Proof.Machine
end

