-- ==== Sys2Proof/Laws/Memory.lean ====
section
/-! SUPPORT. Memory: a byte read after a store, and that every operation on the memory or the NVM keeps its canonical form. -/
namespace Sys2Proof.Machine

/-- A byte reads what was stored last. -/
@[simp] theorem Chip.peek_poke_self (c : Chip) (a : Nat) (b : Byte) : (c.poke a b).peek a = b :=
  Sparse.find_set_self 0 (canon a) b c.mem

/-- A store leaves every other byte. -/
theorem Chip.peek_poke_other (c : Chip) {a a' : Nat} (b : Byte) (h : canon a ≠ canon a') : (c.poke a b).peek a' = c.peek a' := by
  simp [Chip.peek, Chip.poke, Sparse.find_set_other _ h]

/-- Setting a register stores nothing. -/
@[simp] theorem Chip.peek_setReg (c : Chip) (a : Nat) (v : Word) (b : Nat) : (c.setReg a v).peek b = c.peek b := rfl

/-- Stores of several bytes leave every byte outside them. -/
theorem Chip.peek_pokeN_other (d : List Byte) (c : Chip) {a a' : Nat} (h : ∀ i < d.length, canon (a + i) ≠ canon a') :
    (c.pokeN a d).peek a' = c.peek a' := by
  induction d generalizing a c with
  | nil => rfl
  | cons x r ih =>
    show ((c.poke a x).pokeN (a + 1) r).peek a' = c.peek a'
    rw [ih _ fun i hi => by have := h (i + 1) (by simp; omega); rwa [show a + (i + 1) = a + 1 + i by omega] at this]
    exact Chip.peek_poke_other c x (h 0 (by simp))

/-- A byte of shared SRAM below the end of a store reads what was stored there. -/
theorem Chip.peek_pokeN_at (d : List Byte) (c : Chip) (a i : Nat) (h : a + d.length ≤ 0x800000) (hi : i < d.length) :
    (c.pokeN a d).peek (a + i) = d[i] := by
  have hc : ∀ x, x < 0x800000 → canon x = x := by intro x hx; simp [canon]; omega
  induction d generalizing c a i with
  | nil => simp at hi
  | cons b r ih =>
    simp only [List.length_cons] at h hi
    cases i with
    | zero =>
      simp only [Chip.pokeN, Nat.add_zero, List.getElem_cons_zero]
      rw [Chip.peek_pokeN_other, Chip.peek_poke_self]
      intro j hj; rw [hc _ (by omega), hc _ (by omega)]; omega
    | succ i =>
      have := ih (c.poke a b) (a + 1) i (by omega) (by omega)
      simpa [Chip.pokeN, Nat.add_assoc, Nat.add_comm 1] using this

/-- Bytes elsewhere read as before a store. -/
theorem Chip.peekN_pokeN_other (c : Chip) (a : Nat) (d : List Byte) (b n : Nat)
    (h : ∀ j < n, ∀ i < d.length, canon (a + i) ≠ canon (b + j)) : (c.pokeN a d).peekN b n = c.peekN b n := by
  apply List.map_congr_left
  intro j hj
  exact Chip.peek_pokeN_other d c (h j (List.mem_range.1 hj))

/-- Bytes stored in shared SRAM read back. -/
theorem Chip.peekN_pokeN (c : Chip) (a : Nat) (d : List Byte) (h : a + d.length ≤ 0x800000) : (c.pokeN a d).peekN a d.length = d := by
  apply List.ext_getElem
  · simp [Chip.peekN]
  · intro i h1 h2; simpa [Chip.peekN] using Chip.peek_pokeN_at d c a i h h2

/-- Every store keeps the canonical form. -/
theorem Memory.wf_poke (c : Chip) (a : Nat) (b : Byte) (h : Memory.wf c.mem = true) : Memory.wf (c.poke a b).mem = true :=
  Sparse.wf_set (canon a) b h

theorem Memory.wf_pokeN (d : List Byte) (c : Chip) (a : Nat) (h : Memory.wf c.mem = true) : Memory.wf (c.pokeN a d).mem = true := by
  induction d generalizing a c with
  | nil => exact h
  | cons x r ih => exact ih _ _ (Memory.wf_poke c a x h)

theorem Memory.wf_clearGrp (c : Chip) (g : Nat) (h : Memory.wf c.mem = true) : Memory.wf (c.clearGrp g).mem = true :=
  Sparse.wf_filter _ h

theorem Memory.wf_clearRange (c : Chip) (lo hi : Nat) (h : Memory.wf c.mem = true) : Memory.wf (c.clearRange lo hi).mem = true :=
  Sparse.wf_filter _ h

theorem Memory.wf_reset : Memory.wf Chip.reset.mem = true := rfl

theorem cellsOf_ge {a : Nat} {d : List Byte} {x : Host.Cell} (h : x ∈ cellsOf a d) : a ≤ x.1 ∧ x.1 < a + d.length ∧ x.2 ≠ 0xFF := by
  induction d generalizing a with
  | nil => simp [cellsOf] at h
  | cons b r ih =>
    unfold cellsOf at h
    split at h
    · have := ih h; simp only [List.length_cons]; exact ⟨by omega, by omega, this.2.2⟩
    · rename_i hb
      rcases List.mem_cons.1 h with h | h
      · subst h; exact ⟨Nat.le_refl _, by simp, hb⟩
      · have := ih h; simp only [List.length_cons]; exact ⟨by omega, by omega, this.2.2⟩

theorem cellsOf_rising (a : Nat) (d : List Byte) : Sparse.rising (cellsOf a d) := by
  induction d generalizing a with
  | nil => simp [cellsOf]
  | cons b r ih =>
    unfold cellsOf
    split
    · exact ih _
    · exact List.pairwise_cons.2 ⟨fun x hx => by have := cellsOf_ge hx; show a < x.1; omega, ih _⟩

/-- Putting bytes into the NVM keeps its canonical form. -/
theorem Nvm.wf_nvmPut (s : State) (a : Nat) (d : List Byte) (h : Nvm.wf s.nvm = true) : Nvm.wf (s.nvmPut a d).nvm = true := by
  have hl := Sparse.wf_filter (fun x : Host.Cell => decide (x.1 < a)) h
  have hr := Sparse.wf_filter (fun x : Host.Cell => decide (a + d.length ≤ x.1)) h
  rw [Sparse.wf_iff] at hl hr
  show Sparse.wf _ (_ ++ _ ++ _) = true
  rw [Sparse.wf_iff]
  refine ⟨List.pairwise_append.2 ⟨List.pairwise_append.2 ⟨hl.1, cellsOf_rising a d, ?_⟩, hr.1, ?_⟩, ?_⟩
  · intro x hx y hy
    have h1 := of_decide_eq_true (List.mem_filter.1 hx).2
    have h2 := cellsOf_ge hy
    omega
  · intro x hx y hy
    have h2 := of_decide_eq_true (List.mem_filter.1 hy).2
    rcases List.mem_append.1 hx with hx | hx
    · have h1 := of_decide_eq_true (List.mem_filter.1 hx).2
      omega
    · have h1 := cellsOf_ge hx
      omega
  · intro x hx
    rcases List.mem_append.1 hx with hx | hx
    · rcases List.mem_append.1 hx with hx | hx
      · exact hl.2 x hx
      · exact (cellsOf_ge hx).2.2
    · exact hr.2 x hx

/-- Erasing a range keeps it. -/
theorem Nvm.wf_nvmErase (s : State) (a n : Nat) (h : Nvm.wf s.nvm = true) : Nvm.wf (s.nvmErase a n).nvm = true :=
  Sparse.wf_filter _ h

theorem Nvm.wf_nvmOpen (s : State) (a n : Nat) (h : Nvm.wf s.nvm = true) : Nvm.wf (s.nvmOpen a n).nvm = true :=
  Nvm.wf_nvmPut _ _ _ h

theorem Nvm.wf_slotsByAge (s : State) (slot : Nat → SlotAt) (store entry : Nat) (h : Nvm.wf s.nvm = true) :
    Nvm.wf (s.slotsByAge slot store entry).2.nvm = true := by
  unfold State.slotsByAge
  repeat' split
  all_goals exact h

/-- Writing a store's slot keeps it. -/
theorem Nvm.wf_storeWrite (s : State) (slot : Nat → SlotAt) (store entry : Nat) (d : List Byte) (h : Nvm.wf s.nvm = true) :
    Nvm.wf (s.storeWrite slot store entry d).2.nvm = true := by
  have hs := Nvm.wf_slotsByAge s slot store entry h
  unfold State.storeWrite
  generalize s.slotsByAge slot store entry = p at hs ⊢
  obtain ⟨age, s1⟩ := p
  exact Nvm.wf_nvmPut _ _ _ (Nvm.wf_nvmPut _ _ _ (Nvm.wf_nvmErase _ _ _ hs))

theorem Nvm.wf_reset : Nvm.wf State.reset.nvm = true := rfl

end Sys2Proof.Machine
end

