-- ==== Sys2Proof/Laws/Regs.lean ====
section
/-! SUPPORT. Registers: what each reads, and acts on, after one has been set; and that setting one keeps the canonical form. -/
namespace Sys2Proof.Machine

@[simp] theorem Chip.reg_setReg_self (c : Chip) (a : Nat) (v : Word) : (c.setReg a v).reg a = v :=
  Sparse.find_set_self (regReset a) a v c.regs

theorem Chip.reg_setReg_other (c : Chip) {a b : Nat} (v : Word) (h : a ≠ b) : (c.setReg a v).reg b = c.reg b := by
  simp [Chip.reg, Chip.setReg, Sparse.find_set_other _ h]

@[simp] theorem Chip.act_setReg_self (c : Chip) (a : Nat) (v : Word) : (c.setReg a v).act a = v := by
  rw [Chip.act, Chip.reg_setReg_self]
  simp [Chip.setReg, Sparse.find_del_self]

theorem Chip.act_setReg_other (c : Chip) {a b : Nat} (v : Word) (h : a ≠ b) : (c.setReg a v).act b = c.act b := by
  rw [Chip.act, Chip.act, Chip.reg_setReg_other c v h]
  simp [Chip.setReg, Sparse.find_del_other h]

@[simp] theorem Chip.reg_setRegAct_self (c : Chip) (a : Nat) (v e : Word) : (c.setRegAct a v e).reg a = v :=
  Sparse.find_set_self (regReset a) a v c.regs

theorem Chip.reg_setRegAct_other (c : Chip) {a b : Nat} (v e : Word) (h : a ≠ b) : (c.setRegAct a v e).reg b = c.reg b := by
  simp [Chip.reg, Chip.setRegAct, Sparse.find_set_other _ h]

@[simp] theorem Chip.act_setRegAct_self (c : Chip) (a : Nat) (v e : Word) : (c.setRegAct a v e).act a = e := by
  rw [Chip.act, Chip.reg_setRegAct_self]
  by_cases h : e = v <;> simp [Chip.setRegAct, h, Sparse.find_del_self, Sparse.find_put_self]

theorem Chip.act_setRegAct_other (c : Chip) {a b : Nat} (v e : Word) (h : a ≠ b) : (c.setRegAct a v e).act b = c.act b := by
  rw [Chip.act, Chip.act, Chip.reg_setRegAct_other c v e h]
  by_cases h1 : e = v <;> simp [Chip.setRegAct, h1, Sparse.find_del_other h, Sparse.find_put_other h]

@[simp] theorem Chip.reg_setFld_self (c : Chip) (a lo w x : Nat) : (c.setFld a lo w x).reg a = putFld (c.reg a) lo w x :=
  Chip.reg_setRegAct_self ..

theorem Chip.reg_setFld_other (c : Chip) {a b : Nat} (lo w x : Nat) (h : a ≠ b) : (c.setFld a lo w x).reg b = c.reg b :=
  Chip.reg_setRegAct_other _ _ _ h

@[simp] theorem Chip.act_setFld_self (c : Chip) (a lo w x : Nat) : (c.setFld a lo w x).act a = putFld (c.act a) lo w x :=
  Chip.act_setRegAct_self ..

theorem Chip.act_setFld_other (c : Chip) {a b : Nat} (lo w x : Nat) (h : a ≠ b) : (c.setFld a lo w x).act b = c.act b :=
  Chip.act_setRegAct_other _ _ _ h

theorem Chip.reg_setBit_other (c : Chip) {a b : Nat} (i : Nat) (x : Bool) (h : a ≠ b) : (c.setBit a i x).reg b = c.reg b :=
  Chip.reg_setFld_other _ _ _ _ h

theorem Chip.act_setBit_other (c : Chip) {a b : Nat} (i : Nat) (x : Bool) (h : a ≠ b) : (c.setBit a i x).act b = c.act b :=
  Chip.act_setFld_other _ _ _ _ h

/-- A bit reads what it has been set to. -/
theorem Chip.bit_setBit_self (c : Chip) (a : Nat) {i : Nat} (x : Bool) (h : i < 32) : Machine.bit ((c.setBit a i x).reg a) i = x := by
  rw [Chip.setBit, Chip.reg_setFld_self, bit_putFld_one _ _ _ h]

/-- The other bits of its register keep their values. -/
theorem Chip.bit_setBit_other (c : Chip) (a : Nat) {i j : Nat} (x : Bool) (h : i ≠ j) :
    Machine.bit ((c.setBit a i x).reg a) j = Machine.bit (c.reg a) j := by
  rw [Chip.setBit, Chip.reg_setFld_self, bit_putFld_one_other _ _ h]

/-- A block acts on the bit it has set. -/
theorem Chip.actBit_setBit_self (c : Chip) (a : Nat) {i : Nat} (x : Bool) (h : i < 32) : (c.setBit a i x).bit a i = x := by
  rw [Chip.bit, Chip.setBit, Chip.act_setFld_self, bit_putFld_one _ _ _ h]

/-- A field reads what it has been set to, modulo its width. -/
theorem Chip.fld_setFld_self (c : Chip) (a : Nat) {lo w : Nat} (x : Nat) (h : lo + w ≤ 32) :
    Machine.fld ((c.setFld a lo w x).reg a) lo w = x % 2 ^ w := by
  rw [Chip.reg_setFld_self, fld_putFld_self _ _ h]

/-- The register file in its canonical form: addresses strictly rising, and no register listed at its reset value. -/
def Chip.regsWf (c : Chip) : Bool := Sparse.wf regReset c.regs

theorem Chip.regsWf_setReg (c : Chip) (a : Nat) (v : Word) (h : c.regsWf = true) : (c.setReg a v).regsWf = true :=
  Sparse.wf_set a v h

theorem Chip.regsWf_setRegAct (c : Chip) (a : Nat) (v e : Word) (h : c.regsWf = true) : (c.setRegAct a v e).regsWf = true :=
  Sparse.wf_set a v h

theorem Chip.regsWf_setFld (c : Chip) (a lo w x : Nat) (h : c.regsWf = true) : (c.setFld a lo w x).regsWf = true :=
  Chip.regsWf_setRegAct _ _ _ _ h

theorem Chip.regsWf_setBit (c : Chip) (a i : Nat) (b : Bool) (h : c.regsWf = true) : (c.setBit a i b).regsWf = true :=
  Chip.regsWf_setFld _ _ _ _ _ h

end Sys2Proof.Machine
end

