-- ==== Sys2Proof/Laws/Touch.lean ====
section
/-! SUPPORT. Operations that touch registers alone: `Touch P c d` says that `d` is `c` but for registers whose address meets `P` and the
counter of free values drawn. One lemma per operation; a proof about a chain of them composes these and never unfolds the operation. -/
namespace Sys2Proof.Machine

/-- `d` is `c` but for registers that meet `P`, and free values drawn. -/
structure Touch (P : Nat → Prop) (c d : Chip) : Prop where
  rest : d = { c with regs := d.regs, acts := d.acts, fresh := d.fresh }
  kept : ∀ a, ¬ P a → d.reg a = c.reg a ∧ d.act a = c.act a

namespace Touch

theorem refl (P : Nat → Prop) (c : Chip) : Touch P c c := ⟨rfl, fun _ _ => ⟨rfl, rfl⟩⟩

theorem trans {P : Nat → Prop} {c d e : Chip} (h : Touch P c d) (k : Touch P d e) : Touch P c e := by
  refine ⟨?_, fun a ha => ⟨(k.kept a ha).1.trans (h.kept a ha).1, (k.kept a ha).2.trans (h.kept a ha).2⟩⟩
  rw [k.rest, h.rest]

theorem mono {P Q : Nat → Prop} {c d : Chip} (h : Touch P c d) (hpq : ∀ a, P a → Q a) : Touch Q c d :=
  ⟨h.rest, fun a ha => h.kept a fun hp => ha (hpq a hp)⟩

theorem setReg {P : Nat → Prop} {c d : Chip} {a : Nat} (h : Touch P c d) (v : Word) (ha : P a) : Touch P c (d.setReg a v) := by
  refine h.trans ⟨rfl, fun b hb => ?_⟩
  have : a ≠ b := fun e => hb (e ▸ ha)
  exact ⟨Chip.reg_setReg_other _ _ this, Chip.act_setReg_other _ _ this⟩

theorem setRegAct {P : Nat → Prop} {c d : Chip} {a : Nat} (h : Touch P c d) (v e : Word) (ha : P a) :
    Touch P c (d.setRegAct a v e) := by
  refine h.trans ⟨rfl, fun b hb => ?_⟩
  have : a ≠ b := fun e => hb (e ▸ ha)
  exact ⟨Chip.reg_setRegAct_other _ _ _ this, Chip.act_setRegAct_other _ _ _ this⟩

theorem setFld {P : Nat → Prop} {c d : Chip} {a : Nat} (h : Touch P c d) (lo w x : Nat) (ha : P a) : Touch P c (d.setFld a lo w x) :=
  h.setRegAct _ _ ha

theorem setBit {P : Nat → Prop} {c d : Chip} {a : Nat} (h : Touch P c d) (i : Nat) (b : Bool) (ha : P a) :
    Touch P c (d.setBit a i b) :=
  h.setFld _ _ _ ha

theorem incFld {P : Nat → Prop} {c d : Chip} {a : Nat} (h : Touch P c d) (lo w n : Nat) (ha : P a) :
    Touch P c (d.incFld a lo w n) :=
  h.setFld _ _ _ ha

theorem foldl {P : Nat → Prop} {c d : Chip} {α : Type} {f : Chip → α → Chip} {l : List α} (h : Touch P c d)
    (hf : ∀ e, ∀ x ∈ l, Touch P e (f e x)) : Touch P c (l.foldl f d) := by
  induction l generalizing d with
  | nil => exact h
  | cons x r ih => exact ih (h.trans (hf d x (List.mem_cons_self ..))) fun e y hy => hf e y (List.mem_cons_of_mem _ hy)

theorem draw {P : Nat → Prop} {c d : Chip} (h : Touch P c d) (n : Nat) : Touch P c { d with fresh := n } :=
  h.trans ⟨rfl, fun _ _ => ⟨rfl, rfl⟩⟩

theorem ite {P : Nat → Prop} {c d e : Chip} {p : Prop} [Decidable p] (h : Touch P c d) (k : Touch P c e) :
    Touch P c (if p then d else e) := by
  split
  · exact h
  · exact k

theorem mem {P : Nat → Prop} {c d : Chip} (h : Touch P c d) : d.mem = c.mem := by rw [h.rest]

theorem power {P : Nat → Prop} {c d : Chip} (h : Touch P c d) : d.power = c.power := by rw [h.rest]

theorem pins {P : Nat → Prop} {c d : Chip} (h : Touch P c d) : d.pins = c.pins := by rw [h.rest]

theorem clocks {P : Nat → Prop} {c d : Chip} (h : Touch P c d) : d.clocks = c.clocks := by rw [h.rest]

theorem log {P : Nat → Prop} {c d : Chip} (h : Touch P c d) : d.log = c.log := by rw [h.rest]

theorem peek {P : Nat → Prop} {c d : Chip} (h : Touch P c d) (a : Nat) : d.peek a = c.peek a := by rw [Chip.peek, h.mem]; rfl

end Touch

/-- MISUSE touches a status register alone. -/
theorem Touch.misuse {P : Nat → Prop} {c d : Chip} (h : Touch P c d) (a : Nat) (hp : ∀ r b, misuseAt a = some (r, b) → P r) :
    Touch P c (d.misuse a) := by
  unfold Chip.misuse
  split
  · exact h.setBit _ _ (hp _ _ (by assumption))
  · exact h

end Sys2Proof.Machine
end

