-- ==== Sys2Proof/Laws/Security.lean ====
section
/-! SUPPORT. What showing the OTP touches, and what a start leaves in a state that is no debug session. -/
namespace Sys2Proof.Machine

/-- The registers that show the OTP: SEC_STATUS and 0x4006_0010 to 0x4006_00A7. -/
def isSecView (a : Nat) : Prop := a = 0x40060004 ∨ (0x40060010 ≤ a ∧ a < 0x400600A8)

/-- Showing the OTP touches nothing else. -/
theorem Touch.secLoad (c : Chip) (o : OtpView) : Touch isSecView c (c.secLoad o) := by
  unfold Chip.secLoad
  have h0 : Touch isSecView c (if o.fault then c.drawBytes 112 else ([], c)).2 := by
    split
    · exact (Touch.refl _ _).draw _
    · exact Touch.refl _ _
  generalize (if o.fault then c.drawBytes 112 else ([], c)) = p at h0 ⊢
  obtain ⟨f, c1⟩ := p
  dsimp only at h0 ⊢
  refine Touch.setBit ?_ _ _ (.inl rfl)
  refine Touch.setBit ?_ _ _ (.inl rfl)
  refine Touch.setBit ?_ _ _ (.inl rfl)
  refine Touch.setBit ?_ _ _ (.inl rfl)
  refine Touch.setReg ?_ _ (.inr (by omega))
  refine Touch.setReg ?_ _ (.inr (by omega))
  refine Touch.foldl ?_ fun e x hx => (Touch.refl _ _).setReg _ (.inr (by have := List.mem_range.1 hx; omega))
  exact Touch.foldl h0 fun e x hx => (Touch.refl _ _).setReg _ (.inr (by have := List.mem_range.1 hx; omega))

/-- Showing the OTP leaves SEC_STATUS's other bits, DBG_SESSION and TOKEN_BLOCK among them. -/
theorem Chip.secLoad_bit (c : Chip) (o : OtpView) {i : Nat} (h : i ≠ 1 ∧ i ≠ 2 ∧ i ≠ 4 ∧ i ≠ 5) :
    Machine.bit ((c.secLoad o).reg 0x40060004) i = Machine.bit (c.reg 0x40060004) i := by
  unfold Chip.secLoad
  have h0 : (if o.fault then c.drawBytes 112 else ([], c)).2.reg 0x40060004 = c.reg 0x40060004 := by
    split <;> rfl
  generalize (if o.fault then c.drawBytes 112 else ([], c)) = p at h0 ⊢
  obtain ⟨f, c1⟩ := p
  dsimp only at h0 ⊢
  rw [Chip.bit_setBit_other _ _ _ (by omega), Chip.bit_setBit_other _ _ _ (by omega), Chip.bit_setBit_other _ _ _ (by omega),
    Chip.bit_setBit_other _ _ _ (by omega), Chip.reg_setReg_other _ _ (by omega), Chip.reg_setReg_other _ _ (by omega), ← h0]
  congr 1
  have t1 : Touch isSecView c1 c1 := Touch.refl _ _
  have t2 (l : List Nat) (g : Chip → Nat → Chip) (hl : ∀ e, ∀ x ∈ l, Touch (fun a => 0x40060010 ≤ a) e (g e x)) (e : Chip) :
      (l.foldl g e).reg 0x40060004 = e.reg 0x40060004 := ((Touch.foldl (Touch.refl _ e) hl).kept _ (by omega)).1
  rw [t2, t2]
  · exact fun e x hx => (Touch.refl _ _).setReg _ (by omega)
  · exact fun e x hx => (Touch.refl _ _).setReg _ (by omega)

theorem Chip.dbgSession_secLoad (c : Chip) (o : OtpView) : (c.secLoad o).dbgSession = c.dbgSession :=
  c.secLoad_bit o (by omega)

/-- A start that is no debug session only shows the OTP. -/
theorem State.started_eq (s : State) (c : Chip) (h : c.dbgSession = false) : s.started c = { s with chip := c.secLoad s.otp } := by
  rw [State.started, Chip.dbgStart, if_neg (by rw [Chip.dbgSession_secLoad, h]; simp)]

end Sys2Proof.Machine
end

