-- ==== Sys2Proof/Laws/Stream.lean ====
section
/-! SUPPORT. How long streams and Lockets are. -/
namespace Sys2Proof.Machine

theorem flatMap_leBytes_length (n : Nat) (xs : List Nat) : (xs.flatMap (leBytes n)).length = xs.length * n := by
  induction xs with
  | nil => simp
  | cons x r ih => simp only [List.flatMap_cons, List.length_append, List.length_cons, ih, length_leBytes]; rw [Nat.add_mul]; omega

/-- Coded blocks stay within the capacity that holds their elements raw (R644). -/
theorem codeBlocks_fit (mode f wd par bl cap k j used : Nat) (prev : Int) (xs : List Nat) (h : 16 + used + xs.length * (wd / 8) ≤ cap) :
    16 + used + (codeBlocks mode f wd par bl cap k j used prev xs).1.length ≤ cap := by
  induction k generalizing j used prev xs with
  | zero => simp only [codeBlocks, List.length_nil]; omega
  | succ k ih =>
    simp only [codeBlocks]
    split
    · next hc =>
      have := ih (j + 1) (used + (codedBlock mode f wd par prev (xs.take bl)).1.length) (codedBlock mode f wd par prev (xs.take bl)).2
        (xs.drop bl) (by omega)
      simp only [List.length_append]; omega
    · rw [flatMap_leBytes_length]; omega

/-- A Locket stays within its slot: 64 bytes and a stream of at most 2064. -/
theorem makeLocket_fits (c : Chip) (k : SysConf) (b : List Byte) : (c.makeLocket k b).length ≤ 2128 := by
  have h := codeBlocks_fit 1 0 16 0 64 2064 16 0 0 0 ((List.range 1024).map fun i => leAt b (2 * i) 2) (by simp)
  have h1 : (slice b 0x10 16).length ≤ 16 := List.length_take_le ..
  have h2 : (slice b 0x20 8).length ≤ 8 := List.length_take_le ..
  have h3 : (slice b 0x0C 4).length ≤ 4 := List.length_take_le ..
  have h4 : (padTo 8 c.ownSerial).length = 8 := by simp [padTo]
  have hn : ((List.range 1024).map fun i => leAt b (2 * i) 2).length = 1024 := by simp
  simp only [Chip.makeLocket, compressOf, List.length_append, length_leBytes, hn]
  simp
  omega
end Sys2Proof.Machine
end

