-- ==== Sys2Proof/Laws/Work.lean ====
section
/-! SUPPORT. What an engine's work can do to the engines and the mode: nothing, unless an error it meets fences the device or puts it into
Dark. One closure lemma per way of building a work, and one lemma per shared operation. -/
namespace Sys2Proof.Machine

/-- The engines and the mode of `d` are those of `c`. -/
structure Calm (c d : Chip) : Prop where
  eng : d.eng = c.eng
  mode : d.power.mode = c.power.mode

/-- `d` is as `c` in its engines and its mode, or it is in Fenced or Dark. -/
def Steady (c d : Chip) : Prop := Calm c d ∨ d.power.mode = .fenced ∨ d.power.mode = .dark

theorem Calm.refl (c : Chip) : Calm c c := ⟨rfl, rfl⟩

theorem Calm.trans {c d e : Chip} (h : Calm c d) (k : Calm d e) : Calm c e := ⟨k.eng.trans h.eng, k.mode.trans h.mode⟩

theorem Calm.foldl {α : Type} (f : Chip → α → Chip) (l : List α) (hf : ∀ c x, Calm c (f c x)) (c : Chip) : Calm c (l.foldl f c) := by
  induction l generalizing c with
  | nil => exact .refl c
  | cons x r ih => exact (hf c x).trans (ih _)

theorem Calm.steady {c d : Chip} (h : Calm c d) : Steady c d := .inl h

theorem Steady.refl (c : Chip) : Steady c c := (Calm.refl c).steady

theorem Steady.trans {c d e : Chip} (h : Steady c d) (k : Steady d e) : Steady c e := by
  rcases k with k | k
  · rcases h with h | h
    · exact (h.trans k).steady
    · exact .inr (by rw [k.mode]; exact h)
  · exact .inr k

theorem Calm.ite {c d e : Chip} {p : Prop} [Decidable p] (h : Calm c d) (k : Calm c e) : Calm c (if p then d else e) := by
  split
  · exact h
  · exact k

theorem Steady.ite {c d e : Chip} {p : Prop} [Decidable p] (h : Steady c d) (k : Steady c e) : Steady c (if p then d else e) := by
  split
  · exact h
  · exact k

theorem Steady.foldl {α : Type} (f : Chip → α → Chip) (l : List α) (hf : ∀ c x, Steady c (f c x)) (c : Chip) : Steady c (l.foldl f c) := by
  induction l generalizing c with
  | nil => exact .refl c
  | cons x r ih => exact (hf c x).trans (ih _)

/-- A fold whose steps keep a field keeps it. -/
theorem foldl_keeps {α β γ : Type} (g : β → γ) (f : β → α → β) (l : List α) (hf : ∀ b x, g (f b x) = g b) (b : β) :
    g (l.foldl f b) = g b := by
  induction l generalizing b with
  | nil => rfl
  | cons x r ih => exact (ih _).trans (hf b x)

theorem Chip.setReg_calm (c : Chip) (a : Nat) (v : Word) : Calm c (c.setReg a v) := ⟨rfl, rfl⟩
theorem Chip.setFld_calm (c : Chip) (a lo w x : Nat) : Calm c (c.setFld a lo w x) := ⟨rfl, rfl⟩
theorem Chip.setBit_calm (c : Chip) (a i : Nat) (b : Bool) : Calm c (c.setBit a i b) := ⟨rfl, rfl⟩
theorem Chip.incFld_calm (c : Chip) (a lo w n : Nat) : Calm c (c.incFld a lo w n) := ⟨rfl, rfl⟩
theorem Chip.logFrom_calm (c : Chip) (p k a : Nat) : Calm c (c.logFrom p k a) := ⟨rfl, rfl⟩
theorem Chip.logHw_calm (c : Chip) (k a : Nat) : Calm c (c.logHw k a) := ⟨rfl, rfl⟩

theorem Chip.blog_calm (c : Chip) (k code arg : Nat) : Calm c (c.blog k code arg) := by
  unfold Chip.blog
  dsimp only
  refine Calm.trans ?_ (Calm.foldl _ _ (fun d i => ?_) _)
  · refine Calm.foldl _ _ (fun d i => ?_) c
    exact d.setReg_calm _ _
  · exact d.setReg_calm _ _

theorem Chip.canShow_calm (c : Chip) (n : Nat) : Calm c (c.canShow n) := c.setBit_calm _ _ _

theorem Chip.safeWrite_calm (c : Chip) (n : Nat) : Calm c (c.safeWrite n) := by
  unfold Chip.safeWrite
  dsimp only
  refine Calm.trans ?_ (Chip.canShow_calm _ n)
  refine Calm.trans ?_ (Chip.setBit_calm _ _ _ _)
  have k : ∀ (l : List Can) (x : Chip), Calm c x → Calm c { x with can := l } := fun l x h => h.trans ⟨rfl, rfl⟩
  refine k _ _ (Calm.foldl _ _ (fun d i => ?_) c)
  exact d.setReg_calm _ _

theorem Chip.faultMessage_calm (c : Chip) : Calm c c.faultMessage := by
  unfold Chip.faultMessage
  dsimp only
  refine Calm.trans ?_ (Calm.foldl _ _ (fun d n => ?_) _)
  · exact c.setFld_calm _ _ _ _
  exact Calm.ite ⟨rfl, rfl⟩ (d.safeWrite_calm n)

theorem Chip.setSaf_calm (c : Chip) (x : Nat) : Calm c (c.setSaf x) := (c.setFld_calm _ _ _ _).trans (Chip.blog_calm ..)
theorem Chip.gatesLow_calm (c : Chip) : Calm c c.gatesLow := ⟨rfl, rfl⟩
theorem Chip.setFaultN_calm (c : Chip) (b : Bool) : Calm c (c.setFaultN b) := ⟨rfl, rfl⟩

theorem Chip.awaitValid_calm (x : Chip) (b : Bool) : Calm x { x with safe.awaitValid := b } := ⟨rfl, rfl⟩

/-- What an entry to MARKED does once FAULT_N, the state and the cause are set. -/
theorem Chip.markedTail_calm (x : Chip) :
    Calm x ((({ x with safe.awaitValid := true } : Chip).setBit 0x40010008 0 false).gatesLow.faultMessage) :=
  (((x.awaitValid_calm _).trans (Chip.setBit_calm _ _ _ _)).trans (Chip.gatesLow_calm _)).trans (Chip.faultMessage_calm _)

theorem Chip.markedHead_calm (c : Chip) (code : Nat) : Calm c (((c.setFaultN false).setSaf 2).setFld 0x40070040 20 12 code) :=
  ((c.setFaultN_calm false).trans (Chip.setSaf_calm _ _)).trans (Chip.setFld_calm _ _ _ _ _)

theorem Chip.enterMarked_calm (c : Chip) (code : Nat) : Calm c (c.enterMarked code) :=
  (c.markedHead_calm code).trans (Chip.markedTail_calm _)

theorem Chip.dumpTrigger_calm (c : Chip) (t k : Nat) : Calm c (c.dumpTrigger t k).1 := by
  unfold Chip.dumpTrigger
  split
  · exact ⟨rfl, rfl⟩
  · split <;> exact ⟨rfl, rfl⟩

theorem Chip.setMode_fenced (c : Chip) : (c.setMode .fenced).power.mode = .fenced := rfl

theorem Chip.enterFenced_mode (c : Chip) (code : Nat) : (c.enterFenced code).power.mode = .fenced := by
  unfold Chip.enterFenced
  dsimp only
  split
  · rfl
  · rfl

theorem Chip.logCause_calm (c : Chip) (code st d : Nat) : Calm c (c.logCause code st d) :=
  (c.logFrom_calm _ _ _).trans (Chip.blog_calm ..)

theorem Chip.setActive_calm (c : Chip) (code : Nat) (b : Bool) : Calm c (c.setActive code b) := Calm.ite ⟨rfl, rfl⟩ (.refl c)

theorem Chip.fenceCause_steady (c : Chip) (code d : Nat) : Steady c (c.fenceCause code d) := by
  unfold Chip.fenceCause
  dsimp only
  split
  · exact ((c.setActive_calm _ _).trans (Chip.logCause_calm ..)).steady
  · exact .inr (.inl (Chip.enterFenced_mode ..))

theorem Chip.markCause_steady (c : Chip) (code d : Nat) : Steady c (c.markCause code d) := by
  unfold Chip.markCause
  dsimp only
  generalize hx : (if (!Machine.bit (c.reg 0x40070040) code || !isCondition code) = true then
    { c.setActive code true with safe.hist := (code, (c.setActive code true).clocks.rtc) :: (c.setActive code true).safe.hist }
    else c.setActive code true) = x
  have h : Calm c x := by
    rw [← hx]
    exact Calm.ite ((c.setActive_calm code true).trans ⟨rfl, rfl⟩) (c.setActive_calm code true)
  generalize hy : (if x.saf = 1 then (x.enterMarked code).logCause code 2 d else x.logCause code 0 d) = y
  have k : Calm c y := by
    rw [← hy]
    exact h.trans (Calm.ite ((x.enterMarked_calm code).trans (Chip.logCause_calm ..)) (x.logCause_calm ..))
  exact Steady.ite (k.steady.trans (Chip.fenceCause_steady ..)) k.steady

theorem Chip.cause_steady (c : Chip) (k : Reaction) (code d : Nat) : Steady c (c.cause k code d) := by
  unfold Chip.cause
  split
  · exact .refl c
  · split
    · exact .inr (.inr rfl)
    · exact Chip.fenceCause_steady ..
    · exact Chip.markCause_steady ..
    · exact (Chip.logCause_calm ..).steady

theorem Chip.misuse_calm (c : Chip) (a : Nat) : Calm c (c.misuse a) := by
  unfold Chip.misuse
  split
  · exact c.setBit_calm _ _ _
  · exact .refl c

theorem Chip.violation_steady (c : Chip) (port cls addr region src : Nat) (wr : Bool) :
    Steady c (c.violation port cls addr region src wr) := by
  unfold Chip.violation
  dsimp only
  generalize hx : (if Machine.bit (c.reg 0x40020804) 1 = true then c else _) = x
  have h : Calm c x := by
    rw [← hx]
    exact Calm.ite (.refl c) ⟨rfl, rfl⟩
  exact (h.trans (Chip.incFld_calm _ _ _ _ _)).steady.trans (Steady.ite (Chip.cause_steady ..) (Chip.cause_steady ..))

theorem Chip.gateFail_steady (c : Chip) (g : Gate) (port cls a src : Nat) (wr : Bool) : Steady c (c.gateFail g port cls a src wr) := by
  unfold Chip.gateFail
  split
  · exact .refl c
  · exact (c.misuse_calm _).steady
  · exact (c.misuse_calm _).steady
  · exact Chip.violation_steady ..
  · exact (c.misuse_calm _).steady

theorem Chip.setDom_calm (c : Chip) (i : Nat) (b : Bool) : Calm c (c.setDom i b) := Calm.ite (c.setBit_calm _ _ _) (c.setBit_calm _ _ _)

theorem Chip.touchGrp_calm (c : Chip) (g : Nat) : Calm c (c.touchGrp g) := by
  unfold Chip.touchGrp
  refine Calm.ite ?_ (.refl c)
  unfold Chip.setGrp
  have h : Calm c { c with power.grp := upd c.power.grp g fun _ => .awake } := ⟨rfl, rfl⟩
  exact h.trans (Chip.setDom_calm ..)

theorem Chip.eccUe_steady (c : Chip) (w : Nat) : Steady c (c.eccUe w) := by
  unfold Chip.eccUe
  refine Steady.ite ?_ (Steady.ite ?_ (Chip.cause_steady ..))
  · dsimp only
    refine Steady.trans (Calm.steady ?_) (Chip.cause_steady ..)
    exact (Calm.ite (.refl c) (c.setReg_calm _ _)).trans ((Chip.setBit_calm _ _ _ _).trans (Chip.incFld_calm _ _ _ _ _))
  · exact Steady.trans ((c.setBit_calm _ _ _).trans (Chip.incFld_calm _ _ _ _ _)).steady (Chip.cause_steady ..)

theorem Chip.eccCe_calm (c : Chip) (w : Nat) : Calm c (c.eccCe w) := by
  unfold Chip.eccCe
  dsimp only
  have h : Calm c { c with ecc := Sparse.del w c.ecc } := ⟨rfl, rfl⟩
  exact h.trans (Calm.ite ⟨rfl, rfl⟩ (Calm.ite ⟨rfl, rfl⟩ ⟨rfl, rfl⟩))

theorem Chip.pokeN_calm (c : Chip) (a : Nat) (d : List Byte) : Calm c (c.pokeN a d) := by
  induction d generalizing c a with
  | nil => exact .refl c
  | cons b r ih =>
    have h : Calm c (c.poke a b) := ⟨rfl, rfl⟩
    exact h.trans (ih _ _)

theorem Chip.drawBytes_calm (c : Chip) (n : Nat) : Calm c (c.drawBytes n).2 := ⟨rfl, rfl⟩

theorem Chip.eccRead_steady (c : Chip) (w : Nat) : Steady c (c.eccRead w).2 := by
  unfold Chip.eccRead
  split
  · exact .refl c
  · exact (c.eccCe_calm w).steady
  · exact c.eccUe_steady w
  · dsimp only
    have h : Calm c { c with fresh := c.fresh + 1 } := ⟨rfl, rfl⟩
    split
    · exact h.steady.trans (Chip.eccUe_steady ..)
    · have k : Calm c ((c.drawBytes 8).2.pokeN w (c.drawBytes 8).1) := (c.drawBytes_calm 8).trans (Chip.pokeN_calm ..)
      generalize (c.drawBytes 8).2.pokeN w (c.drawBytes 8).1 = x at k ⊢
      refine Calm.steady (k.trans ?_)
      exact Calm.ite (x.eccCe_calm w) ⟨rfl, rfl⟩

theorem Chip.memRead_steady (c : Chip) (a n : Nat) : Steady c (c.memRead a n).2 := by
  unfold Chip.memRead
  dsimp only
  generalize hx : (if canon a < 0x800000 then List.foldl (fun c l => c.touchGrp (grpOf l)) c (linesOf a n) else c) = x
  have h : Calm c x := by rw [← hx]; exact Calm.ite (Calm.foldl _ _ (fun d _ => d.touchGrp_calm _) c) (.refl c)
  refine h.steady.trans ?_
  have k : ∀ (l : List Nat) (p : Bool × Chip), Steady p.2
      (l.foldl (fun (p : Bool × Chip) w => let (b, d) := p.2.eccRead w; (p.1 || b, d)) p).2 := by
    intro l
    induction l with
    | nil => exact fun p => .refl _
    | cons w r ih => exact fun p => Steady.trans (p.2.eccRead_steady w) (ih ((p.1 || (p.2.eccRead w).1), (p.2.eccRead w).2))
  exact k _ (false, x)

theorem Chip.memWrite_steady (c : Chip) (a : Nat) (d : List Byte) : Steady c (c.memWrite a d).2 := by
  unfold Chip.memWrite
  dsimp only
  generalize hx : (if canon a < 0x800000 then List.foldl (fun c l => c.touchGrp (grpOf l)) c (linesOf a d.length) else c) = x
  have h : Calm c x := by rw [← hx]; exact Calm.ite (Calm.foldl _ _ (fun d _ => d.touchGrp_calm _) c) (.refl c)
  refine h.steady.trans ?_
  have k : ∀ (l : List Nat) (g : Nat → Bool) (p : List Nat × Chip), Steady p.2
      (l.foldl (fun (p : List Nat × Chip) w => if g w then (p.1, { p.2 with ecc := Sparse.del w p.2.ecc })
        else let (b, e) := p.2.eccRead w; (if b then w :: p.1 else p.1, e)) p).2 := by
    intro l g
    induction l with
    | nil => exact fun p => .refl _
    | cons w r ih =>
      intro p
      refine Steady.trans ?_ (ih _)
      dsimp only
      split
      · exact Calm.steady ⟨rfl, rfl⟩
      · exact p.2.eccRead_steady w
  have k' := k (wordsOf a d.length)
    (fun w => (List.range 8).all fun i => (List.range d.length).any fun j => decide (canon (a + j) = w + i)) ([], x)
  generalize hy : List.foldl _ ([], x) (wordsOf a d.length) = y at k' ⊢
  refine k'.trans (Calm.steady ?_)
  have h1 : Calm y.2 { y.2 with resv := y.2.resv.filter fun r => !(wordsOf a d.length).contains r.2 } := ⟨rfl, rfl⟩
  refine h1.trans (Calm.foldl _ _ (fun e x => ?_) _)
  split
  · exact .refl e
  · exact ⟨rfl, rfl⟩

theorem Chip.read_steady (c : Chip) (port cls a n src : Nat) : Steady c (c.read port cls a n src).2 := by
  unfold Chip.read
  split
  · have h := c.memRead_steady a n
    split <;> simp_all
  · exact c.gateFail_steady (.refused _ _) _ _ a _ _
  · exact Chip.gateFail_steady ..

theorem Chip.write_steady (c : Chip) (port cls a : Nat) (d : List Byte) (src : Nat) : Steady c (c.write port cls a d src).2 := by
  unfold Chip.write
  split
  · have h := c.memWrite_steady a d
    split <;> simp_all
  · exact c.gateFail_steady (.refused _ _) _ _ a _ _
  · exact Chip.gateFail_steady ..

/-! ### Works -/

/-- A work that leaves the engines and the mode alone, or ends in Fenced or Dark. -/
def EngM.Quiet {α : Type} (m : EngM α) : Prop := ∀ c, Steady c (m.run c).2

theorem EngM.quiet_pure {α : Type} (x : α) : EngM.Quiet (pure x : EngM α) := fun c => .refl c

theorem EngM.quiet_throw {α : Type} (r : OpRes) : EngM.Quiet (throw r : EngM α) := fun c => .refl c

theorem EngM.quiet_bind {α β : Type} {m : EngM α} {f : α → EngM β} (h : EngM.Quiet m) (k : ∀ x, EngM.Quiet (f x)) :
    EngM.Quiet (m >>= f) := by
  intro c
  have hm := h c
  show Steady c ((do let x ← m.run; (ExceptT.bindCont f x) : StateM Chip (Except OpRes β)) c).2
  show Steady c ((ExceptT.bindCont f (m.run c).1 : StateM Chip (Except OpRes β)) (m.run c).2).2
  cases hx : (m.run c).1 with
  | ok x => exact hm.trans (k x _)
  | error r => exact hm

theorem EngM.quiet_get : EngM.Quiet (get : EngM Chip) := fun c => .refl c

theorem EngM.quiet_update {α : Type} {f : Chip → Chip} {k : Chip → EngM α} (hf : ∀ c, Steady c (f c)) (hk : ∀ c, EngM.Quiet (k c)) :
    EngM.Quiet (do let c ← get; set (f c); k c) := fun c => (hf c).trans (hk c _)

theorem EngM.quiet_mapM {α β : Type} {f : α → EngM β} (h : ∀ x, EngM.Quiet (f x)) (l : List α) : EngM.Quiet (l.mapM f) := by
  induction l with
  | nil => exact EngM.quiet_pure _
  | cons x r ih =>
    rw [List.mapM_cons]
    exact EngM.quiet_bind (h x) fun _ => EngM.quiet_bind ih fun _ => EngM.quiet_pure _

theorem EngM.quiet_forM {α : Type} {f : α → EngM PUnit} (h : ∀ x, EngM.Quiet (f x)) (l : List α) : EngM.Quiet (l.forM f) := by
  induction l with
  | nil => exact EngM.quiet_pure _
  | cons x r ih => exact EngM.quiet_bind (h x) fun _ => ih

theorem EngM.quiet_foldlM {α β : Type} {f : β → α → EngM β} (h : ∀ b x, EngM.Quiet (f b x)) (l : List α) (b : β) :
    EngM.Quiet (l.foldlM f b) := by
  induction l generalizing b with
  | nil => exact EngM.quiet_pure _
  | cons x r ih =>
    rw [List.foldlM_cons]
    exact EngM.quiet_bind (h b x) fun _ => ih _

theorem EngM.quiet_readPart (w : Who) (p : Nat × Nat) : EngM.Quiet (readPart w p) := by
  refine EngM.quiet_update (f := fun c => (c.read w.e w.cls p.1 p.2).2) (fun c => c.read_steady ..) fun c => ?_
  split
  · exact EngM.quiet_pure _
  · exact EngM.quiet_pure _
  · exact EngM.quiet_throw _
  · exact EngM.quiet_throw _

theorem EngM.quiet_eread (w : Who) (a n : Nat) : EngM.Quiet (eread w a n) :=
  EngM.quiet_bind (EngM.quiet_mapM (EngM.quiet_readPart w) _) fun _ => EngM.quiet_pure _

theorem EngM.quiet_writePart (w : Who) (b : Nat) (d : List Byte) (p : Nat × Nat) : EngM.Quiet (writePart w b d p) := by
  refine EngM.quiet_update (f := fun c => (c.write w.e w.cls p.1 (slice d (p.1 - b) p.2)).2) (fun c => c.write_steady ..) fun c => ?_
  split
  · exact EngM.quiet_pure _
  · exact EngM.quiet_pure _
  · exact EngM.quiet_throw _
  · exact EngM.quiet_throw _

theorem EngM.quiet_ewrite (w : Who) (a : Nat) (d : List Byte) : EngM.Quiet (ewrite w a d) :=
  EngM.quiet_bind (EngM.quiet_mapM (EngM.quiet_writePart w a d) _) fun _ => EngM.quiet_pure _

theorem EngM.quiet_efault {α : Type} (k r : Nat) : EngM.Quiet (efault k r : EngM α) := EngM.quiet_throw _

end Sys2Proof.Machine
end

