-- ==== Sys2Proof/Laws/Works.lean ====
section
/-! SUPPORT. The works of all engine operations are quiet: one lemma per work, by the way it is built. -/
namespace Sys2Proof.Machine

theorem EngM.quiet_forIn {α β : Type} {f : α → β → EngM (ForInStep β)} (h : ∀ x b, EngM.Quiet (f x b)) (l : List α) (b : β) :
    EngM.Quiet (forIn l b f) := by
  induction l generalizing b with
  | nil => exact EngM.quiet_pure _
  | cons x r ih =>
    rw [List.forIn_cons]
    refine EngM.quiet_bind (h x b) fun y => ?_
    cases y with
    | done z => exact EngM.quiet_pure _
    | yield z => exact ih _

theorem EngM.quiet_ite {α : Type} {p : Prop} [Decidable p] {m k : EngM α} (h : EngM.Quiet m) (g : EngM.Quiet k) :
    EngM.Quiet (if p then m else k) := by
  split
  · exact h
  · exact g

theorem EngM.quiet_ehdr (w : Who) (a : Nat) (ok : Hdr → Bool) :
    EngM.Quiet (ehdr w a ok) := by
  unfold ehdr
  repeat' first
    | with_reducible exact EngM.quiet_pure _
    | with_reducible exact EngM.quiet_efault _ _
    | with_reducible exact EngM.quiet_eread _ _ _
    | with_reducible refine EngM.quiet_bind ?_ fun _ => ?_
    | with_reducible refine EngM.quiet_ite ?_ ?_
    | split
    | dsimp only

theorem EngM.quiet_escale (w : Who) (h : Hdr) (r : Nat) :
    EngM.Quiet (escale w h r) := by
  unfold escale
  repeat' first
    | with_reducible exact EngM.quiet_pure _
    | with_reducible exact EngM.quiet_eread _ _ _
    | with_reducible refine EngM.quiet_bind ?_ fun _ => ?_
    | with_reducible refine EngM.quiet_ite ?_ ?_
    | split
    | dsimp only

theorem EngM.quiet_ebook (w : Who) (h : Hdr) (r : Nat) :
    EngM.Quiet (ebook w h r) := by
  unfold ebook
  repeat' first
    | with_reducible exact EngM.quiet_pure _
    | with_reducible exact EngM.quiet_eread _ _ _
    | with_reducible refine EngM.quiet_bind ?_ fun _ => ?_
    | with_reducible refine EngM.quiet_ite ?_ ?_
    | split
    | dsimp only

theorem EngM.quiet_erow (w : Who) (h : Hdr) (r : Nat) :
    EngM.Quiet (erow w h r) := by
  unfold erow
  repeat' first
    | with_reducible exact EngM.quiet_pure _
    | with_reducible exact EngM.quiet_efault _ _
    | with_reducible exact EngM.quiet_eread _ _ _
    | with_reducible exact EngM.quiet_ebook _ _ _
    | with_reducible refine EngM.quiet_bind ?_ fun _ => ?_
    | with_reducible refine EngM.quiet_ite ?_ ?_
    | split
    | dsimp only

theorem EngM.quiet_eints (w : Who) (h : Hdr) (r : Nat) :
    EngM.Quiet (eints w h r) := by
  unfold eints
  repeat' first
    | with_reducible exact EngM.quiet_pure _
    | with_reducible exact EngM.quiet_eread _ _ _
    | with_reducible refine EngM.quiet_bind ?_ fun _ => ?_
    | with_reducible refine EngM.quiet_ite ?_ ?_
    | split
    | dsimp only

theorem EngM.quiet_eoutRow (w : Who) (h : Hdr) (replay : Bool) (r : Nat) (live : List Nat) (pad : Nat) (ms : Misses) :
    EngM.Quiet (eoutRow w h replay r live pad ms) := by
  unfold eoutRow
  repeat' first
    | with_reducible exact EngM.quiet_pure _
    | with_reducible exact EngM.quiet_eread _ _ _
    | with_reducible exact EngM.quiet_ewrite _ _ _
    | with_reducible exact EngM.quiet_escale _ _ _
    | with_reducible refine EngM.quiet_bind ?_ fun _ => ?_
    | with_reducible refine EngM.quiet_ite ?_ ?_
    | split
    | dsimp only

theorem EngM.quiet_ebf16 (w : Who) (a n : Nat) :
    EngM.Quiet (ebf16 w a n) := by
  unfold ebf16
  repeat' first
    | with_reducible exact EngM.quiet_pure _
    | with_reducible exact EngM.quiet_eread _ _ _
    | with_reducible refine EngM.quiet_bind ?_ fun _ => ?_
    | with_reducible refine EngM.quiet_ite ?_ ?_
    | split
    | dsimp only

theorem EngM.quiet_sqeCell (w : Who) (o : Opnd) (op : Nat) (rows : List WRow) (i : Nat) :
    EngM.Quiet (sqeCell w o op rows i) := by
  unfold sqeCell
  repeat' first
    | with_reducible exact EngM.quiet_pure _
    | with_reducible exact EngM.quiet_eread _ _ _
    | with_reducible exact EngM.quiet_ewrite _ _ _
    | with_reducible exact EngM.quiet_ebf16 _ _ _
    | with_reducible refine EngM.quiet_bind ?_ fun _ => ?_
    | with_reducible refine EngM.quiet_ite ?_ ?_
    | split
    | dsimp only

theorem EngM.quiet_sqeStep (op : Nat) (w : Who) (d0 : Desc) (o : Opnd) :
    EngM.Quiet (sqeStep op w d0 o) := by
  unfold sqeStep
  repeat' first
    | with_reducible exact EngM.quiet_pure _
    | with_reducible exact EngM.quiet_ehdr _ _ _
    | with_reducible exact EngM.quiet_escale _ _ _
    | with_reducible exact EngM.quiet_erow _ _ _
    | with_reducible exact EngM.quiet_sqeCell _ _ _ _ _
    | with_reducible refine EngM.quiet_bind ?_ fun _ => ?_
    | with_reducible refine EngM.quiet_mapM (fun _ => ?_) _
    | with_reducible refine EngM.quiet_forM (fun _ => ?_) _
    | with_reducible refine EngM.quiet_ite ?_ ?_
    | split
    | dsimp only

theorem EngM.quiet_nlApply (w : Who) (d0 : Desc) (o : Opnd) :
    EngM.Quiet (nlApply w d0 o) := by
  unfold nlApply
  repeat' first
    | with_reducible exact EngM.quiet_pure _
    | with_reducible exact EngM.quiet_eread _ _ _
    | with_reducible exact EngM.quiet_ewrite _ _ _
    | with_reducible refine EngM.quiet_bind ?_ fun _ => ?_
    | with_reducible refine EngM.quiet_ite ?_ ?_
    | split
    | dsimp only

theorem EngM.quiet_gemm (acc : Bool) (w : Who) (d : Desc) (o : Opnd) :
    EngM.Quiet (gemm acc w d o) := by
  unfold gemm
  repeat' first
    | with_reducible exact EngM.quiet_pure _
    | with_reducible exact EngM.quiet_efault _ _
    | with_reducible exact EngM.quiet_eread _ _ _
    | with_reducible exact EngM.quiet_ewrite _ _ _
    | with_reducible exact EngM.quiet_ehdr _ _ _
    | with_reducible exact EngM.quiet_escale _ _ _
    | with_reducible exact EngM.quiet_erow _ _ _
    | with_reducible exact EngM.quiet_eints _ _ _
    | with_reducible exact EngM.quiet_eoutRow _ _ _ _ _ _ _
    | with_reducible refine EngM.quiet_bind ?_ fun _ => ?_
    | with_reducible refine EngM.quiet_mapM (fun _ => ?_) _
    | with_reducible refine EngM.quiet_foldlM (fun _ _ => ?_) _ _
    | with_reducible refine EngM.quiet_ite ?_ ?_
    | split
    | dsimp only

theorem EngM.quiet_adaptRows (w : Who) (h : Hdr) (replay : Bool) (xs : List Nat) :
    EngM.Quiet (adaptRows w h replay xs) := by
  unfold adaptRows
  repeat' first
    | with_reducible exact EngM.quiet_pure _
    | with_reducible exact EngM.quiet_eoutRow _ _ _ _ _ _ _
    | with_reducible refine EngM.quiet_bind ?_ fun _ => ?_
    | with_reducible refine EngM.quiet_foldlM (fun _ _ => ?_) _ _
    | with_reducible refine EngM.quiet_ite ?_ ?_
    | split
    | dsimp only

theorem EngM.quiet_bptt (w : Who) (d : Desc) (o : Opnd) :
    EngM.Quiet (bptt w d o) := by
  unfold bptt
  repeat' first
    | with_reducible exact EngM.quiet_pure _
    | with_reducible exact EngM.quiet_eread _ _ _
    | with_reducible exact EngM.quiet_ehdr _ _ _
    | with_reducible exact EngM.quiet_escale _ _ _
    | with_reducible exact EngM.quiet_erow _ _ _
    | with_reducible exact EngM.quiet_adaptRows _ _ _ _
    | with_reducible refine EngM.quiet_bind ?_ fun _ => ?_
    | with_reducible refine EngM.quiet_mapM (fun _ => ?_) _
    | with_reducible refine EngM.quiet_ite ?_ ?_
    | split
    | dsimp only

theorem EngM.quiet_adaptRow (w : Who) (h : Hdr) (r : Nat) :
    EngM.Quiet (adaptRow w h r) := by
  unfold adaptRow
  repeat' first
    | with_reducible exact EngM.quiet_pure _
    | with_reducible exact EngM.quiet_escale _ _ _
    | with_reducible exact EngM.quiet_erow _ _ _
    | with_reducible refine EngM.quiet_bind ?_ fun _ => ?_
    | with_reducible refine EngM.quiet_ite ?_ ?_
    | split
    | dsimp only

theorem EngM.quiet_optRow (w : Who) (replay : Bool) (o : Opnd) (k : OptK) (hg hm hv : Hdr) (acc : OptAcc) (r : Nat) :
    EngM.Quiet (optRow w replay o k hg hm hv acc r) := by
  unfold optRow
  repeat' first
    | with_reducible exact EngM.quiet_pure _
    | with_reducible exact EngM.quiet_eread _ _ _
    | with_reducible exact EngM.quiet_ewrite _ _ _
    | with_reducible exact EngM.quiet_eoutRow _ _ _ _ _ _ _
    | with_reducible exact EngM.quiet_adaptRow _ _ _
    | with_reducible refine EngM.quiet_bind ?_ fun _ => ?_
    | with_reducible refine EngM.quiet_forIn (fun _ _ => ?_) _ _
    | with_reducible refine EngM.quiet_ite ?_ ?_
    | split
    | dsimp only

theorem EngM.quiet_optWork (w : Who) (d : Desc) (o : Opnd) :
    EngM.Quiet (optWork w d o) := by
  unfold optWork
  repeat' first
    | with_reducible exact EngM.quiet_pure _
    | with_reducible exact EngM.quiet_efault _ _
    | with_reducible exact EngM.quiet_eread _ _ _
    | with_reducible exact EngM.quiet_ehdr _ _ _
    | with_reducible exact EngM.quiet_optRow _ _ _ _ _ _ _ _ _
    | with_reducible refine EngM.quiet_bind ?_ fun _ => ?_
    | with_reducible refine EngM.quiet_foldlM (fun _ _ => ?_) _ _
    | with_reducible refine EngM.quiet_ite ?_ ?_
    | split
    | dsimp only

theorem EngM.quiet_emat (w : Who) (a r c : Nat) :
    EngM.Quiet (emat w a r c) := by
  unfold emat
  repeat' first
    | with_reducible exact EngM.quiet_pure _
    | with_reducible exact EngM.quiet_eread _ _ _
    | with_reducible refine EngM.quiet_bind ?_ fun _ => ?_
    | with_reducible refine EngM.quiet_ite ?_ ?_
    | split
    | dsimp only

theorem EngM.quiet_matmul (w : Who) (d0 : Desc) (o : Opnd) :
    EngM.Quiet (matmul w d0 o) := by
  unfold matmul
  repeat' first
    | with_reducible exact EngM.quiet_pure _
    | with_reducible exact EngM.quiet_ewrite _ _ _
    | with_reducible exact EngM.quiet_emat _ _ _ _
    | with_reducible refine EngM.quiet_bind ?_ fun _ => ?_
    | with_reducible refine EngM.quiet_ite ?_ ?_
    | split
    | dsimp only

theorem EngM.quiet_cholWork (w : Who) (d0 : Desc) (o : Opnd) :
    EngM.Quiet (cholWork w d0 o) := by
  unfold cholWork
  repeat' first
    | with_reducible exact EngM.quiet_pure _
    | with_reducible exact EngM.quiet_efault _ _
    | with_reducible exact EngM.quiet_ewrite _ _ _
    | with_reducible exact EngM.quiet_emat _ _ _ _
    | with_reducible refine EngM.quiet_bind ?_ fun _ => ?_
    | with_reducible refine EngM.quiet_ite ?_ ?_
    | split
    | dsimp only

theorem EngM.quiet_trisolve (w : Who) (d0 : Desc) (o : Opnd) :
    EngM.Quiet (trisolve w d0 o) := by
  unfold trisolve
  repeat' first
    | with_reducible exact EngM.quiet_pure _
    | with_reducible exact EngM.quiet_ewrite _ _ _
    | with_reducible exact EngM.quiet_emat _ _ _ _
    | with_reducible refine EngM.quiet_bind ?_ fun _ => ?_
    | with_reducible refine EngM.quiet_ite ?_ ?_
    | split
    | dsimp only

theorem EngM.quiet_covWork (w : Who) (d0 : Desc) (o : Opnd) :
    EngM.Quiet (covWork w d0 o) := by
  unfold covWork
  repeat' first
    | with_reducible exact EngM.quiet_pure _
    | with_reducible exact EngM.quiet_ewrite _ _ _
    | with_reducible exact EngM.quiet_emat _ _ _ _
    | with_reducible refine EngM.quiet_bind ?_ fun _ => ?_
    | with_reducible refine EngM.quiet_ite ?_ ?_
    | split
    | dsimp only

theorem EngM.quiet_ekfWork (w : Who) (d0 : Desc) (o : Opnd) :
    EngM.Quiet (ekfWork w d0 o) := by
  unfold ekfWork
  repeat' first
    | with_reducible exact EngM.quiet_pure _
    | with_reducible exact EngM.quiet_efault _ _
    | with_reducible exact EngM.quiet_eread _ _ _
    | with_reducible exact EngM.quiet_ewrite _ _ _
    | with_reducible exact EngM.quiet_emat _ _ _ _
    | with_reducible refine EngM.quiet_bind ?_ fun _ => ?_
    | with_reducible refine EngM.quiet_ite ?_ ?_
    | split
    | dsimp only

theorem EngM.quiet_ukfWork (w : Who) (d0 : Desc) (o : Opnd) :
    EngM.Quiet (ukfWork w d0 o) := by
  unfold ukfWork
  repeat' first
    | with_reducible exact EngM.quiet_pure _
    | with_reducible exact EngM.quiet_efault _ _
    | with_reducible exact EngM.quiet_ewrite _ _ _
    | with_reducible exact EngM.quiet_emat _ _ _ _
    | with_reducible refine EngM.quiet_bind ?_ fun _ => ?_
    | with_reducible refine EngM.quiet_ite ?_ ?_
    | split
    | dsimp only

theorem EngM.quiet_ectx (w : Who) (ctx off : Nat) :
    EngM.Quiet (ectx w ctx off) := by
  unfold ectx
  repeat' first
    | with_reducible exact EngM.quiet_pure _
    | with_reducible exact EngM.quiet_eread _ _ _
    | with_reducible refine EngM.quiet_bind ?_ fun _ => ?_
    | with_reducible refine EngM.quiet_ite ?_ ?_
    | split
    | dsimp only

theorem EngM.quiet_ecmCell (w : Who) (o : Opnd) (k : Nat) :
    EngM.Quiet (ecmCell w o k) := by
  unfold ecmCell
  repeat' first
    | with_reducible exact EngM.quiet_pure _
    | with_reducible exact EngM.quiet_eread _ _ _
    | with_reducible exact EngM.quiet_ewrite _ _ _
    | with_reducible exact EngM.quiet_ectx _ _ _
    | with_reducible refine EngM.quiet_bind ?_ fun _ => ?_
    | with_reducible refine EngM.quiet_ite ?_ ?_
    | split
    | dsimp only

theorem EngM.quiet_ecmWork (w : Who) (d0 : Desc) (o : Opnd) :
    EngM.Quiet (ecmWork w d0 o) := by
  unfold ecmWork
  repeat' first
    | with_reducible exact EngM.quiet_pure _
    | with_reducible exact EngM.quiet_ecmCell _ _ _
    | with_reducible refine EngM.quiet_bind ?_ fun _ => ?_
    | with_reducible refine EngM.quiet_mapM (fun _ => ?_) _
    | with_reducible refine EngM.quiet_ite ?_ ?_
    | split
    | dsimp only

theorem EngM.quiet_coulombCell (w : Who) (o : Opnd) (k : Nat) :
    EngM.Quiet (coulombCell w o k) := by
  unfold coulombCell
  repeat' first
    | with_reducible exact EngM.quiet_pure _
    | with_reducible exact EngM.quiet_eread _ _ _
    | with_reducible exact EngM.quiet_ewrite _ _ _
    | with_reducible refine EngM.quiet_bind ?_ fun _ => ?_
    | with_reducible refine EngM.quiet_ite ?_ ?_
    | split
    | dsimp only

theorem EngM.quiet_coulombWork (w : Who) (d0 : Desc) (o : Opnd) :
    EngM.Quiet (coulombWork w d0 o) := by
  unfold coulombWork
  repeat' first
    | with_reducible exact EngM.quiet_pure _
    | with_reducible exact EngM.quiet_coulombCell _ _ _
    | with_reducible refine EngM.quiet_bind ?_ fun _ => ?_
    | with_reducible refine EngM.quiet_mapM (fun _ => ?_) _
    | with_reducible refine EngM.quiet_ite ?_ ?_
    | split
    | dsimp only

theorem EngM.quiet_fftWork (stft : Bool) (w : Who) (d0 : Desc) (o : Opnd) :
    EngM.Quiet (fftWork stft w d0 o) := by
  unfold fftWork
  repeat' first
    | with_reducible exact EngM.quiet_pure _
    | with_reducible exact EngM.quiet_eread _ _ _
    | with_reducible exact EngM.quiet_ewrite _ _ _
    | with_reducible refine EngM.quiet_bind ?_ fun _ => ?_
    | with_reducible refine EngM.quiet_forM (fun _ => ?_) _
    | with_reducible refine EngM.quiet_ite ?_ ?_
    | split
    | dsimp only

theorem EngM.quiet_ifftWork (w : Who) (d0 : Desc) (o : Opnd) :
    EngM.Quiet (ifftWork w d0 o) := by
  unfold ifftWork
  repeat' first
    | with_reducible exact EngM.quiet_pure _
    | with_reducible exact EngM.quiet_eread _ _ _
    | with_reducible exact EngM.quiet_ewrite _ _ _
    | with_reducible refine EngM.quiet_bind ?_ fun _ => ?_
    | with_reducible refine EngM.quiet_forM (fun _ => ?_) _
    | with_reducible refine EngM.quiet_ite ?_ ?_
    | split
    | dsimp only

theorem EngM.quiet_istftWork (w : Who) (d0 : Desc) (o : Opnd) :
    EngM.Quiet (istftWork w d0 o) := by
  unfold istftWork
  repeat' first
    | with_reducible exact EngM.quiet_pure _
    | with_reducible exact EngM.quiet_eread _ _ _
    | with_reducible exact EngM.quiet_ewrite _ _ _
    | with_reducible refine EngM.quiet_bind ?_ fun _ => ?_
    | with_reducible refine EngM.quiet_forM (fun _ => ?_) _
    | with_reducible refine EngM.quiet_ite ?_ ?_
    | split
    | dsimp only

theorem EngM.quiet_powerWork (w : Who) (d0 : Desc) (o : Opnd) :
    EngM.Quiet (powerWork w d0 o) := by
  unfold powerWork
  repeat' first
    | with_reducible exact EngM.quiet_pure _
    | with_reducible exact EngM.quiet_eread _ _ _
    | with_reducible exact EngM.quiet_ewrite _ _ _
    | with_reducible refine EngM.quiet_bind ?_ fun _ => ?_
    | with_reducible refine EngM.quiet_forM (fun _ => ?_) _
    | with_reducible refine EngM.quiet_ite ?_ ?_
    | split
    | dsimp only

theorem EngM.quiet_firWork (w : Who) (d0 : Desc) (o : Opnd) :
    EngM.Quiet (firWork w d0 o) := by
  unfold firWork
  repeat' first
    | with_reducible exact EngM.quiet_pure _
    | with_reducible exact EngM.quiet_eread _ _ _
    | with_reducible exact EngM.quiet_ewrite _ _ _
    | with_reducible refine EngM.quiet_bind EngM.quiet_get fun _ => ?_
    | with_reducible refine EngM.quiet_bind ?_ fun _ => ?_
    | with_reducible refine EngM.quiet_ite ?_ ?_
    | split
    | dsimp only

theorem EngM.quiet_biquadWork (w : Who) (d0 : Desc) (o : Opnd) :
    EngM.Quiet (biquadWork w d0 o) := by
  unfold biquadWork
  repeat' first
    | with_reducible exact EngM.quiet_pure _
    | with_reducible exact EngM.quiet_eread _ _ _
    | with_reducible exact EngM.quiet_ewrite _ _ _
    | with_reducible refine EngM.quiet_bind ?_ fun _ => ?_
    | with_reducible refine EngM.quiet_ite ?_ ?_
    | split
    | dsimp only

theorem EngM.quiet_fxlmsWork (w : Who) (d0 : Desc) (o : Opnd) :
    EngM.Quiet (fxlmsWork w d0 o) := by
  unfold fxlmsWork
  repeat' first
    | with_reducible exact EngM.quiet_pure _
    | with_reducible exact EngM.quiet_eread _ _ _
    | with_reducible exact EngM.quiet_ewrite _ _ _
    | with_reducible refine EngM.quiet_bind ?_ fun _ => ?_
    | with_reducible refine EngM.quiet_ite ?_ ?_
    | split
    | dsimp only

theorem EngM.quiet_compressWork (w : Who) (d0 : Desc) (o : Opnd) :
    EngM.Quiet (compressWork w d0 o) := by
  unfold compressWork
  repeat' first
    | with_reducible exact EngM.quiet_pure _
    | with_reducible exact EngM.quiet_eread _ _ _
    | with_reducible exact EngM.quiet_ewrite _ _ _
    | with_reducible refine EngM.quiet_bind ?_ fun _ => ?_
    | with_reducible refine EngM.quiet_ite ?_ ?_
    | split
    | dsimp only

theorem EngM.quiet_decompressWork (w : Who) (d0 : Desc) (o : Opnd) :
    EngM.Quiet (decompressWork w d0 o) := by
  unfold decompressWork
  repeat' first
    | with_reducible exact EngM.quiet_pure _
    | with_reducible exact EngM.quiet_efault _ _
    | with_reducible exact EngM.quiet_eread _ _ _
    | with_reducible exact EngM.quiet_ewrite _ _ _
    | with_reducible refine EngM.quiet_bind ?_ fun _ => ?_
    | with_reducible refine EngM.quiet_ite ?_ ?_
    | split
    | dsimp only

theorem EngM.quiet_gcmEncWork (w : Who) (d0 : Desc) (o : Opnd) :
    EngM.Quiet (gcmEncWork w d0 o) := by
  unfold gcmEncWork
  repeat' first
    | with_reducible exact EngM.quiet_pure _
    | with_reducible exact EngM.quiet_efault _ _
    | with_reducible exact EngM.quiet_eread _ _ _
    | with_reducible exact EngM.quiet_ewrite _ _ _
    | with_reducible refine EngM.quiet_bind EngM.quiet_get fun _ => ?_
    | with_reducible refine EngM.quiet_bind ?_ fun _ => ?_
    | with_reducible refine EngM.quiet_ite ?_ ?_
    | split
    | dsimp only

theorem EngM.quiet_gcmDecWork (w : Who) (d0 : Desc) (o : Opnd) :
    EngM.Quiet (gcmDecWork w d0 o) := by
  unfold gcmDecWork
  repeat' first
    | with_reducible exact EngM.quiet_pure _
    | with_reducible exact EngM.quiet_efault _ _
    | with_reducible exact EngM.quiet_eread _ _ _
    | with_reducible exact EngM.quiet_ewrite _ _ _
    | with_reducible refine EngM.quiet_bind EngM.quiet_get fun _ => ?_
    | with_reducible refine EngM.quiet_bind ?_ fun _ => ?_
    | with_reducible refine EngM.quiet_ite ?_ ?_
    | split
    | dsimp only

theorem EngM.quiet_shaWork (w : Who) (d0 : Desc) (o : Opnd) :
    EngM.Quiet (shaWork w d0 o) := by
  unfold shaWork
  repeat' first
    | with_reducible exact EngM.quiet_pure _
    | with_reducible exact EngM.quiet_eread _ _ _
    | with_reducible exact EngM.quiet_ewrite _ _ _
    | with_reducible refine EngM.quiet_bind ?_ fun _ => ?_
    | with_reducible refine EngM.quiet_ite ?_ ?_
    | split
    | dsimp only

theorem EngM.quiet_ecdsaWork (w : Who) (d0 : Desc) (o : Opnd) :
    EngM.Quiet (ecdsaWork w d0 o) := by
  unfold ecdsaWork
  repeat' first
    | with_reducible exact EngM.quiet_pure _
    | with_reducible exact EngM.quiet_eread _ _ _
    | with_reducible refine EngM.quiet_bind ?_ fun _ => ?_
    | with_reducible refine EngM.quiet_ite ?_ ?_
    | split
    | dsimp only

theorem EngM.quiet_diffWork (w : Who) (d0 : Desc) (o : Opnd) :
    EngM.Quiet (diffWork w d0 o) := by
  unfold diffWork
  repeat' first
    | with_reducible exact EngM.quiet_pure _
    | with_reducible exact EngM.quiet_eread _ _ _
    | with_reducible exact EngM.quiet_ewrite _ _ _
    | with_reducible refine EngM.quiet_bind ?_ fun _ => ?_
    | with_reducible refine EngM.quiet_ite ?_ ?_
    | split
    | dsimp only

theorem EngM.quiet_stridedWork (w : Who) (d0 : Desc) (o : Opnd) :
    EngM.Quiet (stridedWork w d0 o) := by
  unfold stridedWork
  repeat' first
    | with_reducible exact EngM.quiet_pure _
    | with_reducible exact EngM.quiet_eread _ _ _
    | with_reducible exact EngM.quiet_ewrite _ _ _
    | with_reducible refine EngM.quiet_bind ?_ fun _ => ?_
    | with_reducible refine EngM.quiet_forM (fun _ => ?_) _
    | with_reducible refine EngM.quiet_ite ?_ ?_
    | split
    | dsimp only

theorem EngM.quiet_reduceWork (w : Who) (d0 : Desc) (o : Opnd) :
    EngM.Quiet (reduceWork w d0 o) := by
  unfold reduceWork
  repeat' first
    | with_reducible exact EngM.quiet_pure _
    | with_reducible exact EngM.quiet_eread _ _ _
    | with_reducible exact EngM.quiet_ewrite _ _ _
    | with_reducible refine EngM.quiet_bind ?_ fun _ => ?_
    | with_reducible refine EngM.quiet_ite ?_ ?_
    | split
    | dsimp only

theorem EngM.quiet_bandWork (w : Who) (d0 : Desc) (o : Opnd) :
    EngM.Quiet (bandWork w d0 o) := by
  unfold bandWork
  repeat' first
    | with_reducible exact EngM.quiet_pure _
    | with_reducible exact EngM.quiet_eread _ _ _
    | with_reducible exact EngM.quiet_ewrite _ _ _
    | with_reducible refine EngM.quiet_bind ?_ fun _ => ?_
    | with_reducible refine EngM.quiet_ite ?_ ?_
    | split
    | dsimp only

theorem EngM.quiet_interpOut (w : Who) (o : Opnd) (up : Bool) (outs : List (Nat × Bool)) :
    EngM.Quiet (interpOut w o up outs) := by
  unfold interpOut
  repeat' first
    | with_reducible exact EngM.quiet_pure _
    | with_reducible exact EngM.quiet_efault _ _
    | with_reducible exact EngM.quiet_ewrite _ _ _
    | with_reducible refine EngM.quiet_bind ?_ fun _ => ?_
    | with_reducible refine EngM.quiet_ite ?_ ?_
    | split
    | dsimp only

theorem EngM.quiet_interp1Work (w : Who) (d0 : Desc) (o : Opnd) :
    EngM.Quiet (interp1Work w d0 o) := by
  unfold interp1Work
  repeat' first
    | with_reducible exact EngM.quiet_pure _
    | with_reducible exact EngM.quiet_eread _ _ _
    | with_reducible exact EngM.quiet_interpOut _ _ _ _
    | with_reducible refine EngM.quiet_bind ?_ fun _ => ?_
    | with_reducible refine EngM.quiet_ite ?_ ?_
    | split
    | dsimp only

theorem EngM.quiet_interp2Work (w : Who) (d0 : Desc) (o : Opnd) :
    EngM.Quiet (interp2Work w d0 o) := by
  unfold interp2Work
  repeat' first
    | with_reducible exact EngM.quiet_pure _
    | with_reducible exact EngM.quiet_eread _ _ _
    | with_reducible exact EngM.quiet_interpOut _ _ _ _
    | with_reducible refine EngM.quiet_bind ?_ fun _ => ?_
    | with_reducible refine EngM.quiet_ite ?_ ?_
    | split
    | dsimp only

theorem EngM.quiet_gteGatherWork (w : Who) (d0 : Desc) (o : Opnd) :
    EngM.Quiet (gteGatherWork w d0 o) := by
  unfold gteGatherWork
  repeat' first
    | with_reducible exact EngM.quiet_pure _
    | with_reducible exact EngM.quiet_eread _ _ _
    | with_reducible exact EngM.quiet_ewrite _ _ _
    | with_reducible refine EngM.quiet_bind ?_ fun _ => ?_
    | with_reducible refine EngM.quiet_mapM (fun _ => ?_) _
    | with_reducible refine EngM.quiet_ite ?_ ?_
    | split
    | dsimp only

theorem EngM.quiet_decodeWork (w : Who) (d0 : Desc) (o : Opnd) :
    EngM.Quiet (decodeWork w d0 o) := by
  unfold decodeWork
  repeat' first
    | with_reducible exact EngM.quiet_pure _
    | with_reducible exact EngM.quiet_efault _ _
    | with_reducible exact EngM.quiet_ewrite _ _ _
    | with_reducible exact EngM.quiet_ehdr _ _ _
    | with_reducible exact EngM.quiet_escale _ _ _
    | with_reducible exact EngM.quiet_erow _ _ _
    | with_reducible refine EngM.quiet_bind ?_ fun _ => ?_
    | with_reducible refine EngM.quiet_forM (fun _ => ?_) _
    | with_reducible refine EngM.quiet_ite ?_ ?_
    | split
    | dsimp only

theorem EngM.quiet_exciteCheck (period : Nat) (w : Who) (o : Opnd) :
    EngM.Quiet (exciteCheck period w o) := by
  unfold exciteCheck
  repeat' first
    | with_reducible exact EngM.quiet_pure _
    | with_reducible exact EngM.quiet_efault _ _
    | with_reducible exact EngM.quiet_eread _ _ _
    | with_reducible refine EngM.quiet_bind ?_ fun _ => ?_
    | with_reducible refine EngM.quiet_ite ?_ ?_
    | split
    | dsimp only

theorem EngM.quiet_zleStop (w : Who) (d0 : Desc) (d1 : Opnd) :
    EngM.Quiet (zleStop w d0 d1) := by
  unfold zleStop
  repeat' first
    | with_reducible exact EngM.quiet_pure _
    | with_reducible refine EngM.quiet_update (fun _ => Calm.steady ⟨rfl, rfl⟩) fun _ => ?_
    | with_reducible refine EngM.quiet_bind EngM.quiet_get fun _ => ?_
    | with_reducible refine EngM.quiet_bind ?_ fun _ => ?_
    | with_reducible refine EngM.quiet_ite ?_ ?_
    | split
    | dsimp only

theorem EngM.quiet_demodWork (w : Who) (d0 : Desc) (o : Opnd) :
    EngM.Quiet (demodWork w d0 o) := by
  unfold demodWork
  repeat' first
    | with_reducible exact EngM.quiet_pure _
    | with_reducible exact EngM.quiet_efault _ _
    | with_reducible exact EngM.quiet_eread _ _ _
    | with_reducible refine EngM.quiet_update (fun _ => Calm.steady ⟨rfl, rfl⟩) fun _ => ?_
    | with_reducible refine EngM.quiet_bind EngM.quiet_get fun _ => ?_
    | with_reducible refine EngM.quiet_bind ?_ fun _ => ?_
    | with_reducible refine EngM.quiet_ite ?_ ?_
    | split
    | dsimp only

theorem EngM.quiet_zleRead (w : Who) (d0 : Desc) (o : Opnd) :
    EngM.Quiet (zleRead w d0 o) := by
  unfold zleRead
  repeat' first
    | with_reducible exact EngM.quiet_pure _
    | with_reducible exact EngM.quiet_efault _ _
    | with_reducible exact EngM.quiet_ewrite _ _ _
    | with_reducible refine EngM.quiet_update (fun _ => Calm.steady ⟨rfl, rfl⟩) fun _ => ?_
    | with_reducible refine EngM.quiet_bind EngM.quiet_get fun _ => ?_
    | with_reducible refine EngM.quiet_bind ?_ fun _ => ?_
    | with_reducible refine EngM.quiet_ite ?_ ?_
    | split
    | dsimp only

theorem EngM.quiet_zleClear (w : Who) (d0 : Desc) (d1 : Opnd) :
    EngM.Quiet (zleClear w d0 d1) := by
  unfold zleClear
  repeat' first
    | with_reducible exact EngM.quiet_pure _
    | with_reducible refine EngM.quiet_update (fun _ => Calm.steady ⟨rfl, rfl⟩) fun _ => ?_
    | with_reducible refine EngM.quiet_bind EngM.quiet_get fun _ => ?_
    | with_reducible refine EngM.quiet_bind ?_ fun _ => ?_
    | with_reducible refine EngM.quiet_ite ?_ ?_
    | split
    | dsimp only

end Sys2Proof.Machine
end

