-- ==== Sys2Proof/WellFormed.lean ====
section
/-! DEFINITION. Which commands the block can be given: every operand names something the spec gives it. The meanings are total and take
an operand out of range as naming nothing. -/
namespace Sys2Proof

/-- An initiator's port (Table 08-3). -/
def portOk (port : Nat) : Bool := decide (port < 49)

/-- One of `n` like things. -/
def below (n k : Nat) : Bool := decide (k < n)

/-- An engine from `lo` up to but not including `hi` (Table 02-3). -/
def engIn (lo hi e : Nat) : Bool := decide (lo ≤ e ∧ e < hi)

/-- A device ID (R510). -/
def idOk (id : Nat) : Bool := decide (id < 1024)

/-- A list of bytes of a given length. -/
def lenIs (n : Nat) (d : List Byte) : Bool := decide (d.length = n)

/-- An access of 1 to 256 bytes, whose written bytes are as many as its length says, from a port of Table 08-3 in a class A to C. -/
def accessOk (x : Access) : Bool :=
  portOk x.port && decide (x.cls < 3) && decide (x.addr < 2 ^ 32) && decide (1 ≤ x.len) && idOk x.srcId &&
    match x.kind with
    | .read | .loadReserved => x.data.isEmpty
    | .write => decide (x.data.length = x.len)
    | .amo _ | .storeConditional => decide (x.len = 4 ∧ x.data.length = 4)

/-- The operands of a command name what the spec gives the block. -/
def Instr.wf : Instr → Bool
  | .registerWrite port addr size _ => portOk port && decide (addr < 2 ^ 32) && decide (size = 1 ∨ size = 2 ∨ size = 4)
  | .powerOnReset | .stackSupplyFall | .externalReset | .resetNRelease | .glitch | .coreRailsInRange _ | .xtal25Stable
  | .syspllLock _ _ | .fiPhaseC _ | .imageLoaded _ _ _ _ _ | .handoverRecord | .belfryReady | .firstStepStart _ | .belrcWindow _
  | .xtal25Loss | .syspllLockLoss | .xtal32kFail | .xtal32kReturn | .belWdtExpiry | .lockstepMismatch | .belSupplyFault => true
  | .stwWdtExpiry core => below 4 core
  | .locketLateArrival tap => below 20 tap
  | .engineUsable e | .engIdlePowerOff e | .doorbellProcess e | .descriptorStart e | .descriptorComplete e | .graceExpiry e
  | .runmaxExpiry e => below 36 e
  | .grpIdleRetention g | .groupRetentionExit g | .groupZeroFillDone g => below 8 g
  | .pwrGrpWrite port _ | .pwrSdWrite port _ | .pwrLinkWrite port _ | .clkAdcWrite port _ | .modeReqWatch port _ | .modeReqRun port
  | .sfeTdacWrite port _ | .calCommand port _ | .engFlush port _ | .eqEnable port _ | .ethMdio port _ | .ptmStep port _
  | .ptmNsLoRead port | .i3cCmd port _ | .otpProgram port | .otpLock port | .secRevoke port _ | .secKclr port _ | .logWrite port _
  | .capture port | .dumpReqRelease port | .dumpReqRetained port | .dumpReqNvmNewer port | .dumpReqNvmOlder port
  | .dumpReqCapture port | .dmpReqAck port _ | .xspiRead port | .xspiProgram port | .erase4k port | .erase64k port
  | .qsupLoRead port _ => portOk port
  | .pwrEngWrite port k _ => portOk port && below 3 k
  | .scanTimerExpiry | .scanOverrun | .wakeInEvent | .refaSettled | .refaFault | .refbSettled | .tdacHold | .tdacRelease
  | .balPeriodStart | .balHalfPeriod | .balConditionLoss | .d2dFrameSend => true
  | .lpcSample n level => below 4 n && below 4096 level
  | .balChannelOff k => below 20 k
  | .balDutyWrite port k _ => portOk port && below 20 k
  | .d2dFrameReceive _ | .checkFrameReceive _ => true
  | .beadCommit port n bank i _ => portOk port && below 2 n && below 3 bank && below (if bank = 2 then 16 else 128) i
  | .checkBeadStore i _ _ => below 32 i
  | .seqRunStart port n _ | .seqRunStop port n _ | .seqSwap port n _ | .seqClrcnt port n _ | .seqSwtrig port n _
  | .evtLoRead port n => portOk port && below 2 n
  | .seqTimerTick k => below 4 k
  | .pwmsyncEdge _ => true
  | .pwmStartEvent n src => below 2 n && below 8 src
  | .settleEnd n | .sampleWordOut n _ | .beadRunEnd n _ | .pendantLaunch n | .pendantEnd n => below 2 n
  | .pendantTrigger n t => below 2 n && below 25 t
  | .calStart | .calConv _ | .calIlv01 _ | .calIlv23 _ | .calZeroA _ | .calZeroB _ | .calEnd | .adc4Cal _ | .checkListRun
  | .ringEntryWrite | .scrubRead _ => true
  | .ringEnable port n _ => portOk port && below 16 n
  | .filterEnable port p _ => portOk port && below 8 p
  | .filterOutput p => below 8 p
  | .windowEnable port k o _ => portOk port && below 16 k && decide (o % 4 = 0) && below 16 o
  | .fabricAccess x => accessOk x
  | .bankGrant b reqs => below 16 b && reqs.all fun r => portOk r.1 && below 3 r.2.1
  | .partAttrWrite port r which _ => portOk port && below 16 r && below 5 which
  | .doorbell port e _ => portOk port && below 36 e
  | .timeWindowOpen n | .timeWindowClose n => below 32 n
  | .engEvtWrite port k _ => portOk port && below 32 k
  | .gruStep e | .lstmStep e | .ssmStep e | .conv1dStep e | .nlApply e => engIn 0 8 e
  | .gemm e | .gemmAcc e => engIn 8 12 e
  | .matmul e | .chol e | .trisolve e | .covPredict e | .ekfUpdate e | .ukfSigma e | .ecmEval e | .coulomb e => engIn 12 16 e
  | .excite e | .zleStop e | .demod e | .zleRead e | .zleClear e => engIn 16 18 e
  | .fft e | .ifft e | .stft e | .istftOla e | .spePower e => engIn 18 20 e
  | .fir e | .biquad e | .fxlmsUpdate e => engIn 20 22 e
  | .bptt e | .optStep e => engIn 22 24 e
  | .compress e | .decompress e => engIn 24 26 e
  | .copy e | .fill e | .dmeGather e | .scatter e | .fetchAdd e => engIn 26 30 e
  | .gcmEnc e | .gcmDec e | .sha256 e | .ecdsaVerify e => engIn 30 32 e
  | .diff e | .stridedDiff e | .reduce e | .band e => engIn 32 34 e
  | .interp1 e | .interp2 e | .gteGather e | .decode e => engIn 34 36 e
  | .stepBoundary _ | .managerCandidate _ _ | .enumeration _ _ _ | .mirrorCompare _ | .epochEnd _ | .linkKeySweep _ => true
  | .inputVectorReceive owner _ _ _ => idOk owner
  | .locketCapture _ => true
  | .linkTrain p peerMask lanes peerId _ => below 4 p && below 8 peerMask && below 5 lanes && idOk peerId
  | .hlRetrain port p _ | .linkKeyStart port p | .linkKeyInstall port p => portOk port && below 4 p
  | .trainingFallback p _ | .linkUp p | .linkFailedRetry p | .linkResume p | .linkFail p _ | .packetReceive p _ _ | .packetSend p
  | .ackTimer p | .replayTimeout p => below 4 p
  | .ack p w | .nak p w | .credit p w => below 4 p && lenIs 8 w
  | .rd | .wr | .fadd | .pwr | .resp | .enumRd | .enumWr | .enumResp | .tsync | .tsyncSend | .transactionTimeout
  | .transactionComplete | .tagReturn | .dedupExpiry | .requestAcceptOpen _ | .eqSend | .eqEntryTimeout | .heartbeatTick
  | .discoveryWindowExpiry | .managerLost => true
  | .mbSendWr port q _ | .mbSendPwr port q _ => portOk port && below 4 q
  | .heartbeat src | .prepare src | .prepared src | .commit src | .schedule src | .delegate src _ | .delegateAck src | .newPeer src
  | .locketReq src | .locketSent src _ _ | .refresh src _ | .resetCmd src => idOk src
  | .resultBatchAccept id | .batchMissingRead id _ _ => idOk id
  | .delegation _ target _ _ _ _ => idOk target
  | .canModeWrite port n _ | .canSafeGo port n _ => portOk port && below 2 n
  | .canFrameReceive n _ | .canFrameTransmit n _ | .canBusOff n | .canBusOffRecovery n => below 2 n
  | .ethFrameReceive frame _ | .t1sFrameReceive frame _ => decide (14 ≤ frame.length)
  | .ethFrameTransmit | .t1sFrameTransmit _ => true
  | .tdmFsync t | .clkLost t => below 2 t
  | .tdmFrameReceived t slots => below 2 t && decide (slots.length ≤ 16)
  | .tdmFcntRead port t => portOk port && below 2 t
  | .i3cCmdDone _ data => decide (data.length ≤ 32)
  | .i3cTimeout | .streamBlockSend | .handoffPoll _ _ | .restAnchor | .consentChange | .faultMessageRepeat | .selftestSlice _
  | .secChal | .dumpDone | .dumpSave | .xspiCmdComplete _ | .checkFrameSend | .adc4WordOut _ | .handoverNotStaged
  | .refbCalTimeout | .otpProgramDone => true
  | .sinkBlockStart n _ => decide (n < 2 ^ 48)
  | .d2dFrozen link | .d2dUnfrozen link => below 2 link
  | .markingEnd code => decide (1 ≤ code ∧ code < 32)
  | .secToken token => decide (1 ≤ token.length)
  | .ethMdioDone data => decide (data < 65536)
  | .sgmiiLinkStatus _ speed => below 3 speed

end Sys2Proof
end

