-- ==== Sys2Proof/Tests/Slice0.lean ====
section
/-! SUPPORT. The witnesses of the statements (each theorem gives, for every clause of its statement, a state and operands that meet the
clause's hypotheses together, at boundary values where a range has one), the well-formedness smoke tests, and small tests of single
commands against the spec. -/
open Sys2Proof Sys2Proof.Machine

set_option maxRecDepth 100000
set_option linter.unusedVariables false
set_option Elab.async false

/-- A firmware configuration of a worker with one series of cells, everything at places of its own. -/
def conf0 : SysConf :=
  { ctxBase := 0x100000, inbox := 0x80000, retBase := 0x90000, locketIn := 0xA0000, collect := 0xB0000, epochBase := 0x200000
    vecIn := 0x300000, sumIn := 0x340000, work := 0x350000, epochMs := 1000, reserve := 0, models := [], chems := [], series := []
    defChem := 0, defSeries := 6, shunt := 0, aux := [], span := [], hoBase := 0x360000, hoSlots := 16, srcPath := 0, srcAxes := [0]
    srcNf := 4, srcFrameNs := 1000000, sinkId := 0, sinkBase := 0x370000, sinkFrom := [1], sinkNf := 4, sinkNax := 1
    sinkFrameNs := 1000000, sinkTdm := 0, sinkDepth := 2 }

/-- A chip in Run with every domain, group and engine up, past its three start-up phases, firmware running, Belfry READY, the partition
locked with one region open to every port. -/
def awake : Chip :=
  let c := Chip.reset.setReg 0x40000034 0xFFFFFFFF
  let c := c.setReg 0x40000038 0xFFFFFFFF
  let c := c.setReg 0x40070004 0x2A
  let c := c.setReg 0x40070000 1
  let c := (((c.setReg 0x40020800 1).setReg 0x40020904 0xFFFFFFC0).setReg 0x40020908 0xFFFFFFFF).setReg 0x4002090C 0x1FFFF
  let c := c.setReg 0x40020910 13
  { c with power.mode := .run, power.rails := true, power.grpHold := false, power.grp := List.replicate 8 .awake
           boot.rom := .done, fw.conf := some conf0
           eng := List.replicate 36 ⟨.up, [], [], none, false, 0⟩ }

/-- A state with that chip, blank stores and an empty queue. -/
def on (c : Chip) : State := { State.reset with chip := c }

/-- A descriptor: OPCODE, CLASS, FLAGS, COMPL, COST and the operand area. -/
def dscr (op cls flags compl cost : Nat) (area : List Byte) : List Byte :=
  leBytes 1 op ++ leBytes 1 cls ++ leBytes 2 flags ++ List.replicate 8 0 ++ leBytes 4 compl ++ List.replicate 8 0 ++ leBytes 2 cost ++
    List.replicate 6 0 ++ area

/-- An operand area of A, B, D, N0, P0 and P1. -/
def area (a b d n0 p0 p1 : Nat) : List Byte :=
  leBytes 4 a ++ leBytes 4 b ++ leBytes 4 0 ++ leBytes 4 d ++ leBytes 2 n0 ++ List.replicate 6 0 ++ leBytes 4 p0 ++ leBytes 4 p1

/-- Bytes of the NVM from an address up. -/
def cells (a : Nat) (bs : List Byte) : List Host.Cell := bs.zipIdx.map fun x => (a + x.2, x.1)

/-- The header of an empty section, and its manifest entry. -/
def secHdr (typ flags idx target : Nat) : List Byte :=
  let h := leBytes 4 0x54434553 ++ leBytes 1 typ ++ leBytes 1 flags ++ leBytes 2 idx ++ leBytes 4 0 ++ leBytes 4 target ++ leBytes 4 32 ++
    leBytes 8 0
  h ++ leBytes 4 (crc32 h)
def secEntry (typ flags idx off target : Nat) : List Byte :=
  leBytes 1 typ ++ leBytes 1 flags ++ leBytes 2 idx ++ leBytes 4 off ++ leBytes 4 0 ++ leBytes 4 target ++
    sha256 (secHdr typ flags idx target) ++ List.replicate 16 0

/-- The smallest image: the four mandatory sections of Table 04-7, each empty, behind a verified manifest in slot 0. -/
def smallImage : List Host.Cell :=
  cells 0 (leBytes 6 0 ++ leBytes 2 4 ++ leBytes 8 0 ++ leBytes 4 256 ++ leBytes 4 384) ++
  cells 384 (secEntry 1 0 0 1024 0 ++ secEntry 2 2 1 1088 64 ++ secEntry 6 0 2 1152 0 ++ secEntry 9 0 3 1216 128) ++
  cells 1024 (secHdr 1 0 0 0) ++ cells 1088 (secHdr 2 2 1 64) ++ cells 1152 (secHdr 6 0 2 0) ++ cells 1216 (secHdr 9 0 3 128)

/-- A tray tag of twelve series groups of four cells. -/
def tagBytes : List Byte :=
  let b := leBytes 4 0x47544D4C ++ leBytes 2 1 ++ [12, 4] ++ List.replicate 16 1 ++ List.replicate 228 0
  b ++ leBytes 4 (crc32 b)

/-- A context made live: its KIND, its OWNER and its INIT_CASE. -/
def withCtx (k : SysConf) (slot kind owner init : Nat) (c : Chip) : Chip :=
  let a := ctxAt k slot
  ((((c.pokeLe a 4 0x58544E43).pokeLe (a + 4) 1 1).pokeLe (a + 5) 1 kind).pokeLe (a + 8) 2 owner).pokeLe (a + 11) 1 init

/-- Port 3 up and keyed, and the way to every device named goes through it; this device's ID is 7. -/
def linked (ds : List Nat) (c : Chip) : Chip :=
  let c := ((c.setFld (hlStat 3) 0 3 2).setBit (hlStat 3) 5 true).setReg 0x40040004 0x80000007
  ds.foldl (fun c d => c.setReg (0x40041000 + 4 * d) 0x73) c

/-- A message of Table 15-1 in the inbox slot of its sender. -/
def inboxMsg (k : SysConf) (src type term seq : Nat) (body : List Byte) (c : Chip) : Chip :=
  c.pokeN (k.inbox + 64 * src) (leBytes 1 type ++ leBytes 1 1 ++ leBytes 2 src ++ leBytes 4 seq ++ leBytes 4 term ++ leBytes 4 0 ++ body)
def inboxBytes (src type term seq : Nat) (body : List Byte) : List Byte :=
  padTo 64 (leBytes 1 type ++ leBytes 1 1 ++ leBytes 2 src ++ leBytes 4 seq ++ leBytes 4 term ++ leBytes 4 0 ++ body)

/-- A discovery record of a manager: ROLE, MGR_STATE and DEV_SERIAL. -/
def seenMgr (role state serial : Nat) : Seen :=
  let b := leBytes 4 0x43534944 ++ leBytes 1 (role + 16 * state) ++ leBytes 3 0 ++ leBytes 8 serial ++ List.replicate 44 0
  ⟨b ++ leBytes 4 (crc32 b), []⟩

/-- An empty result batch. -/
def batch (id seq : Nat) : List Byte :=
  let h := leBytes 4 0x48544142 ++ leBytes 2 id ++ leBytes 2 0 ++ leBytes 4 seq ++ List.replicate 16 0
  h ++ leBytes 4 (crc32 h)

/-- An interface ring: enabled, of `2 ^ k` slots of `16 * sz` bytes from `base` up, at WR and RD. -/
def withRing (r base k sz wr rd : Nat) (c : Chip) : Chip :=
  (((c.setReg r (BitVec.ofNat 32 base)).setReg (r + 4) (BitVec.ofNat 32 (1 + 2 * k + 256 * sz))).setReg (r + 8) (BitVec.ofNat 32 wr)).setReg
    (r + 12) (BitVec.ofNat 32 rd)

/-- A header of Table 16-1 and so many bytes behind it. -/
def entryOf (id fmt filt len stamp ctl n : Nat) : List Byte :=
  leBytes 4 id ++ leBytes 1 fmt ++ leBytes 1 filt ++ leBytes 2 len ++ leBytes 4 stamp ++ leBytes 4 ctl ++ List.replicate n 7


/-- Both OTP copies with every root slot programmed, slot 0 for a key, and with a LIFECYCLE. -/
def fused (key : List Byte) (life : Byte) (s : State) : State :=
  let o : OtpCopy := { blankOtp with root := [sha256 key, List.replicate 32 0, List.replicate 32 0], rootState := 7, lifecycle := life }
  { s with otpA := o, otpB := o }

/-- Where a step leads. -/
def after (s : State) : State := match step s with
  | .next t => t
  | _ => s

/-- The parts of a Belfry program (Tables 18-3 to 18-6): five checks, one chemistry, a check list of seven beads. -/
def progHead : List Byte :=
  leBytes 4 0x504C4542 ++ leBytes 2 1 ++ leBytes 2 5 ++ leBytes 8 9 ++ leBytes 4 0 ++ leBytes 4 0x20000 ++ leBytes 2 8 ++ [6, 1] ++
  leBytes 4 0x3F800000 ++ leBytes 4 0x3F800000 ++ leBytes 4 0x42700000 ++ leBytes 12 0 ++ leBytes 4 0x3C23D70A ++ leBytes 4 0 ++
  leBytes 4 0x3F800000 ++ leBytes 8 0
def progList : List Byte :=
  ((List.range 6).flatMap fun k => leBytes 8 k) ++ leBytes 8 (0x14 + 2 ^ 51) ++ List.replicate 200 0
def progCheck (kind onFail q lo hi p0 : Nat) : List Byte :=
  leBytes 1 kind ++ leBytes 1 onFail ++ leBytes 1 q ++ leBytes 5 0 ++ leBytes 4 lo ++ leBytes 4 hi ++ leBytes 4 p0 ++ leBytes 12 0
def progBody : List Byte :=
  progHead ++ progList ++ progCheck 5 0 0 0 0 0 ++ progCheck 6 0 0 0 0 0 ++ progCheck 2 2 0 0 0 0 ++
  progCheck 3 0 0 0x3E000000 0x3F000000 0 ++ progCheck 4 2 3 0 0 1 ++
  leBytes 4 7 ++ leBytes 4 0x3F800000 ++ leBytes 4 0x3F800000 ++ leBytes 4 0 ++
  ((List.range 128).flatMap fun i => leBytes 4 (0x3F800000 + i))

/-- A 256-bit number, big-endian. -/
def be32 (n : Nat) : List Byte := (leBytes 32 n).reverse
/-- The key whose private part is 1, and its signature of a digest with the nonce 1. -/
def key1 : List Byte := be32 p256G.1 ++ be32 p256G.2
def sign1 (digest : List Byte) : List Byte := be32 p256G.1 ++ be32 ((beNat digest + p256G.1) % p256N)

/-- The program with a key and a signature `(r, s)` that it verifies under: `r` and `s` are its digest, so the sum verified is the
generator plus the key. -/
def progKey : List Byte :=
  be32 0x8b07426a877995def155517a1b9c440f9d0079f02543ff9cd348382746b094f0 ++
  be32 0xcfef71df48d2b1a83d932a3ab071768f62c71fe16532b0ce7a885622656cb07b
def sampleProgram : List Byte := let e := sha256 progBody; progBody ++ progKey ++ e ++ e

/-- A debug token of Table 20-5 for device 0 and challenge 0. -/
def sampleToken : List Byte :=
  let b := leBytes 4 0x4B544244 ++ leBytes 2 1 ++ leBytes 2 7 ++ List.replicate 32 0 ++ key1
  b ++ sign1 (sha256 b)

/-- A hand-over record. -/
def handed (a len : Nat) (c : Chip) : Chip := c.pokeN 0x3003FFC0 (leBytes 4 0x4F564448 ++ leBytes 4 a ++ leBytes 4 len ++ List.replicate 52 0)

/-- Series position 19 hosted in a context, and a Locket of a zero context staged for it. -/
def lockets : List Host.Cell :=
  [(733184, 76), (733185, 67), (733186, 75), (733187, 84), (733188, 1), (733190, 160), (733244, 151), (733245, 209), (733246, 87),
   (733247, 204), (733248, 197), (733249, 5), (733251, 6), (733253, 4), (733256, 160), (733260, 16), (1087488, 67),
   (1087489, 78), (1087490, 84), (1087491, 88), (1087492, 1), (1087496, 19), (1087499, 2)]

/-- Where region 0 opens all of shared SRAM to a port and every group is powered, every access that stays in it is open. -/
theorem gate_open (c : Chip) (port cls a n : Nat) (wr : Bool) (hn : 0 < n) (ha : a + n ≤ 0x800000)
    (hl : bit (c.reg 0x40020800) 0 = true) (hv : bit (c.partReg 0 4) 0 = true) (hb : (c.partReg 0 0).toNat / 64 = 0)
    (ht : 0x800000 / 64 ≤ (c.partReg 0 1).toNat / 64 + 1)
    (hm : (c.inMask 0 port && (!wr || (bit (c.partReg 0 4) 3 && decide (cls ≤ fld (c.partReg 0 4) 1 2)))) = true)
    (hg : ∀ g < 8, nth c.power.grp g .off ≠ .off) : c.gate port cls a n wr = .open := by
  have hline : ∀ l ∈ linesOf a n, l < 0x800000 := by
    intro l h; simp only [linesOf, List.mem_map, List.mem_range] at h
    obtain ⟨i, hi, rfl⟩ := h; omega
  have hreg : ∀ l, l < 0x800000 → c.regionOf l = some 0 := by
    intro l h
    have : canon l = l := by simp [canon]; omega
    simp only [Chip.regionOf, this]
    rw [show List.range 16 = 0 :: (List.range 15).map (· + 1) by decide, List.find?_cons_of_pos]
    simp only [hv, hb, Bool.true_and, Bool.and_eq_true, decide_eq_true_eq]; omega
  have hne : ∀ l, l < 0x800000 → c.lineRefused port cls l wr = none := by
    intro l h; simp [Chip.lineRefused, hl, hreg l h, hm]
  have hs : (linesOf a n).findSome? (fun l => (c.lineRefused port cls l wr).map fun r => (r, l)) = none := by
    rw [List.findSome?_eq_none_iff]; intro l h; rw [hne l (hline l h)]; rfl
  have hgo : ((linesOf a n).any fun l => decide (nth c.power.grp (grpOf l) .off = GrpState.off)) = false := by
    rw [List.any_eq_false]; intro l _; simpa using hg _ (by unfold grpOf; omega)
  have harea : inArea a n = true := by
    have : a < 0x800000 := by omega
    simp [inArea, areaOf, this]; omega
  have h4 : ¬ 0x40000000 ≤ a := by omega
  have hbel : belfryOnly a n wr = false := by simp [belfryOnly]; omega
  simp only [Chip.gate, harea, isReg, h4, hbel, hs, hgo]
  simp; omega

/-- That program handed to a Belfry that awaits one. -/
def handedState : State :=
  fused progKey 0 (on (((awake.setFld 0x40070000 0 3 0) |> handed 0x10000 1144).pokeN 0x10000 sampleProgram))
theorem handed_read : handedState.chip.peekN 0x10000 1144 = sampleProgram :=
  Chip.peekN_pokeN _ 0x10000 sampleProgram (by decide +kernel)
theorem handed_at : handedState.chip.handoverAt = some (0x10000, 1144) := by
  have hl : sampleProgram.length = 1144 := by decide +kernel
  have h : handedState.chip.peekN 0x3003FFC0 64 = (awake |> handed 0x10000 1144).peekN 0x3003FFC0 64 :=
    Chip.peekN_pokeN_other _ _ _ _ _ (by intro j hj i hi; rw [hl] at hi; unfold canon; rw [if_neg (by omega), if_neg (by omega)]; omega)
  unfold Chip.handoverAt; rw [h]; decide +kernel
theorem program_digest : sha256 progBody =
    be32 24357505599180066988071103730785568816306123474283095576480857007496706210429 := by decide +kernel
theorem sampleProgram_eq : sampleProgram = progBody ++ (progKey ++ be32 24357505599180066988071103730785568816306123474283095576480857007496706210429 ++
    be32 24357505599180066988071103730785568816306123474283095576480857007496706210429) := by
  simp only [sampleProgram, program_digest, List.append_assoc]
theorem program_signed : ecdsaOk (sha256 (sampleProgram.take (1144 - 128))) (slice sampleProgram (1144 - 128) 64)
    (slice sampleProgram (1144 - 64) 64) = true := by
  have hl : progBody.length = 1144 - 128 := by decide +kernel
  have : sampleProgram.take (1144 - 128) = progBody := by rw [← hl]; simp [sampleProgram, List.append_assoc]
  rw [this, program_digest, sampleProgram_eq]; decide +kernel
theorem program_accepted : programBad sampleProgram 1144 = false ∧ chkListBad sampleProgram = false := by
  rw [sampleProgram_eq]; decide +kernel

/-- A chip that loads that image. -/
def imageState : State := { on { awake with boot.rom := .loading } with nvm := smallImage }
theorem image_loads : (imageState.imageLoad []).1 = true ∧ (imageState.imageLoad []).2.chip.ecc = [] := by decide +kernel

theorem witness_IdleStepPassesOneClock :
    (∃ (s : State), s.pending = []) :=
  ⟨on awake, by decide +kernel⟩

theorem witness_PowerOnAndExternalResetsFollowTheirTable :
    (∃ (s : State) (a : Nat), a ≠ 0x40060004 ∧ (¬ (0x40060010 ≤ a ∧ a < 0x400600A8))) ∧
    (∃ (s : State) (a : Nat), s.chip.power.supply = true ∧ canon a < 0x800000) ∧
    (∃ (s : State) (a : Nat), s.chip.power.supply = true ∧ 0x800000 ≤ canon a) ∧
    (∃ (s : State), s.chip.power.supply = true ∧ s.chip.power.mode ≠ .run) ∧
    (∃ (s : State), s.chip.power.supply = true ∧ s.chip.power.mode = .run) ∧
    (∃ (s : State), s.chip.power.inReset = true) :=
  ⟨⟨on awake, 0, by decide +kernel⟩,
   ⟨on (awake |> (fun c => { c with power.supply := true })), 0, by decide +kernel⟩,
   ⟨on (awake |> (fun c => { c with power.supply := true })), 0x30000000, by decide +kernel⟩,
   ⟨on (awake |> (fun c => { c with power.supply := true }) |> (fun c => { c with power.mode := .scan })), by decide +kernel⟩,
   ⟨on (awake |> (fun c => { c with power.supply := true }) |> (fun c => { c with power.mode := .run })), by decide +kernel⟩,
   ⟨on (awake |> (fun c => { c with power.inReset := true })), by decide +kernel⟩⟩

theorem witness_SafetyFailuresResetOrDarken :
    (∃ (core : Nat) (s : State), s.chip.dom 2 = true ∧ s.chip.bit 0x40090004 1 = false ∧ s.chip.power.inReset = false ∧ s.chip.power.mode
      ≠ .dark ∧ s.chip.power.mode ≠ .watch) ∧
    (∃ (s : State), (s.chip.power.mode = .run ∨ s.chip.power.mode = .scan ∨ s.chip.power.mode = .fenced) ∧ s.chip.power.rails = true ∧
      s.chip.power.inReset = false) ∧
    (∃ (s : State), s.chip.dom 1 = true ∧ s.chip.power.mode ≠ .dark ∧ s.chip.power.mode ≠ .watch) :=
  ⟨⟨0, on (awake |> (·.setBit (0x40090004) 1 false) |> (fun c => { c with power.inReset := false }) |> (fun c =>
     { c with power.mode := .run }) |> (fun c => { c with power.mode := .run })), by decide +kernel⟩,
   ⟨on (awake |> (fun c => { c with power.mode := .run }) |> (fun c => { c with power.rails := true }) |> (fun c =>
     { c with power.inReset := false })), by decide +kernel⟩,
   ⟨on (awake |> (fun c => { c with power.mode := .run }) |> (fun c => { c with power.mode := .run })), by decide +kernel⟩⟩

theorem witness_StartMilestonesAndClockMonitors :
    (∃ (phaseA : Bool) (s : State), s.chip.pins.enCore = true ∧ s.chip.power.rails = false ∧ s.chip.power.inReset = false ∧
      s.chip.power.supply = true ∧ s.chip.power.kind = .cold ∧ phaseA = true) ∧
    (∃ (phaseA : Bool) (s : State), s.chip.pins.enCore = true ∧ s.chip.power.rails = false ∧ s.chip.power.inReset = false ∧
      s.chip.power.supply = true ∧ s.chip.power.kind = .cold ∧ phaseA = false) ∧
    (∃ (phaseA : Bool) (s : State), s.chip.pins.enCore = true ∧ s.chip.power.rails = false ∧ s.chip.power.inReset = false ∧
      s.chip.power.supply = true ∧ s.chip.power.kind ≠ .cold) ∧
    (∃ (s : State), s.chip.power.rails = true) ∧
    (∃ (profile1 : Bool) (s : State), s.chip.bit 0x40000100 0 = true ∧ s.chip.bit 0x40000100 1 = false ∧ s.chip.power.rails = true ∧
      s.chip.boot.rom = .held ∧ s.chip.power.mode ≠ .fenced ∧ s.chip.dbgSession = false ∧ (s.chip.power.kind = .cold → fld (s.chip.reg
      0x40070004) 0 2 = 2) ∧ s.chip.power.kind = .cold) ∧
    (∃ (phaseC : Bool) (s : State), s.chip.dom 1 = true ∧ fld (s.chip.reg 0x40070004) 2 2 = 2 ∧ fld (s.chip.reg 0x40070004) 4 2 < 2 ∧ bit
      (s.chip.reg 0x40010000) 1 = true ∧ bit (s.chip.reg 0x40010000) 2 = true ∧ s.chip.power.mode = .start ∧ s.chip.saf = 0 ∧ phaseC =
      true) ∧
    (∃ (phaseC : Bool) (s : State), s.chip.dom 1 = true ∧ fld (s.chip.reg 0x40070004) 2 2 = 2 ∧ fld (s.chip.reg 0x40070004) 4 2 < 2 ∧ bit
      (s.chip.reg 0x40010000) 1 = true ∧ bit (s.chip.reg 0x40010000) 2 = true ∧ s.chip.power.mode = .start ∧ s.chip.saf = 0 ∧ phaseC =
      false) ∧
    (∃ (count : Nat) (s : State), s.chip.dom 1 = true ∧ s.chip.bit 0x40000100 0 = true ∧ 6161 ≤ count ∧ count ≤ 6946) ∧
    (∃ (count : Nat) (s : State), s.chip.dom 1 = true ∧ s.chip.bit 0x40000100 0 = true ∧ (count < 6161 ∨ 6946 < count) ∧ s.chip.power.mode
      ≠ .dark ∧ s.chip.power.mode ≠ .watch ∧ s.chip.power.belBad = 0) ∧
    (∃ (count : Nat) (s : State), s.chip.dom 1 = true ∧ s.chip.bit 0x40000100 0 = true ∧ (count < 6161 ∨ 6946 < count) ∧ s.chip.power.mode
      ≠ .dark ∧ s.chip.power.mode ≠ .watch ∧ 1 ≤ s.chip.power.belBad) ∧
    (∃ (s : State), s.chip.dom 1 = true ∧ s.chip.bit 0x40000100 0 = true ∧ (s.chip.power.mode = .start ∨ s.chip.power.mode = .run ∨
      s.chip.power.mode = .scan) ∧ s.chip.saf ≠ 3) ∧
    (∃ (s : State), s.chip.bit 0x40000100 1 = true ∧ (s.chip.power.mode = .start ∨ s.chip.power.mode = .run ∨ s.chip.power.mode = .scan) ∧
      s.chip.saf ≠ 3) ∧
    (∃ (s : State), s.chip.power.supply = true) :=
  ⟨⟨true, on (awake |> (fun c => { c with pins.enCore := true }) |> (fun c => { c with power.rails := false }) |> (fun c =>
     { c with power.inReset := false }) |> (fun c => { c with power.supply := true }) |> (fun c => { c with power.kind := .cold })),
     by decide +kernel⟩,
   ⟨false, on (awake |> (fun c => { c with pins.enCore := true }) |> (fun c => { c with power.rails := false }) |> (fun c =>
     { c with power.inReset := false }) |> (fun c => { c with power.supply := true }) |> (fun c => { c with power.kind := .cold })),
     by decide +kernel⟩,
   ⟨false, on (awake |> (fun c => { c with pins.enCore := true }) |> (fun c => { c with power.rails := false }) |> (fun c =>
     { c with power.inReset := false }) |> (fun c => { c with power.supply := true }) |> (fun c => { c with power.kind := .warm })),
     by decide +kernel⟩,
   ⟨on (awake |> (fun c => { c with power.rails := true })), by decide +kernel⟩,
   ⟨false, on (awake |> (·.setBit (0x40000100) 0 true) |> (·.setBit (0x40000100) 1 false) |> (fun c => { c with power.rails := true }) |>
     (fun c => { c with boot.rom := .held }) |> (fun c => { c with power.mode := .run }) |> (·.setFld (0x40070004) 0 2 2) |> (fun c =>
     { c with power.kind := .cold })), by decide +kernel⟩,
   ⟨true, on (awake |> (·.setFld (0x40070004) 2 2 2) |> (·.setFld (0x40070004) 4 2 (2 - 1)) |> (·.setBit (0x40010000) 1 true) |> (·.setBit
     (0x40010000) 2 true) |> (fun c => { c with power.mode := .start }) |> (·.setFld 0x40070000 0 3 0)), by decide +kernel⟩,
   ⟨false, on (awake |> (·.setFld (0x40070004) 2 2 2) |> (·.setFld (0x40070004) 4 2 (2 - 1)) |> (·.setBit (0x40010000) 1 true) |>
     (·.setBit (0x40010000) 2 true) |> (fun c => { c with power.mode := .start }) |> (·.setFld 0x40070000 0 3 0)), by decide +kernel⟩,
   ⟨6946, on (awake |> (·.setBit (0x40000100) 0 true)), by decide +kernel⟩,
   ⟨0, on (awake |> (·.setBit (0x40000100) 0 true) |> (fun c => { c with power.mode := .run }) |> (fun c => { c with power.mode := .run })
     |> (fun c => { c with power.belBad := 0 })), by decide +kernel⟩,
   ⟨0, on (awake |> (·.setBit (0x40000100) 0 true) |> (fun c => { c with power.mode := .run }) |> (fun c => { c with power.mode := .run })
     |> (fun c => { c with power.belBad := 1 })), by decide +kernel⟩,
   ⟨on (awake |> (·.setBit (0x40000100) 0 true) |> (fun c => { c with power.mode := .start }) |> (·.setFld 0x40070000 0 3 1)),
     by decide +kernel⟩,
   ⟨on (awake |> (·.setBit (0x40000100) 1 true) |> (fun c => { c with power.mode := .start }) |> (·.setFld 0x40070000 0 3 1)),
     by decide +kernel⟩,
   ⟨on (awake |> (fun c => { c with power.supply := true })), by decide +kernel⟩⟩

theorem witness_GroupsRetainWakeAndFill :
    (∃ (g : Nat) (s : State), g < 8 ∧ s.chip.power.grp.length = 8 ∧ nth s.chip.power.grp g .off = .awake ∧ s.chip.power.grpHold = false ∧
      s.chip.fld 0x40000024 (2 * g) 2 = 1) ∧
    (∃ (g : Nat) (x : Access) (s : State), g < 8 ∧ s.chip.power.grp.length = 8 ∧ nth s.chip.power.grp g .off = .retained ∧
      s.chip.power.grpHold = false ∧ s.chip.fld 0x40000024 (2 * g) 2 = 1 ∧ s.chip.stalled = [x] ∧ x.kind = .read ∧ x.addr < 0x800000 ∧
      x.addr + x.len ≤ 0x800000 ∧ 0 < x.len ∧ (∀ l ∈ linesOf x.addr x.len, grpOf l = g) ∧ s.chip.ecc = []) ∧
    (∃ (g : Nat) (s : State), g < 8 ∧ s.chip.power.grp.length = 8 ∧ nth s.chip.power.grp g .off = .filling ∧ s.chip.stalled = []) :=
  ⟨⟨7, on (awake |> (fun c => { c with power.grpHold := false }) |> (·.setFld (0x40000024) (2 * 7) 2 1)), by decide +kernel⟩,
   ⟨7, { port := 39, addr := 0x380, len := 4, kind := .read, data := [], upsets := [], cls := 0, srcId := 0 }, on (awake |> (fun c =>
     { c with power.grp := upd c.power.grp (7) fun _ => .retained }) |> (fun c => { c with power.grpHold := false }) |> (·.setFld
     (0x40000024) (2 * 7) 2 1) |> (fun c =>
     { c with stalled := [({ port := 39, addr := 0x380, len := 4, kind := .read, data := [], upsets := [], cls := 0, srcId := 0 })] }) |>
     (fun c => { c with ecc := [] })), by decide +kernel⟩,
   ⟨7, on (awake |> (fun c => { c with power.grp := upd c.power.grp (7) fun _ => .filling }) |> (fun c => { c with stalled := [] })),
     by decide +kernel⟩⟩

theorem witness_PowerStoresSwitchDomains :
    (∃ (port : Nat) (v : Word) (s : State), s.chip.canStore port 0x40000024 ∧ v.toNat < 65536 ∧ s.chip.power.grp.length = 8) ∧
    (∃ (port : Nat) (k : Nat) (e : Nat) (v : Word) (s : State), k < 3 ∧ 16 * k ≤ e ∧ e < 16 * k + 16 ∧ e < 36 ∧ s.chip.canStore port
      (0x40000018 + 4 * k) ∧ s.chip.eng.length = 36 ∧ (s.chip.engine e).run = none ∧ fld v (2 * (e - 16 * k)) 2 = 2) ∧
    (∃ (port : Nat) (k : Nat) (e : Nat) (v : Word) (s : State), k < 3 ∧ 16 * k ≤ e ∧ e < 16 * k + 16 ∧ e < 36 ∧ s.chip.canStore port
      (0x40000018 + 4 * k) ∧ s.chip.eng.length = 36 ∧ (s.chip.engine e).run = none ∧ fld v (2 * (e - 16 * k)) 2 = 1 ∧ (s.chip.engine e).pw
      = .off ∧ (∀ g ∈ s.chip.eng, g.queue = [])) ∧
    (∃ (port : Nat) (v : Word) (s : State), s.chip.canStore port 0x4000002C) ∧
    (∃ (port : Nat) (p : Nat) (v : Word) (s : State), s.chip.canStore port 0x40000028 ∧ v.toNat < 256 ∧ (∀ q < 4, fld v (2 * q) 2 ≠ 3) ∧ p
      < 4 ∧ s.chip.hl.ports.length = 4 ∧ fld v (2 * p) 2 = 2 ∧ s.chip.fld 0x40000028 (2 * p) 2 ≠ 2) ∧
    (∃ (port : Nat) (p : Nat) (v : Word) (s : State), s.chip.canStore port 0x40000028 ∧ v.toNat < 256 ∧ (∀ q < 4, fld v (2 * q) 2 ≠ 3) ∧ p
      < 4 ∧ s.chip.hl.ports.length = 4 ∧ fld v (2 * p) 2 = 0 ∧ s.chip.fld 0x40000028 (2 * p) 2 = 2 ∧ s.chip.hlState p = 0) :=
  ⟨⟨39, 0, on awake, by decide +kernel⟩,
   ⟨39, 2, 35, putFld (0) ((2 * (35 - 16 * 2))) 2 (2), on (awake |> (·.onEng 35 fun q => { q with run := none })), by decide +kernel⟩,
   ⟨39, 2, 35, putFld (0) ((2 * (35 - 16 * 2))) 2 (1), on (awake |> (·.onEng 35 fun q => { q with run := none }) |> (·.onEng 35 fun q =>
     { q with pw := .off })), by decide +kernel⟩,
   ⟨39, 0, on awake, by decide +kernel⟩,
   ⟨39, 3, putFld (0) ((2 * 3)) 2 (2), on (awake |> (·.setFld (0x40000028) (2 * 3) 2 (if 2 = 0 then 1 else 0))), by decide +kernel⟩,
   ⟨39, 3, putFld (0) ((2 * 3)) 2 (0), on (awake |> (·.setFld (0x40000028) (2 * 3) 2 2) |> (·.setFld (hlStat 3) 0 3 0)),
     by decide +kernel⟩⟩

theorem witness_BelfryFieldsIgnoreOtherInitiators :
    (∃ (port : Nat) (v : Word) (s : State), ((36 ≤ port ∧ port < 40) ∨ port = 47) ∧ s.chip.canStore port 0x4000002C ∧ fld v 3 3 ≠ fld
      (s.chip.reg 0x4000002C) 3 3) :=
  ⟨36, 8, on awake, by decide +kernel⟩

theorem witness_RunningPairKeepsItsDivider :
    (∃ (port : Nat) (v : Word) (s : State) (n : Nat), n < 2 ∧ s.chip.canStore port 0x40000104 ∧ (s.chip.seq n).phase ≠ .stopped ∧ fld v
      (16 * n) 10 ≠ fld (s.chip.reg 0x40000104) (16 * n) 10) ∧
    (∃ (port : Nat) (v : Word) (s : State), s.chip.canStore port 0x40000104 ∧ (s.chip.seq 0).phase = .stopped ∧ (s.chip.seq 1).phase =
      .stopped ∧ (∀ n < 2, 16 ≤ fld v (16 * n) 10 ∧ fld v (16 * n) 10 ≤ 640) ∧ fld v 10 6 = 0 ∧ fld v 26 6 = 0) :=
  ⟨⟨39, 0, on (awake |> (·.onSeq 1 fun q => { q with phase := .wait })), 1, by decide +kernel⟩,
   ⟨39, 0x2800010, on (awake |> (·.onSeq 0 fun q => { q with phase := .stopped }) |> (·.onSeq 1 fun q => { q with phase := .stopped })),
     by decide +kernel⟩⟩

theorem witness_ModeRequestsAreJudgedInOrder :
    (∃ (port : Nat) (hold : Bool) (s : State), s.chip.canStore port 0x40000000 ∧ s.chip.power.grp.length = 8) ∧
    (∃ (port : Nat) (s : State), s.chip.canStore port 0x40000000 ∧ s.chip.power.mode = .scan) ∧
    (∃ (port : Nat) (s : State), s.chip.canStore port 0x40000000 ∧ s.chip.power.mode ≠ .scan) :=
  ⟨⟨39, false, on awake, by decide +kernel⟩,
   ⟨39, on (awake |> (fun c => { c with power.mode := .scan })), by decide +kernel⟩,
   ⟨39, on (awake |> (fun c => { c with power.mode := .run })), by decide +kernel⟩⟩

theorem witness_WakesAndTheChargeReadFollowTheirRules :
    (∃ (t0 : Nat) (s : State), s.chip.power.scanAt = some t0 ∧ s.chip.power.mode = .watch ∧ s.chip.power.inReset = false ∧ s.chip.bit
      0x40000008 1 = true) ∧
    (∃ (s : State), s.chip.power.mode = .scan ∧ bit (s.chip.reg 0x40000004) 4 = false) ∧
    (∃ (s : State), s.chip.power.supply = true ∧ s.chip.power.inReset = false ∧ s.chip.power.mode = .dark) ∧
    (∃ (s : State), s.chip.power.supply = true ∧ s.chip.power.inReset = false ∧ s.chip.power.mode ≠ .dark ∧ s.chip.bit 0x40000008 0 =
      false) ∧
    (∃ (s : State), s.chip.power.supply = true ∧ s.chip.power.inReset = false ∧ s.chip.power.mode = .watch ∧ s.chip.bit 0x40000008 0 =
      true ∧ s.chip.power.qualWarm = true) ∧
    (∃ (s : State), s.chip.power.supply = true ∧ s.chip.power.inReset = false ∧ s.chip.power.mode = .watch ∧ s.chip.bit 0x40000008 0 =
      true ∧ s.chip.power.qualWarm = false) ∧
    (∃ (s : State), s.chip.power.supply = true ∧ s.chip.power.inReset = false ∧ s.chip.power.mode = .scan ∧ s.chip.power.scanWokeAt ≠
      s.chip.clocks.rtc ∧ s.chip.bit 0x40000008 0 = true) ∧
    (∃ (n : Nat) (level : Nat) (s : State), n < 4 ∧ s.chip.power.lpc.length = 4 ∧ s.chip.power.supply = true ∧ s.chip.power.inReset =
      false ∧ s.chip.power.mode = .run ∧ s.chip.bit (0x40000050 + 4 * n) 0 = true ∧ (if s.chip.bit (0x40000050 + 4 * n) 5 = true then
      decide (level < s.chip.fld (0x40000050 + 4 * n) 6 12) else decide (s.chip.fld (0x40000050 + 4 * n) 6 12 < level)) = false) ∧
    (∃ (n : Nat) (level : Nat) (s : State), n < 4 ∧ s.chip.power.lpc.length = 4 ∧ s.chip.power.supply = true ∧ s.chip.power.inReset =
      false ∧ s.chip.power.mode = .run ∧ s.chip.bit (0x40000050 + 4 * n) 0 = true ∧ (if s.chip.bit (0x40000050 + 4 * n) 5 = true then
      decide (level < s.chip.fld (0x40000050 + 4 * n) 6 12) else decide (s.chip.fld (0x40000050 + 4 * n) 6 12 < level)) = true ∧ (nth
      s.chip.power.lpc n default).beyond = true ∧ (nth s.chip.power.lpc n default).armed = true) ∧
    (∃ (n : Nat) (level : Nat) (s : State), n < 4 ∧ s.chip.power.lpc.length = 4 ∧ s.chip.power.supply = true ∧ s.chip.power.inReset =
      false ∧ s.chip.power.mode = .run ∧ s.chip.bit (0x40000050 + 4 * n) 0 = true ∧ ((if s.chip.bit (0x40000050 + 4 * n) 5 = true then
      decide (level < s.chip.fld (0x40000050 + 4 * n) 6 12) else decide (s.chip.fld (0x40000050 + 4 * n) 6 12 < level)) = false ∨ (nth
      s.chip.power.lpc n default).beyond = false ∨ (nth s.chip.power.lpc n default).armed = false)) ∧
    (∃ (port : Nat) (charge : Nat) (s : State), s.chip.canLoad port 0x40000040) :=
  ⟨⟨0, on (awake |> (fun c => { c with power.scanAt := some 0 }) |> (fun c => { c with power.mode := .watch }) |> (fun c =>
     { c with power.inReset := false }) |> (·.setBit (0x40000008) 1 true)), by decide +kernel⟩,
   ⟨on (awake |> (fun c => { c with power.mode := .scan }) |> (·.setBit (0x40000004) 4 false)), by decide +kernel⟩,
   ⟨on (awake |> (fun c => { c with power.supply := true }) |> (fun c => { c with power.inReset := false }) |> (fun c =>
     { c with power.mode := .dark })), by decide +kernel⟩,
   ⟨on (awake |> (fun c => { c with power.supply := true }) |> (fun c => { c with power.inReset := false }) |> (fun c =>
     { c with power.mode := .run }) |> (·.setBit (0x40000008) 0 false)), by decide +kernel⟩,
   ⟨on (awake |> (fun c => { c with power.supply := true }) |> (fun c => { c with power.inReset := false }) |> (fun c =>
     { c with power.mode := .watch }) |> (·.setBit (0x40000008) 0 true) |> (fun c => { c with power.qualWarm := true })),
     by decide +kernel⟩,
   ⟨on (awake |> (fun c => { c with power.supply := true }) |> (fun c => { c with power.inReset := false }) |> (fun c =>
     { c with power.mode := .watch }) |> (·.setBit (0x40000008) 0 true) |> (fun c => { c with power.qualWarm := false })),
     by decide +kernel⟩,
   ⟨on (awake |> (fun c => { c with power.supply := true }) |> (fun c => { c with power.inReset := false }) |> (fun c =>
     { c with power.mode := .scan }) |> (·.setBit (0x40000008) 0 true) |> (fun c => { c with power.scanWokeAt := 5 })), by decide +kernel⟩,
   ⟨3, 0, on (awake |> (fun c => { c with power.supply := true }) |> (fun c => { c with power.inReset := false }) |> (fun c =>
     { c with power.mode := .run }) |> (·.setBit ((0x40000050 + 4 * 3)) 0 true)), by decide +kernel⟩,
   ⟨3, 4095, on (awake |> (fun c => { c with power.supply := true }) |> (fun c => { c with power.inReset := false }) |> (fun c =>
     { c with power.mode := .run }) |> (·.setBit ((0x40000050 + 4 * 3)) 0 true) |> (fun c =>
     { c with power.lpc := List.replicate 4 ⟨true, true⟩ }) |> (·.setFld (0x4000005C) 6 12 4094) |> (·.setBit (0x4000005C) 5 false)),
     by decide +kernel⟩,
   ⟨3, 0, on (awake |> (fun c => { c with power.supply := true }) |> (fun c => { c with power.inReset := false }) |> (fun c =>
     { c with power.mode := .run }) |> (·.setBit ((0x40000050 + 4 * 3)) 0 true)), by decide +kernel⟩,
   ⟨39, 0, on awake, by decide +kernel⟩⟩

theorem witness_PairOffStopsItsSequencer :
    (∃ (port : Nat) (n : Nat) (v : Word) (s : State), n < 2 ∧ s.chip.canStore port 0x4000002C ∧ s.chip.sense.seqs.length = 2 ∧
      s.chip.pairUp n = true ∧ (s.chip.seq n).phase ≠ .stopped ∧ bit v n = false) :=
  ⟨39, 1, putFld (0) (1) 1 (0), on (awake |> (·.onSeq 1 fun q => { q with phase := .wait })), by decide +kernel⟩

theorem witness_ReferencesTestDacAndBalancingFollowTheirRules :
    (∃ (s : State), s.chip.dom 59 = true ∧ bit (s.chip.reg 0x40010000) 2 = true ∧ bit (s.chip.reg 0x40010000) 1 = false ∧ bit (s.chip.reg
      0x40070040) 10 = false) ∧
    (∃ (s : State), bit (s.chip.reg 0x40010000) 1 = true ∧ s.chip.saf = 1 ∧ s.chip.power.mode = .run ∧ s.chip.safe.hist = [] ∧
      s.chip.sense.cal.started = false) ∧
    (∃ (s : State), s.chip.dom 60 = true ∧ bit (s.chip.reg 0x40010000) 2 = false) ∧
    (∃ (port : Nat) (v : Word) (s : State), s.chip.canStore port 0x40010018 ∧ v.toNat < 8192 ∧ s.chip.sense.cal.started = false ∧ bit
      (s.chip.reg 0x40010000) 5 = false) ∧
    (∃ (port : Nat) (v : Word) (s : State), s.chip.canStore port 0x40010018 ∧ v.toNat < 8192 ∧ s.chip.sense.cal.started = false ∧ bit
      (s.chip.reg 0x40010000) 5 = true ∧ fld (s.chip.reg 0x40010018) 0 13 ≠ v.toNat) ∧
    (∃ (s : State), s.chip.dom 1 = true ∧ s.chip.sense.cal.started = false) ∧
    (∃ (s : State), bit (s.chip.reg 0x40010000) 5 = true ∧ s.chip.sense.cal.started = false) ∧
    (∃ (s : State) (i : Nat), i < 20 ∧ s.chip.dom 53 = true ∧ (s.chip.engine 16).run = none ∧ (s.chip.engine 17).run = none ∧
      s.chip.sense.seqs.length = 2 ∧ s.chip.balMode (i + 1) = 0 ∧ s.chip.bit 0x40010004 2 = false) ∧
    (∃ (s : State) (n : Nat), n < 2 ∧ s.chip.dom 53 = true ∧ (s.chip.engine 16).run = none ∧ (s.chip.engine 17).run = none ∧
      s.chip.sense.seqs.length = 2 ∧ s.chip.bit (seqReg n 8) 20 = true) ∧
    (∃ (s : State) (n : Nat), n < 2 ∧ s.chip.dom 53 = true ∧ s.chip.sense.seqs.length = 2 ∧ s.chip.bit (seqReg n 8) 21 = true) ∧
    (∃ (k : Nat) (s : State), 1 ≤ k ∧ k ≤ 20 ∧ s.chip.sense.bal.on.length = 20) ∧
    (∃ (s : State) (i : Nat), i < 20 ∧ s.chip.balAllowed (i + 1) = false) ∧
    (∃ (port : Nat) (k : Nat) (v : Word) (s : State), 1 ≤ k ∧ k ≤ 20 ∧ s.chip.canStore port (0x40010040 + 4 * (k - 1)) ∧ v.toNat < 4096 ∧
      (k ≤ s.chip.fld 0x40010004 8 5 ∨ v.toNat = 0)) ∧
    (∃ (port : Nat) (k : Nat) (v : Word) (s : State), 1 ≤ k ∧ k ≤ 20 ∧ s.chip.canStore port (0x40010040 + 4 * (k - 1)) ∧ v.toNat < 4096 ∧
      s.chip.fld 0x40010004 8 5 < k ∧ v.toNat ≠ 0) :=
  ⟨⟨on (awake |> (·.setBit (0x40010000) 2 true) |> (·.setBit (0x40010000) 1 false) |> (·.setBit (0x40070040) 10 false)),
     by decide +kernel⟩,
   ⟨on (awake |> (·.setBit (0x40010000) 1 true) |> (·.setFld 0x40070000 0 3 1) |> (fun c => { c with power.mode := .run }) |> (fun c =>
     { c with safe.hist := [] }) |> (fun c => { c with sense.cal.started := false })), by decide +kernel⟩,
   ⟨on (awake |> (·.setBit (0x40010000) 2 false)), by decide +kernel⟩,
   ⟨39, 0, on (awake |> (fun c => { c with sense.cal.started := false }) |> (·.setBit (0x40010000) 5 false)), by decide +kernel⟩,
   ⟨39, 8191, on (awake |> (fun c => { c with sense.cal.started := false }) |> (·.setBit (0x40010000) 5 true)), by decide +kernel⟩,
   ⟨on (awake |> (fun c => { c with sense.cal.started := false })), by decide +kernel⟩,
   ⟨on (awake |> (·.setBit (0x40010000) 5 true) |> (fun c => { c with sense.cal.started := false })), by decide +kernel⟩,
   ⟨on (awake |> (·.onEng 16 fun q => { q with run := none }) |> (·.onEng 17 fun q => { q with run := none }) |> (·.setBit (0x40010004) 2
     false)), 19, by decide +kernel⟩,
   ⟨on (awake |> (·.onEng 16 fun q => { q with run := none }) |> (·.onEng 17 fun q => { q with run := none }) |> (·.setBit ((seqReg 1 8))
     20 true)), 1, by decide +kernel⟩,
   ⟨on (awake |> (·.setBit ((seqReg 1 8)) 21 true)), 1, by decide +kernel⟩,
   ⟨20, on awake, by decide +kernel⟩,
   ⟨on awake, 19, by decide +kernel⟩,
   ⟨39, 20, 0, on awake, by decide +kernel⟩,
   ⟨39, 20, 4095, on (awake |> (·.setFld (0x40010004) 8 5 (20 - 1))), by decide +kernel⟩⟩

theorem witness_DieToDieFramesCarryTheirWords :
    (∃ (s : State), s.chip.dom 53 = true ∧ s.chip.sense.turn < 2 ∧ s.chip.sense.seqs.length = 2) ∧
    (∃ (wire : Option (List Byte)) (sent : List Byte) (rest : List (List Byte)) (s : State), s.chip.sense.main.wire = sent :: rest ∧
      (wire.getD sent) = []) ∧
    (∃ (wire : Option (List Byte)) (sent : List Byte) (rest : List (List Byte)) (s : State), s.chip.sense.main.wire = sent :: rest ∧
      (wire.getD sent) ≠ [] ∧ mainFrameOk (wire.getD sent) = false ∧ s.chip.sense.main.drops = []) ∧
    (∃ (wire : Option (List Byte)) (sent : List Byte) (rest : List (List Byte)) (s : State) (p : Nat), p < 65536 ∧ s.chip.sense.main.wire
      = sent :: rest ∧ mainFrameOk (wire.getD sent) = true ∧ s.chip.sense.main.lastCnt = some p ∧ p ≠ leAt (wire.getD sent) 0 2) ∧
    (∃ (wire : Option (List Byte)) (sent : List Byte) (rest : List (List Byte)) (s : State), s.chip.sense.check.wire = sent :: rest ∧
      s.chip.dom 1 = true ∧ (wire.getD sent).length = 16 ∧ crc16From 0xFFFF ((wire.getD sent).take 14) ≠ leAt (wire.getD sent) 14 2) ∧
    (∃ (wire : Option (List Byte)) (sent : List Byte) (rest : List (List Byte)) (s : State), s.chip.sense.check.wire = sent :: rest ∧
      s.chip.dom 1 = true ∧ (wire.getD sent).length = 16 ∧ crc16From 0xFFFF ((wire.getD sent).take 14) = leAt (wire.getD sent) 14 2) ∧
    (∃ (s : State), s.chip.dom 1 = true ∧ 3 ≤ s.chip.sense.main.accepted ∧ s.chip.sense.main.frozen = false ∧ s.chip.linkSilent 0 = true ∧
      s.chip.saf = 1 ∧ s.chip.power.mode = .run ∧ s.chip.safe.hist = []) ∧
    (∃ (s : State), s.chip.dom 1 = true ∧ 3 ≤ s.chip.sense.check.accepted ∧ s.chip.sense.check.frozen = false ∧ s.chip.linkSilent 1 = true
      ∧ s.chip.power.mode = .run ∧ s.chip.saf ≠ 3) ∧
    (∃ (k : Nat) (s : State), k < 2 ∧ (s.chip.link k).frozen = true ∧ 3 ≤ (s.chip.link k).consec ∧ (s.chip.link k).codeChan = none) :=
  ⟨⟨on awake, by decide +kernel⟩,
   ⟨none, [], [], on (awake |> (fun c => { c with sense.main.wire := ([]) :: ([]) })), by decide +kernel⟩,
   ⟨none, [1], [], on (awake |> (fun c => { c with sense.main.wire := ([1]) :: ([]) }) |> (fun c => { c with sense.main.drops := [] })),
     by decide +kernel⟩,
   ⟨none, (let f : List Byte := [1, 0, 1, 0] ++ List.replicate 58 0; f ++ leBytes 2 (crc16From 0xFFFF f)), [], on (awake |> (fun c =>
     { c with sense.main.wire := ((let f : List Byte := [1, 0, 1, 0] ++ List.replicate 58 0; f ++ leBytes 2 (crc16From 0xFFFF f))) :: ([]) })
     |> (fun c => { c with sense.main.lastCnt := some 65535 })), 65535, by decide +kernel⟩,
   ⟨none, List.replicate 16 1, [], on (awake |> (fun c => { c with sense.check.wire := (List.replicate 16 1) :: ([]) })),
     by decide +kernel⟩,
   ⟨none, (let f : List Byte := List.replicate 14 1; f ++ leBytes 2 (crc16From 0xFFFF f)), [], on (awake |> (fun c =>
     { c with sense.check.wire := ((let f : List Byte := List.replicate 14 1; f ++ leBytes 2 (crc16From 0xFFFF f))) :: ([]) })),
     by decide +kernel⟩,
   ⟨on (awake |> (fun c => { c with sense.main.accepted := 3 }) |> (fun c => { c with sense.main.frozen := false }) |> (·.setFld
     0x40070000 0 3 1) |> (fun c => { c with power.mode := .run }) |> (fun c => { c with safe.hist := [] }) |> (fun c =>
     { c with clocks.sd := 240 })), by decide +kernel⟩,
   ⟨on (awake |> (fun c => { c with sense.check.accepted := 3 }) |> (fun c => { c with sense.check.frozen := false }) |> (fun c =>
     { c with power.mode := .run }) |> (·.setFld 0x40070000 0 3 1) |> (fun c => { c with clocks.sd := 240 })), by decide +kernel⟩,
   ⟨1, on (awake |> (·.onLink 1 fun q => { q with frozen := true }) |> (·.onLink 1 fun q => { q with consec := 3 }) |> (·.onLink 1 fun q
     => { q with codeChan := none })), by decide +kernel⟩⟩

theorem witness_BeadsAreCommittedWholeOrRefused :
    (∃ (port : Nat) (n : Nat) (bank : Nat) (i : Nat) (v : Word) (s : State), n < 2 ∧ bank < 3 ∧ i < (if bank = 2 then 16 else 128) ∧
      s.chip.canStore port (beadAddr n bank i + 4) ∧ ((36 ≤ port ∧ port < 40 ∧ s.chip.phaseCPassed = false) ∨ ((s.chip.bit (seqReg n 0) 0
      = true ∨ (s.chip.seq n).phase ≠ .stopped) ∧ (bank = 2 ∨ bank = s.chip.abank n)))) ∧
    (∃ (port : Nat) (n : Nat) (bank : Nat) (i : Nat) (v : Word) (s : State), n < 2 ∧ bank < 3 ∧ i < (if bank = 2 then 16 else 128) ∧
      s.chip.canStore port (beadAddr n bank i + 4) ∧ (¬ (36 ≤ port ∧ port < 40 ∧ s.chip.phaseCPassed = false)) ∧ (¬ ((s.chip.bit (seqReg n
      0) 0 = true ∨ (s.chip.seq n).phase ≠ .stopped) ∧ (bank = 2 ∨ bank = s.chip.abank n))) ∧ badBead (((Sparse.find (beadAddr n bank i)
      (s.chip.seq n).beadLow).getD (s.chip.reg (beadAddr n bank i))).toNat + 2 ^ 32 * v.toNat) = true) ∧
    (∃ (port : Nat) (n : Nat) (bank : Nat) (i : Nat) (v : Word) (s : State), n < 2 ∧ bank < 3 ∧ i < (if bank = 2 then 16 else 128) ∧
      s.chip.canStore port (beadAddr n bank i + 4) ∧ (¬ (36 ≤ port ∧ port < 40 ∧ s.chip.phaseCPassed = false)) ∧ (¬ ((s.chip.bit (seqReg n
      0) 0 = true ∨ (s.chip.seq n).phase ≠ .stopped) ∧ (bank = 2 ∨ bank = s.chip.abank n))) ∧ badBead (((Sparse.find (beadAddr n bank i)
      (s.chip.seq n).beadLow).getD (s.chip.reg (beadAddr n bank i))).toNat + 2 ^ 32 * v.toNat) = false) ∧
    (∃ (i : Nat) (lo : Word) (hi : Word) (s : State), i < 32 ∧ s.chip.dom 1 = true ∧ bit (s.chip.reg 0x22000100) 0 = false ∧ badBead
      (lo.toNat + 2 ^ 32 * hi.toNat) = false ∧ forMuxc (nfld (lo.toNat + 2 ^ 32 * hi.toNat) 0 6) = true) ∧
    (∃ (i : Nat) (lo : Word) (hi : Word) (s : State), i < 32 ∧ s.chip.dom 1 = true ∧ (bit (s.chip.reg 0x22000100) 0 = true ∨ badBead
      (lo.toNat + 2 ^ 32 * hi.toNat) = true ∨ forMuxc (nfld (lo.toNat + 2 ^ 32 * hi.toNat) 0 6) = false)) :=
  ⟨⟨36, 1, 2, 0, 0, on (awake |> (·.setFld 0x40070004 4 2 0)), by decide +kernel⟩,
   ⟨39, 1, 2, 15, 0x01000000, on awake, by decide +kernel⟩,
   ⟨39, 1, 2, 15, 0, on awake, by decide +kernel⟩,
   ⟨31, 0, 0, on (awake |> (·.setBit (0x22000100) 0 false)), by decide +kernel⟩,
   ⟨31, 0, 0, on (awake |> (·.setBit (0x22000100) 0 true)), by decide +kernel⟩⟩

theorem witness_SequencersStartStopAndTakeEvents :
    (∃ (port : Nat) (n : Nat) (v : Word) (s : State), n < 2 ∧ s.chip.canStore port (seqReg n 0) ∧ s.chip.phaseCPassed = true ∧
      s.chip.sense.seqs.length = 2 ∧ v &&& 0xFFFFFFF2 = 0 ∧ s.chip.bit (seqReg n 0) 0 = false ∧ (s.chip.seq n).phase = .stopped ∧
      (s.chip.seq n).stopping = false ∧ s.chip.pairUp n = false) ∧
    (∃ (port : Nat) (n : Nat) (v : Word) (s : State), n < 2 ∧ s.chip.canStore port (seqReg n 0) ∧ s.chip.phaseCPassed = true ∧
      s.chip.sense.seqs.length = 2 ∧ v &&& 0xFFFFFFF2 = 0 ∧ s.chip.bit (seqReg n 0) 0 = false ∧ (s.chip.seq n).phase = .stopped ∧
      (s.chip.seq n).stopping = false ∧ s.chip.pairUp n = true) ∧
    (∃ (port : Nat) (n : Nat) (v : Word) (s : State), n < 2 ∧ s.chip.canStore port (seqReg n 0) ∧ s.chip.phaseCPassed = true ∧
      s.chip.sense.seqs.length = 2 ∧ v &&& 0xFFFFFFF2 = 0 ∧ s.chip.bit (seqReg n 0) 0 = true ∧ ((s.chip.seq n).phase = .settle ∨
      (s.chip.seq n).phase = .convert)) ∧
    (∃ (port : Nat) (n : Nat) (v : Word) (s : State), n < 2 ∧ s.chip.canStore port (seqReg n 0) ∧ s.chip.phaseCPassed = true ∧
      s.chip.sense.seqs.length = 2 ∧ v &&& 0xFFFFFFF2 = 0 ∧ s.chip.bit (seqReg n 0) 0 = true ∧ (s.chip.seq n).phase = .wait) ∧
    (∃ (port : Nat) (n : Nat) (v : Word) (s : State), n < 2 ∧ s.chip.canStore port (seqReg n 0) ∧ s.chip.phaseCPassed = true ∧
      s.chip.sense.seqs.length = 2 ∧ v &&& 0xFFFFFFF2 = 0 ∧ bit v 0 = s.chip.bit (seqReg n 0) 0 ∧ s.chip.bit (seqReg n 0) 0 = true) ∧
    (∃ (port : Nat) (n : Nat) (v : Word) (s : State), n < 2 ∧ s.chip.canStore port (seqReg n 0) ∧ s.chip.phaseCPassed = true ∧
      s.chip.sense.seqs.length = 2 ∧ v &&& 0xFFFFFFF2 = 0 ∧ bit v 0 = s.chip.bit (seqReg n 0) 0 ∧ s.chip.bit (seqReg n 0) 0 = false ∧
      (s.chip.seq n).phase = .stopped) ∧
    (∃ (k : Nat) (s : State) (n : Nat), n < 2 ∧ k < 4 ∧ s.chip.dom 53 = true ∧ s.chip.bit 0x40010204 k = true ∧ s.chip.sense.seqs.length =
      2 ∧ s.chip.bit (seqReg n 8) (16 + k) = true) ∧
    (∃ (k : Nat) (s : State) (n : Nat), n < 2 ∧ k < 4 ∧ s.chip.dom 53 = true ∧ s.chip.bit 0x40010204 k = true ∧ s.chip.sense.seqs.length =
      2 ∧ (nfld (s.chip.beadAt n (s.chip.abank n) (s.chip.seq n).strandBead) 52 2 = 1 ∧ nfld (s.chip.beadAt n (s.chip.abank n) (s.chip.seq
      n).strandBead) 54 2 = k) ∧ s.chip.bit (seqReg n 0) 0 = true ∧ (s.chip.seq n).inPend = false ∧ (s.chip.seq n).calHold = false ∧
      (s.chip.seq n).phase = .wait ∧ (s.chip.seq n).due = none) ∧
    (∃ (k : Nat) (s : State) (n : Nat), n < 2 ∧ k < 4 ∧ s.chip.dom 53 = true ∧ s.chip.bit 0x40010204 k = true ∧ s.chip.sense.seqs.length =
      2 ∧ (nfld (s.chip.beadAt n (s.chip.abank n) (s.chip.seq n).strandBead) 52 2 = 1 ∧ nfld (s.chip.beadAt n (s.chip.abank n) (s.chip.seq
      n).strandBead) 54 2 = k) ∧ s.chip.bit (seqReg n 0) 0 = true ∧ (s.chip.seq n).inPend = true) ∧
    (∃ (rising : Bool) (s : State), s.chip.dom 53 = true ∧ s.chip.sense.seqs.length = 2) ∧
    (∃ (n : Nat) (src : Nat) (s : State), n < 2 ∧ s.chip.sense.seqs.length = 2 ∧ src ∈ (s.chip.seq n).pwm ∧ nfld (s.chip.beadAt n
      (s.chip.abank n) (s.chip.seq n).strandBead) 52 2 = 2 ∧ nfld (s.chip.beadAt n (s.chip.abank n) (s.chip.seq n).strandBead) 54 2 = src
      ∧ s.chip.bit (seqReg n 0) 0 = true ∧ (s.chip.seq n).inPend = false ∧ (s.chip.seq n).calHold = false ∧ (s.chip.seq n).phase = .wait ∧
      (s.chip.seq n).due = none) :=
  ⟨⟨39, 1, 0, on (awake |> (·.setBit ((seqReg 1 0)) 0 false) |> (·.onSeq 1 fun q => { q with phase := .stopped }) |> (·.onSeq 1 fun q =>
     { q with stopping := false }) |> (·.setDom (54 + 2 * 1) false)), by decide +kernel⟩,
   ⟨39, 1, 0, on (awake |> (·.setBit ((seqReg 1 0)) 0 false) |> (·.onSeq 1 fun q => { q with phase := .stopped }) |> (·.onSeq 1 fun q =>
     { q with stopping := false })), by decide +kernel⟩,
   ⟨39, 1, 0, on (awake |> (·.setBit ((seqReg 1 0)) 0 true) |> (·.onSeq 1 fun q => { q with phase := .settle })), by decide +kernel⟩,
   ⟨39, 1, 0, on (awake |> (·.setBit ((seqReg 1 0)) 0 true) |> (·.onSeq 1 fun q => { q with phase := .wait })), by decide +kernel⟩,
   ⟨39, 1, 1, on (awake |> (·.setBit ((seqReg 1 0)) 0 true)), by decide +kernel⟩,
   ⟨39, 1, 0, on (awake |> (·.setBit ((seqReg 1 0)) 0 false) |> (·.onSeq 1 fun q => { q with phase := .stopped })), by decide +kernel⟩,
   ⟨3, on (awake |> (·.setBit (0x40010204) 3 true) |> (·.setBit ((seqReg 1 8)) (16 + 3) true)), 1, by decide +kernel⟩,
   ⟨3, on (awake |> (·.setBit (0x40010204) 3 true) |> (·.setBit ((seqReg 1 0)) 0 true) |> (·.onSeq 1 fun q => { q with inPend := false })
     |> (·.onSeq 1 fun q => { q with calHold := false }) |> (·.onSeq 1 fun q => { q with phase := .wait }) |> (·.onSeq 1 fun q =>
     { q with due := none }) |> (·.setReg (beadAddr 1 0 0 + 4) (0x00D00000))), 1, by decide +kernel⟩,
   ⟨3, on (awake |> (·.setBit (0x40010204) 3 true) |> (·.setBit ((seqReg 1 0)) 0 true) |> (·.onSeq 1 fun q => { q with inPend := true })
     |> (·.setReg (beadAddr 1 0 0 + 4) (0x00D00000))), 1, by decide +kernel⟩,
   ⟨false, on awake, by decide +kernel⟩,
   ⟨1, 3, on (awake |> (·.onSeq 1 fun q => { q with pwm := [3] }) |> (·.setBit ((seqReg 1 0)) 0 true) |> (·.onSeq 1 fun q =>
     { q with inPend := false }) |> (·.onSeq 1 fun q => { q with calHold := false }) |> (·.onSeq 1 fun q => { q with phase := .wait }) |>
     (·.onSeq 1 fun q => { q with due := none }) |> (·.setReg (beadAddr 1 0 0 + 4) (0x00E00000))), by decide +kernel⟩⟩

theorem witness_BeadRunsConvertAndAdvance :
    (∃ (n : Nat) (s : State), n < 2 ∧ s.chip.pairUp n = true ∧ s.chip.dom 53 = true ∧ s.chip.sense.seqs.length = 2 ∧ (s.chip.seq n).phase
      = .settle ∧ nbit (s.chip.curBead n) 50 = false) ∧
    (∃ (n : Nat) (s : State), n < 2 ∧ s.chip.pairUp n = true ∧ s.chip.dom 53 = true ∧ s.chip.sense.seqs.length = 2 ∧ (s.chip.seq n).phase
      = .settle ∧ nbit (s.chip.curBead n) 50 = true ∧ (s.chip.seq n).evt.length < 16) ∧
    (∃ (n : Nat) (raw : Int) (r : BeadRun) (rest : List BeadRun) (s : State), n < 2 ∧ s.chip.pairUp n = true ∧ s.chip.dom 53 = true ∧
      s.chip.sense.seqs.length = 2 ∧ (s.chip.seq n).runs = r :: rest ∧ (s.chip.seq n).stage.length < 1024) ∧
    (∃ (n : Nat) (raw : Int) (r : BeadRun) (rest : List BeadRun) (s : State), n < 2 ∧ s.chip.pairUp n = true ∧ s.chip.dom 53 = true ∧
      s.chip.sense.seqs.length = 2 ∧ (s.chip.seq n).runs = r :: rest ∧ 1024 ≤ (s.chip.seq n).stage.length) ∧
    (∃ (n : Nat) (atLaunch : Bool) (s : State), n < 2 ∧ s.chip.sense.seqs.length = 2 ∧ (s.chip.seq n).phase = .convert ∧ (s.chip.seq
      n).stopping = true) ∧
    (∃ (n : Nat) (atLaunch : Bool) (s : State), n < 2 ∧ s.chip.sense.seqs.length = 2 ∧ (s.chip.seq n).phase = .convert ∧ (s.chip.seq
      n).stopping = false ∧ (s.chip.seq n).inPend = true ∧ ((nbit (s.chip.curBead n) 51) = true ∨ 15 ≤ (s.chip.seq n).bead)) ∧
    (∃ (n : Nat) (atLaunch : Bool) (s : State), n < 2 ∧ s.chip.sense.seqs.length = 2 ∧ (s.chip.seq n).phase = .convert ∧ (s.chip.seq
      n).stopping = false ∧ (s.chip.seq n).inPend = true ∧ (nbit (s.chip.curBead n) 51) = false ∧ (s.chip.seq n).bead < 15) ∧
    (∃ (n : Nat) (atLaunch : Bool) (s : State), n < 2 ∧ s.chip.sense.seqs.length = 2 ∧ (s.chip.seq n).phase = .convert ∧ (s.chip.seq
      n).stopping = false ∧ (s.chip.seq n).inPend = false ∧ ((if (nbit (s.chip.curBead n) 51) = true ∨ 127 ≤ (s.chip.seq n).bead then 0
      else (s.chip.seq n).bead + 1) ≠ 0 ∨ bit (s.chip.reg (seqReg n 0)) 3 = false) ∧ atLaunch = false) ∧
    (∃ (n : Nat) (atLaunch : Bool) (s : State), n < 2 ∧ s.chip.sense.seqs.length = 2 ∧ (s.chip.seq n).phase = .convert ∧ (s.chip.seq
      n).stopping = false ∧ (s.chip.seq n).inPend = false ∧ ((if (nbit (s.chip.curBead n) 51) = true ∨ 127 ≤ (s.chip.seq n).bead then 0
      else (s.chip.seq n).bead + 1) = 0) ∧ bit (s.chip.reg (seqReg n 0)) 3 = true) :=
  ⟨⟨1, on (awake |> (·.onSeq 1 fun q => { q with phase := .settle })), by decide +kernel⟩,
   ⟨1, on (awake |> (·.onSeq 1 fun q => { q with phase := .settle }) |> (·.setReg (beadAddr 1 0 0 + 4) (0x00040000))), by decide +kernel⟩,
   ⟨1, 0, default, [], on (awake |> (·.onSeq 1 fun q => { q with runs := default :: ([]) })), by decide +kernel⟩,
   ⟨1, 0, default, [], on (awake |> (·.onSeq 1 fun q => { q with runs := default :: ([]) }) |> (·.onSeq 1 fun q =>
     { q with stage := List.replicate 1024 default })), by decide +kernel⟩,
   ⟨1, false, on (awake |> (·.onSeq 1 fun q => { q with phase := .convert }) |> (·.onSeq 1 fun q => { q with stopping := true })),
     by decide +kernel⟩,
   ⟨1, false, on (awake |> (·.onSeq 1 fun q => { q with phase := .convert }) |> (·.onSeq 1 fun q => { q with stopping := false }) |>
     (·.onSeq 1 fun q => { q with inPend := true }) |> (·.onSeq 1 fun q => { q with bead := 15 })), by decide +kernel⟩,
   ⟨1, false, on (awake |> (·.onSeq 1 fun q => { q with phase := .convert }) |> (·.onSeq 1 fun q => { q with stopping := false }) |>
     (·.onSeq 1 fun q => { q with inPend := true })), by decide +kernel⟩,
   ⟨1, false, on (awake |> (·.onSeq 1 fun q => { q with phase := .convert }) |> (·.onSeq 1 fun q => { q with stopping := false }) |>
     (·.onSeq 1 fun q => { q with inPend := false })), by decide +kernel⟩,
   ⟨1, false, on (awake |> (·.onSeq 1 fun q => { q with phase := .convert }) |> (·.onSeq 1 fun q => { q with stopping := false }) |>
     (·.onSeq 1 fun q => { q with inPend := false }) |> (·.setBit ((seqReg 1 0)) 3 true) |> (·.onSeq 1 fun q => { q with bead := 127 })),
     by decide +kernel⟩⟩

theorem witness_PendantsQueueLaunchAndEnd :
    (∃ (port : Nat) (n : Nat) (v : Word) (s : State), n < 2 ∧ s.chip.canStore port (seqReg n 0x20) ∧ s.chip.sense.seqs.length = 2 ∧ v = 1
      ∧ (36 ≤ port ∧ port < 40 → s.chip.phaseCPassed = true)) ∧
    (∃ (n : Nat) (k : Nat) (s : State), n < 2 ∧ s.chip.sense.seqs.length = 2 ∧ k ∈ (s.chip.seq n).raised ∧ (¬ (s.chip.bit (seqReg n 0) 0 =
      true ∧ (s.chip.seq n).phase ≠ .stopped))) ∧
    (∃ (n : Nat) (k : Nat) (s : State), n < 2 ∧ s.chip.sense.seqs.length = 2 ∧ k ∈ (s.chip.seq n).raised ∧ (s.chip.bit (seqReg n 0) 0 =
      true ∧ (s.chip.seq n).phase ≠ .stopped) ∧ (¬ ((s.chip.seq n).inPend = true ∨ (s.chip.seq n).launching ≠ none ∨ (bit (s.chip.reg
      0x40010100) 1) = true ∨ (s.chip.seq n).queue ≠ []))) ∧
    (∃ (n : Nat) (k : Nat) (s : State), n < 2 ∧ s.chip.sense.seqs.length = 2 ∧ k ∈ (s.chip.seq n).raised ∧ (s.chip.bit (seqReg n 0) 0 =
      true ∧ (s.chip.seq n).phase ≠ .stopped) ∧ ((s.chip.seq n).inPend = true ∨ (s.chip.seq n).launching ≠ none ∨ (bit (s.chip.reg
      0x40010100) 1) = true ∨ (s.chip.seq n).queue ≠ []) ∧ (s.chip.seq n).queue.length < 4) ∧
    (∃ (n : Nat) (k : Nat) (s : State), n < 2 ∧ s.chip.sense.seqs.length = 2 ∧ k ∈ (s.chip.seq n).raised ∧ (s.chip.bit (seqReg n 0) 0 =
      true ∧ (s.chip.seq n).phase ≠ .stopped) ∧ ((s.chip.seq n).inPend = true ∨ (s.chip.seq n).launching ≠ none ∨ (bit (s.chip.reg
      0x40010100) 1) = true ∨ (s.chip.seq n).queue ≠ []) ∧ 4 ≤ (s.chip.seq n).queue.length) ∧
    (∃ (n : Nat) (k : Nat) (s : State), n < 2 ∧ s.chip.sense.seqs.length = 2 ∧ (s.chip.seq n).launching = some k ∧ s.chip.bit (seqReg n 0)
      0 = true ∧ (s.chip.seq n).evt.length < 15) ∧
    (∃ (n : Nat) (s : State) (x : Queued) (r : List Queued), n < 2 ∧ s.chip.sense.seqs.length = 2 ∧ (s.chip.seq n).phase = .wait ∧
      (s.chip.seq n).inPend = true ∧ bit (s.chip.reg 0x40010100) 1 = false ∧ (s.chip.seq n).queue = x :: r) ∧
    (∃ (n : Nat) (s : State) (b : Nat), n < 2 ∧ s.chip.sense.seqs.length = 2 ∧ (s.chip.seq n).phase = .wait ∧ (s.chip.seq n).inPend = true
      ∧ bit (s.chip.reg 0x40010100) 1 = false ∧ (s.chip.seq n).queue = [] ∧ (s.chip.seq n).resume = .restart b) :=
  ⟨⟨36, 1, 1, on awake, by decide +kernel⟩,
   ⟨1, 0, on (awake |> (·.onSeq 1 fun q => { q with raised := [0] })), by decide +kernel⟩,
   ⟨1, 0, on (awake |> (·.onSeq 1 fun q => { q with raised := [0] }) |> (·.setBit ((seqReg 1 0)) 0 true) |> (·.onSeq 1 fun q =>
     { q with phase := .wait })), by decide +kernel⟩,
   ⟨1, 0, on (awake |> (·.onSeq 1 fun q => { q with raised := [0] }) |> (·.setBit ((seqReg 1 0)) 0 true) |> (·.onSeq 1 fun q =>
     { q with phase := .wait }) |> (·.onSeq 1 fun q => { q with inPend := true })), by decide +kernel⟩,
   ⟨1, 15, on (awake |> (·.onSeq 1 fun q => { q with raised := [15] }) |> (·.setBit ((seqReg 1 0)) 0 true) |> (·.onSeq 1 fun q =>
     { q with phase := .wait }) |> (·.onSeq 1 fun q => { q with inPend := true }) |> (·.onSeq 1 fun q =>
     { q with queue := List.replicate 4 default })), by decide +kernel⟩,
   ⟨1, 0, on (awake |> (·.onSeq 1 fun q => { q with launching := some 0 }) |> (·.setBit ((seqReg 1 0)) 0 true)), by decide +kernel⟩,
   ⟨1, on (awake |> (·.onSeq 1 fun q => { q with phase := .wait }) |> (·.onSeq 1 fun q => { q with inPend := true }) |> (·.setBit
     (0x40010100) 1 false) |> (·.onSeq 1 fun q => { q with queue := default :: ([]) })), default, [], by decide +kernel⟩,
   ⟨1, on (awake |> (·.onSeq 1 fun q => { q with phase := .wait }) |> (·.onSeq 1 fun q => { q with inPend := true }) |> (·.setBit
     (0x40010100) 1 false) |> (·.onSeq 1 fun q => { q with queue := [] }) |> (·.onSeq 1 fun q => { q with resume := .restart 0 })), 0,
     by decide +kernel⟩⟩

theorem witness_EventReadRemovesAndLatches :
    (∃ (port : Nat) (n : Nat) (s : State) (e : Nat) (r : List Nat), n < 2 ∧ s.chip.sense.seqs.length = 2 ∧ s.chip.canLoad port (seqReg n
      0x30) ∧ (s.chip.seq n).evt = e :: r) ∧
    (∃ (port : Nat) (n : Nat) (s : State), n < 2 ∧ s.chip.sense.seqs.length = 2 ∧ s.chip.canLoad port (seqReg n 0x30) ∧ (s.chip.seq n).evt
      = []) :=
  ⟨⟨39, 1, on (awake |> (·.onSeq 1 fun q => { q with evt := ((2 ^ 63 : Nat)) :: (([] : List Nat)) })), (2 ^ 63 : Nat), ([] : List Nat),
     by decide +kernel⟩,
   ⟨39, 1, on (awake |> (·.onSeq 1 fun q => { q with evt := [] })), by decide +kernel⟩⟩

theorem witness_CalibrationAndCheckListRun :
    (∃ (port : Nat) (v : Word) (s : State), s.chip.canStore port 0x40010104 ∧ (bit (s.chip.reg 0x40010100) 1 = true ∨ s.chip.phaseCPassed
      = false ∨ fld v 0 5 = 0)) ∧
    (∃ (port : Nat) (v : Word) (s : State), s.chip.canStore port 0x40010104 ∧ (¬ (bit (s.chip.reg 0x40010100) 1 = true ∨
      s.chip.phaseCPassed = false ∨ fld v 0 5 = 0))) ∧
    (∃ (p : Nat) (r : List Nat) (s : State) (n : Nat), n < 2 ∧ s.chip.sense.cal.req = p :: r ∧ (∀ x ∈ p :: r, x < 5) ∧ (p :: r).Nodup ∧
      s.chip.sense.cal.started = false ∧ s.chip.sense.seqs.length = 2 ∧ (s.chip.seq 0).inPend = false ∧ (s.chip.seq 1).inPend = false ∧
      bit (s.chip.reg 0x40010000) 1 = true ∧ (s.chip.seq n).phase ≠ .stopped) ∧
    (∃ (p : Nat) (r : List Nat) (s : State), s.chip.sense.cal.req = p :: r ∧ (∀ x ∈ p :: r, x < 5) ∧ (p :: r).Nodup ∧
      s.chip.sense.cal.started = false ∧ s.chip.sense.seqs.length = 2 ∧ (s.chip.seq 0).inPend = false ∧ (s.chip.seq 1).inPend = false ∧
      bit (s.chip.reg 0x40010000) 1 = true ∧ s.chip.calPowered p = true) ∧
    (∃ (p : Nat) (r : List Nat) (s : State), s.chip.sense.cal.req = p :: r ∧ (∀ x ∈ p :: r, x < 5) ∧ (p :: r).Nodup ∧
      s.chip.sense.cal.started = false ∧ s.chip.sense.seqs.length = 2 ∧ (s.chip.seq 0).inPend = false ∧ (s.chip.seq 1).inPend = false ∧
      bit (s.chip.reg 0x40010000) 1 = true ∧ s.chip.calPowered p = false) ∧
    (∃ (p : Nat) (r : List Nat) (s : State), s.chip.sense.cal.req = p :: r ∧ (∀ x ∈ p :: r, x < 5) ∧ (p :: r).Nodup ∧
      s.chip.sense.cal.started = false ∧ s.chip.sense.seqs.length = 2 ∧ (s.chip.seq 0).inPend = false ∧ (s.chip.seq 1).inPend = false ∧
      bit (s.chip.reg 0x40010000) 1 = false) ∧
    (∃ (m : List (List Int)) (s : State), s.chip.calAt 0 = true ∧ ((List.range 4).all fun n => fits16 (nth (nth m n []) 0 0) && fits16
      (nth (nth m n []) 1 0)) = true) ∧
    (∃ (m : List (List Int)) (s : State), s.chip.calAt 0 = true ∧ ((List.range 4).all fun n => fits16 (nth (nth m n []) 0 0) && fits16
      (nth (nth m n []) 1 0)) = false) ∧
    (∃ (n : Nat) (m : List Int) (s : State), n < 2 ∧ s.chip.calAt (1 + n) = true ∧ bit (s.chip.reg 0x40010100) 3 = false ∧ (fits16 (nth m
      0 0) && fits16 (nth m 1 0) && fits16 (nth m 2 0)) = true) ∧
    (∃ (n : Nat) (m : List Int) (s : State), n < 2 ∧ s.chip.calAt (1 + n) = true ∧ bit (s.chip.reg 0x40010100) 3 = false ∧ (fits16 (nth m
      0 0) && fits16 (nth m 1 0) && fits16 (nth m 2 0)) = false) ∧
    (∃ (n : Nat) (codes : List (List Int)) (s : State), n < 2 ∧ s.chip.calAt (3 + n) = true ∧ (∃ g < 4, zeroBreach (s.chip.fld 0x40010108
      0 6) g ((s.chip.zeroSamples n (nth codes g []))).1 ((s.chip.zeroSamples n (nth codes g []))).2 = true)) ∧
    (∃ (n : Nat) (codes : List (List Int)) (s : State), n < 2 ∧ s.chip.calAt (3 + n) = true ∧ (¬ (∃ g < 4, zeroBreach (s.chip.fld
      0x40010108 0 6) g ((s.chip.zeroSamples n (nth codes g []))).1 ((s.chip.zeroSamples n (nth codes g []))).2 = true))) ∧
    (∃ (s : State), s.chip.sense.cal.started = true ∧ s.chip.sense.cal.req = [] ∧ s.chip.sense.seqs.length = 2 ∧ s.chip.fwRuns = false) ∧
    (∃ (m : List Int) (s : State), s.chip.dom 1 = true ∧ s.chip.dom 58 = true ∧ bit (s.chip.reg 0x40010000) 2 = true ∧ fits16 (nth m 0 0)
      = true ∧ fits16 (nth m 1 0) = true) ∧
    (∃ (s : State), s.chip.dom 1 = true ∧ bit (s.chip.reg 0x22000100) 0 = false) ∧
    (∃ (raw : Int) (s : State), s.chip.dom 58 = true ∧ bit (s.chip.reg 0x22000100) 0 = true ∧ (s.chip.sense.chk).conv < nfld
      (s.chip.chkBead (s.chip.sense.chk).bead) 6 12) ∧
    (∃ (raw : Int) (s : State), s.chip.dom 58 = true ∧ bit (s.chip.reg 0x22000100) 0 = true ∧ nfld (s.chip.chkBead
      (s.chip.sense.chk).bead) 6 12 ≤ (s.chip.sense.chk).conv) :=
  ⟨⟨39, 0, on (awake |> (·.setBit (0x40010100) 1 true)), by decide +kernel⟩,
   ⟨39, 31, on awake, by decide +kernel⟩,
   ⟨0, [], on (awake |> (fun c => { c with sense.cal.req := 0 :: ([]) }) |> (fun c => { c with sense.cal.started := false }) |> (·.onSeq 0
     fun q => { q with inPend := false }) |> (·.onSeq 1 fun q => { q with inPend := false }) |> (·.setBit (0x40010000) 1 true) |> (·.onSeq
     1 fun q => { q with phase := .wait })), 1, by decide +kernel⟩,
   ⟨0, [], on (awake |> (fun c => { c with sense.cal.req := 0 :: ([]) }) |> (fun c => { c with sense.cal.started := false }) |> (·.onSeq 0
     fun q => { q with inPend := false }) |> (·.onSeq 1 fun q => { q with inPend := false }) |> (·.setBit (0x40010000) 1 true)),
     by decide +kernel⟩,
   ⟨4, [], on (awake |> (fun c => { c with sense.cal.req := 4 :: ([]) }) |> (fun c => { c with sense.cal.started := false }) |> (·.onSeq 0
     fun q => { q with inPend := false }) |> (·.onSeq 1 fun q => { q with inPend := false }) |> (·.setBit (0x40010000) 1 true) |>
     (·.setDom 56 false)), by decide +kernel⟩,
   ⟨0, [], on (awake |> (fun c => { c with sense.cal.req := 0 :: ([]) }) |> (fun c => { c with sense.cal.started := false }) |> (·.onSeq 0
     fun q => { q with inPend := false }) |> (·.onSeq 1 fun q => { q with inPend := false }) |> (·.setBit (0x40010000) 1 false)),
     by decide +kernel⟩,
   ⟨List.replicate 4 [32767, -32768], on (awake |> (fun c => { c with sense.cal := ⟨[0], false, true⟩ })), by decide +kernel⟩,
   ⟨[[32768]], on (awake |> (fun c => { c with sense.cal := ⟨[0], false, true⟩ })), by decide +kernel⟩,
   ⟨1, [32767, -32768, 0], on (awake |> (·.setBit (0x40010100) 3 false) |> (fun c => { c with sense.cal := ⟨[2], false, true⟩ })),
     by decide +kernel⟩,
   ⟨1, [0, 0, -32769], on (awake |> (·.setBit (0x40010100) 3 false) |> (fun c => { c with sense.cal := ⟨[2], false, true⟩ })),
     by decide +kernel⟩,
   ⟨1, [], on (awake |> (fun c => { c with sense.cal := ⟨[4], false, true⟩ })), by decide +kernel⟩,
   ⟨1, List.replicate 4 [0, 0], on (awake |> (fun c => { c with sense.cal := ⟨[4], false, true⟩ })), by decide +kernel⟩,
   ⟨on (awake |> (fun c => { c with sense.cal.started := true }) |> (fun c => { c with sense.cal.req := [] }) |> (fun c =>
     { c with fw.conf := none })), by decide +kernel⟩,
   ⟨[], on (awake |> (·.setBit (0x40010000) 2 true)), by decide +kernel⟩,
   ⟨on (awake |> (·.setBit (0x22000100) 0 false)), by decide +kernel⟩,
   ⟨0, on (awake |> (·.setBit (0x22000100) 0 true) |> (·.setReg (0x22000000) (0x40))), by decide +kernel⟩,
   ⟨0, on (awake |> (·.setBit (0x22000100) 0 true)), by decide +kernel⟩⟩

theorem witness_RingsFiltersAndComparatorsRecord :
    (∃ (port : Nat) (n : Nat) (v : Word) (s : State), n < 16 ∧ s.chip.canStore port (0x40014804 + 0x10 * n) ∧ s.chip.bit (0x40014804 +
      0x10 * n) 0 = false ∧ (36 ≤ port ∧ port < 40 → s.chip.phaseCPassed = true) ∧ bit v 0 = true ∧ v.toNat < 512 ∧ bit v 2 = false ∧ bit
      v 3 = false ∧ 6 ≤ fld v 4 5 ∧ fld v 4 5 ≤ 16 ∧ (s.chip.act (0x40014800 + 0x10 * n)).toNat + 4 * 2 ^ fld v 4 5 ≤ 0x800000) ∧
    (∃ (port : Nat) (n : Nat) (v : Word) (s : State), n < 16 ∧ s.chip.canStore port (0x40014804 + 0x10 * n) ∧ s.chip.bit (0x40014804 +
      0x10 * n) 0 = false ∧ (36 ≤ port ∧ port < 40 → s.chip.phaseCPassed = true) ∧ bit v 0 = true ∧ v.toNat < 512 ∧ bit v 2 = false ∧ bit
      v 3 = false ∧ 6 ≤ fld v 4 5 ∧ fld v 4 5 ≤ 16 ∧ 0x800000 < (s.chip.act (0x40014800 + 0x10 * n)).toNat + 4 * 2 ^ fld v 4 5) ∧
    (∃ (n : Nat) (w : Word) (rest : List (Nat × Word)) (s : State), n < 16 ∧ s.chip.sense.bridge = (n, w) :: rest ∧ s.chip.bit
      ((0x40014800 + 0x10 * n) + 4) 0 = false) ∧
    (∃ (n : Nat) (w : Word) (rest : List (Nat × Word)) (s : State), n < 16 ∧ s.chip.sense.bridge = (n, w) :: rest ∧ s.chip.bit
      ((0x40014800 + 0x10 * n) + 4) 0 = true ∧ ((fld (s.chip.reg ((0x40014800 + 0x10 * n) + 8)) 0 16 % (2 ^ s.chip.fld ((0x40014800 + 0x10
      * n) + 4) 4 5)) + 1) % (2 ^ s.chip.fld ((0x40014800 + 0x10 * n) + 4) 4 5) ≠ (fld (s.chip.reg ((0x40014800 + 0x10 * n) + 0xC)) 0 16 %
      (2 ^ s.chip.fld ((0x40014800 + 0x10 * n) + 4) 4 5)) ∧ (s.chip.gate 41 (s.chip.portCls 41) ((s.chip.act (0x40014800 + 0x10 *
      n)).toNat + 4 * (fld (s.chip.reg ((0x40014800 + 0x10 * n) + 8)) 0 16 % (2 ^ s.chip.fld ((0x40014800 + 0x10 * n) + 4) 4 5))) 4 true =
      .open ∧ ((s.chip.act (0x40014800 + 0x10 * n)).toNat + 4 * (fld (s.chip.reg ((0x40014800 + 0x10 * n) + 8)) 0 16 % (2 ^ s.chip.fld
      ((0x40014800 + 0x10 * n) + 4) 4 5))) < 0x800000 ∧ ((s.chip.act (0x40014800 + 0x10 * n)).toNat + 4 * (fld (s.chip.reg ((0x40014800 +
      0x10 * n) + 8)) 0 16 % (2 ^ s.chip.fld ((0x40014800 + 0x10 * n) + 4) 4 5))) % 4 = 0 ∧ nth s.chip.power.grp (grpOf ((s.chip.act
      (0x40014800 + 0x10 * n)).toNat + 4 * (fld (s.chip.reg ((0x40014800 + 0x10 * n) + 8)) 0 16 % (2 ^ s.chip.fld ((0x40014800 + 0x10 * n)
      + 4) 4 5)))) .off = .awake ∧ s.chip.ecc = [])) ∧
    (∃ (n : Nat) (w : Word) (rest : List (Nat × Word)) (s : State), n < 16 ∧ s.chip.sense.bridge = (n, w) :: rest ∧ s.chip.bit
      ((0x40014800 + 0x10 * n) + 4) 0 = true ∧ ((fld (s.chip.reg ((0x40014800 + 0x10 * n) + 8)) 0 16 % (2 ^ s.chip.fld ((0x40014800 + 0x10
      * n) + 4) 4 5)) + 1) % (2 ^ s.chip.fld ((0x40014800 + 0x10 * n) + 4) 4 5) = (fld (s.chip.reg ((0x40014800 + 0x10 * n) + 0xC)) 0 16 %
      (2 ^ s.chip.fld ((0x40014800 + 0x10 * n) + 4) 4 5)) ∧ s.chip.bit ((0x40014800 + 0x10 * n) + 4) 1 = false) ∧
    (∃ (n : Nat) (w : Word) (rest : List (Nat × Word)) (s : State), n < 16 ∧ s.chip.sense.bridge = (n, w) :: rest ∧ s.chip.bit
      ((0x40014800 + 0x10 * n) + 4) 0 = true ∧ ((fld (s.chip.reg ((0x40014800 + 0x10 * n) + 8)) 0 16 % (2 ^ s.chip.fld ((0x40014800 + 0x10
      * n) + 4) 4 5)) + 1) % (2 ^ s.chip.fld ((0x40014800 + 0x10 * n) + 4) 4 5) = (fld (s.chip.reg ((0x40014800 + 0x10 * n) + 0xC)) 0 16 %
      (2 ^ s.chip.fld ((0x40014800 + 0x10 * n) + 4) 4 5)) ∧ s.chip.bit ((0x40014800 + 0x10 * n) + 4) 1 = true ∧ s.chip.fld ((0x40014800 +
      0x10 * n) + 4) 4 5 ≤ 16 ∧ (s.chip.gate 41 (s.chip.portCls 41) ((s.chip.act (0x40014800 + 0x10 * n)).toNat + 4 * (fld (s.chip.reg
      ((0x40014800 + 0x10 * n) + 8)) 0 16 % (2 ^ s.chip.fld ((0x40014800 + 0x10 * n) + 4) 4 5))) 4 true = .open ∧ ((s.chip.act (0x40014800
      + 0x10 * n)).toNat + 4 * (fld (s.chip.reg ((0x40014800 + 0x10 * n) + 8)) 0 16 % (2 ^ s.chip.fld ((0x40014800 + 0x10 * n) + 4) 4 5)))
      < 0x800000 ∧ ((s.chip.act (0x40014800 + 0x10 * n)).toNat + 4 * (fld (s.chip.reg ((0x40014800 + 0x10 * n) + 8)) 0 16 % (2 ^
      s.chip.fld ((0x40014800 + 0x10 * n) + 4) 4 5))) % 4 = 0 ∧ nth s.chip.power.grp (grpOf ((s.chip.act (0x40014800 + 0x10 * n)).toNat +
      4 * (fld (s.chip.reg ((0x40014800 + 0x10 * n) + 8)) 0 16 % (2 ^ s.chip.fld ((0x40014800 + 0x10 * n) + 4) 4 5)))) .off = .awake ∧
      s.chip.ecc = [])) ∧
    (∃ (port : Nat) (p : Nat) (v : Word) (s : State), p < 8 ∧ s.chip.canStore port (fltReg p 0) ∧ s.chip.bit (fltReg p 0) 0 = false ∧ (36
      ≤ port ∧ port < 40 → s.chip.phaseCPassed = true) ∧ (∀ q < 8, q ≠ p → s.chip.bit (fltReg q 0) 0 = false) ∧ s.chip.sense.flts.length =
      8 ∧ bit v 0 = true ∧ 1 ≤ fld v 2 3 ∧ fld v 2 3 ≤ 5 ∧ 2 ≤ fld v 5 13 ∧ fld v 5 13 ≤ 4096 ∧ fld v 18 2 ≤ 2 ∧ fld v 25 1 = 0 ∧ fld v 28
      1 = 0 ∧ fld v 30 2 = 0 ∧ s.chip.maskCount p ≤ 32) ∧
    (∃ (port : Nat) (p : Nat) (v : Word) (s : State), p < 8 ∧ s.chip.canStore port (fltReg p 0) ∧ s.chip.bit (fltReg p 0) 0 = false ∧ (36
      ≤ port ∧ port < 40 → s.chip.phaseCPassed = true) ∧ (∀ q < 8, q ≠ p → s.chip.bit (fltReg q 0) 0 = false) ∧ s.chip.sense.flts.length =
      8 ∧ bit v 0 = true ∧ 1 ≤ fld v 2 3 ∧ fld v 2 3 ≤ 5 ∧ 2 ≤ fld v 5 13 ∧ fld v 5 13 ≤ 4096 ∧ fld v 18 2 ≤ 2 ∧ fld v 25 1 = 0 ∧ fld v 28
      1 = 0 ∧ fld v 30 2 = 0 ∧ 32 < s.chip.maskCount p) ∧
    (∃ (p : Nat) (o : CicOut) (rest : List CicOut) (s : State), p < 8 ∧ s.chip.sense.flts.length = 8 ∧ (nth s.chip.sense.flts p ⟨[],
      []⟩).queue = o :: rest ∧ s.chip.fld (fltReg p 0) 18 2 = 0 ∧ s.chip.bit (fltReg p 0) 25 = false ∧ (∀ k < 16, s.chip.bit (winReg k 0)
      0 = false) ∧ ((fld (s.chip.reg (fltReg p 0x20)) 0 16 % 256) + 1) % 256 ≠ (fld (s.chip.reg (fltReg p 0x24)) 0 16 % 256)) ∧
    (∃ (p : Nat) (o : CicOut) (rest : List CicOut) (s : State), p < 8 ∧ s.chip.sense.flts.length = 8 ∧ (nth s.chip.sense.flts p ⟨[],
      []⟩).queue = o :: rest ∧ s.chip.fld (fltReg p 0) 18 2 = 0 ∧ s.chip.bit (fltReg p 0) 25 = false ∧ (∀ k < 16, s.chip.bit (winReg k 0)
      0 = false) ∧ ((fld (s.chip.reg (fltReg p 0x20)) 0 16 % 256) + 1) % 256 = (fld (s.chip.reg (fltReg p 0x24)) 0 16 % 256) ∧ s.chip.bit
      (fltReg p 0) 29 = false) ∧
    (∃ (port : Nat) (k : Nat) (v : Word) (s : State), k < 16 ∧ s.chip.canStore port (winReg k 0) ∧ (36 ≤ port ∧ port < 40 →
      s.chip.phaseCPassed = true) ∧ s.chip.bit (winReg k 0) 0 = false ∧ bit v 0 = true ∧ v.toNat < 2 ^ 17 ∧ s.chip.bandOk k = true) ∧
    (∃ (port : Nat) (k : Nat) (v : Word) (s : State), k < 16 ∧ s.chip.canStore port (winReg k 0) ∧ (36 ≤ port ∧ port < 40 →
      s.chip.phaseCPassed = true) ∧ s.chip.bit (winReg k 0) 0 = false ∧ bit v 0 = true ∧ v.toNat < 2 ^ 17 ∧ s.chip.bandOk k = false) ∧
    (∃ (port : Nat) (k : Nat) (v : Word) (s : State), k < 16 ∧ s.chip.canStore port (winReg k 0) ∧ (36 ≤ port ∧ port < 40 →
      s.chip.phaseCPassed = true) ∧ s.chip.bit (winReg k 0) 0 = true ∧ v.toNat = (s.chip.reg (winReg k 0)).toNat - 1 ∧ bit (s.chip.reg
      (winReg k 0)) 0 = true ∧ v.toNat < 2 ^ 17 ∧ s.chip.sense.wins.length = 16) ∧
    (∃ (port : Nat) (k : Nat) (v : Word) (s : State), k < 16 ∧ s.chip.canStore port (winReg k 4) ∧ (36 ≤ port ∧ port < 40 →
      s.chip.phaseCPassed = true) ∧ s.chip.bit (winReg k 0) 0 = true ∧ v.toInt + (((s.chip.fld (winReg k 0xC) 0 24 : Nat) : Int)) ≤
      (s.chip.act (winReg k 8)).toInt - (((s.chip.fld (winReg k 0xC) 0 24 : Nat) : Int))) ∧
    (∃ (port : Nat) (k : Nat) (v : Word) (s : State), k < 16 ∧ s.chip.canStore port (winReg k 4) ∧ (36 ≤ port ∧ port < 40 →
      s.chip.phaseCPassed = true) ∧ s.chip.bit (winReg k 0) 0 = true ∧ (s.chip.act (winReg k 8)).toInt - (((s.chip.fld (winReg k 0xC) 0 24
      : Nat) : Int)) < v.toInt + (((s.chip.fld (winReg k 0xC) 0 24 : Nat) : Int))) :=
  ⟨⟨36, 15, putFld (putFld (putFld (putFld (putFld (0) (0) 1 (1)) (2) 1 (0)) (3) 1 (0)) (4) 5 (6)) (4) 5 (16), on (awake |> (·.setBit
     ((0x40014804 + 0x10 * 15)) 0 false)), by decide +kernel⟩,
   ⟨36, 15, putFld (putFld (putFld (putFld (putFld (0) (0) 1 (1)) (2) 1 (0)) (3) 1 (0)) (4) 5 (6)) (4) 5 (16), on (awake |> (·.setBit
     ((0x40014804 + 0x10 * 15)) 0 false) |> (·.setReg (0x40014800 + 0x10 * 15) (0x7FFFC0))), by decide +kernel⟩,
   ⟨15, 0, [], on (awake |> (fun c => { c with sense.bridge := (15, 0) :: ([]) }) |> (·.setBit (((0x40014800 + 0x10 * 15) + 4)) 0 false)),
     by decide +kernel⟩,
   ⟨15, 0, [], on (awake |> (fun c => { c with sense.bridge := (15, 0) :: ([]) }) |> (·.setBit (((0x40014800 + 0x10 * 15) + 4)) 0 true) |>
     (fun c => { c with ecc := [] })), by decide +kernel⟩,
   ⟨15, 0, [], on (awake |> (fun c => { c with sense.bridge := (15, 0) :: ([]) }) |> (·.setBit (((0x40014800 + 0x10 * 15) + 4)) 0 true) |>
     (·.setBit (((0x40014800 + 0x10 * 15) + 4)) 1 false) |> (·.setFld (0x40014800 + 0x10 * 15 + 4) 4 5 6) |> (·.setReg (0x40014800 + 0x10
     * 15 + 12) (1))), by decide +kernel⟩,
   ⟨15, 0, [], on (awake |> (fun c => { c with sense.bridge := (15, 0) :: ([]) }) |> (·.setBit (((0x40014800 + 0x10 * 15) + 4)) 0 true) |>
     (·.setBit (((0x40014800 + 0x10 * 15) + 4)) 1 true) |> (·.setFld (((0x40014800 + 0x10 * 15) + 4)) 4 5 16) |> (fun c =>
     { c with ecc := [] }) |> (·.setFld (0x40014800 + 0x10 * 15 + 4) 4 5 16) |> (·.setReg (0x40014800 + 0x10 * 15 + 8) (65535))),
     by decide +kernel⟩,
   ⟨36, 7, putFld (putFld (putFld (putFld (putFld (putFld (putFld (putFld (putFld (0) (0) 1 (1)) (2) 3 (1)) (2) 3 (5)) (5) 13 (2)) (5) 13
     (4096)) (18) 2 (2)) (25) 1 (0)) (28) 1 (0)) (30) 2 (0), on (awake |> (·.setBit ((fltReg 7 0)) 0 false)), by decide +kernel⟩,
   ⟨36, 7, putFld (putFld (putFld (putFld (putFld (putFld (putFld (putFld (putFld (0) (0) 1 (1)) (2) 3 (1)) (2) 3 (5)) (5) 13 (2)) (5) 13
     (4096)) (18) 2 (2)) (25) 1 (0)) (28) 1 (0)) (30) 2 (0), on (awake |> (·.setBit ((fltReg 7 0)) 0 false) |> (·.setReg (fltReg 7 4)
     (0xFFFFFFFF)) |> (·.setReg (fltReg 7 8) (0xFFFFFFFF))), by decide +kernel⟩,
   ⟨7, default, [], on (awake |> (·.setFld ((fltReg 7 0)) 18 2 0) |> (·.setBit ((fltReg 7 0)) 25 false) |> (fun c =>
     { c with sense.flts := upd c.sense.flts 7 fun f => { f with queue := default :: ([]) } })), by decide +kernel⟩,
   ⟨7, default, [], on (awake |> (·.setFld ((fltReg 7 0)) 18 2 0) |> (·.setBit ((fltReg 7 0)) 25 false) |> (·.setBit ((fltReg 7 0)) 29
     false) |> (fun c => { c with sense.flts := upd c.sense.flts 7 fun f => { f with queue := default :: ([]) } }) |> (·.setReg (fltReg 7
     0x24) (1))), by decide +kernel⟩,
   ⟨36, 15, putFld (0) (0) 1 (1), on (awake |> (·.setBit ((winReg 15 0)) 0 false)), by decide +kernel⟩,
   ⟨36, 15, putFld (0) (0) 1 (1), on (awake |> (·.setBit ((winReg 15 0)) 0 false) |> (·.setReg (winReg 15 8) (0x80000000)) |> (·.setReg
     (winReg 15 4) (0x7FFFFFFF))), by decide +kernel⟩,
   ⟨36, 15, 0, on (awake |> (·.setBit ((winReg 15 0)) 0 true) |> (·.setBit ((winReg 15 0)) 0 true) |> (·.setReg (winReg 15 0) (1))),
     by decide +kernel⟩,
   ⟨36, 15, 0, on (awake |> (·.setBit ((winReg 15 0)) 0 true)), by decide +kernel⟩,
   ⟨36, 15, 5, on (awake |> (·.setBit ((winReg 15 0)) 0 true) |> (·.setReg (winReg 15 8) (0))), by decide +kernel⟩⟩

theorem witness_NarrowRegisterAccessesAreNotPerformed :
    (∃ (x : Access) (s : State), x.port ≤ 48 ∧ 0x40000000 ≤ x.addr ∧ inArea x.addr x.len = true ∧ isOutBuf x.addr = false ∧ (x.len = 1 ∨
      x.len = 2 ∨ x.addr % 4 ≠ 0) ∧ x.kind = .read) ∧
    (∃ (x : Access) (s : State) (r : Nat) (b : Nat), x.port ≤ 48 ∧ 0x40000000 ≤ x.addr ∧ inArea x.addr x.len = true ∧ isOutBuf x.addr =
      false ∧ (x.len = 1 ∨ x.len = 2 ∨ x.addr % 4 ≠ 0) ∧ misuseAt x.addr = some (r, b)) ∧
    (∃ (port : Nat) (a : Nat) (size : Nat) (v : Word) (s : State) (r : Nat) (b : Nat), 0x40000000 ≤ a ∧ inArea a size = true ∧ isOutBuf a
      = false ∧ (size = 1 ∨ size = 2 ∨ a % 4 ≠ 0) ∧ misuseAt a = some (r, b)) :=
  ⟨⟨{ port := 39, addr := 0x40000003, len := 1, kind := .read, data := [], upsets := [], cls := 0, srcId := 0 }, on awake,
     by decide +kernel⟩,
   ⟨{ port := 39, addr := 0x40000003, len := 1, kind := .read, data := [], upsets := [], cls := 0, srcId := 0 }, on awake, 0x40000004, 0,
     by decide +kernel⟩,
   ⟨0, 1073741824, 1, 0, on awake, 0x40000004, 0, by decide +kernel⟩⟩

theorem witness_AccessesToOffGroupsAreNotPerformed :
    (∃ (x : Access) (s : State), x.port ≤ 48 ∧ (x.addr < 0x800000 ∨ (0x08000000 ≤ x.addr ∧ x.addr < 0x08800000)) ∧ inArea x.addr x.len =
      true ∧ (∀ l ∈ linesOf x.addr x.len, s.chip.lineRefused x.port (s.chip.accCls x) l (accWrites x) = none) ∧ (∃ l ∈ linesOf x.addr
      x.len, nth s.chip.power.grp (grpOf l) .off = .off) ∧ x.kind = .read) :=
  ⟨{ ({ port := 39, addr := 0x700000, len := 4, kind := .read, data := [], upsets := [], cls := 0, srcId := 0 } : Access) with kind := .read },
    on (awake |> (fun c => { c with power.grp := upd c.power.grp (grpOf 0x700000) fun _ => .off })), by decide +kernel⟩

theorem witness_MemoryAccessesReadWriteAndReserve :
    (∃ (x : Access) (s : State), x.port ≤ 48 ∧ s.chip.gate x.port (s.chip.accCls x) x.addr x.len (accWrites x) = .open ∧ x.upsets = [] ∧
      s.chip.ecc = [] ∧ (x.addr < 0x800000 ∨ (0x30000000 ≤ x.addr ∧ x.addr < 0x30040000)) ∧ x.data.length = x.len ∧ ((x.kind = .read ∨
      x.kind = .write) ∨ (36 ≤ x.port ∧ x.port < 40 ∧ x.len = 4 ∧ x.addr % 4 = 0)) ∧ (s.chip.mustWait x.addr x.len) = true) ∧
    (∃ (x : Access) (s : State), x.port ≤ 48 ∧ s.chip.gate x.port (s.chip.accCls x) x.addr x.len (accWrites x) = .open ∧ x.upsets = [] ∧
      s.chip.ecc = [] ∧ (x.addr < 0x800000 ∨ (0x30000000 ≤ x.addr ∧ x.addr < 0x30040000)) ∧ x.data.length = x.len ∧ (¬ (x.kind = .read ∨
      x.kind = .write)) ∧ (¬ (36 ≤ x.port ∧ x.port < 40 ∧ x.len = 4 ∧ x.addr % 4 = 0))) ∧
    (∃ (x : Access) (s : State), x.port ≤ 48 ∧ s.chip.gate x.port (s.chip.accCls x) x.addr x.len (accWrites x) = .open ∧ x.upsets = [] ∧
      s.chip.ecc = [] ∧ (x.addr < 0x800000 ∨ (0x30000000 ≤ x.addr ∧ x.addr < 0x30040000)) ∧ x.data.length = x.len ∧ (s.chip.mustWait
      x.addr x.len) = false ∧ x.kind = .read) ∧
    (∃ (x : Access) (s : State), x.port ≤ 48 ∧ s.chip.gate x.port (s.chip.accCls x) x.addr x.len (accWrites x) = .open ∧ x.upsets = [] ∧
      s.chip.ecc = [] ∧ (x.addr < 0x800000 ∨ (0x30000000 ≤ x.addr ∧ x.addr < 0x30040000)) ∧ x.data.length = x.len ∧ (s.chip.mustWait
      x.addr x.len) = false ∧ x.kind = .write) ∧
    (∃ (x : Access) (s : State) (op : Amo), x.port ≤ 48 ∧ s.chip.gate x.port (s.chip.accCls x) x.addr x.len (accWrites x) = .open ∧
      x.upsets = [] ∧ s.chip.ecc = [] ∧ (x.addr < 0x800000 ∨ (0x30000000 ≤ x.addr ∧ x.addr < 0x30040000)) ∧ x.data.length = x.len ∧
      (s.chip.mustWait x.addr x.len) = false ∧ (36 ≤ x.port ∧ x.port < 40 ∧ x.len = 4 ∧ x.addr % 4 = 0) ∧ x.kind = .amo op) ∧
    (∃ (x : Access) (s : State), x.port ≤ 48 ∧ s.chip.gate x.port (s.chip.accCls x) x.addr x.len (accWrites x) = .open ∧ x.upsets = [] ∧
      s.chip.ecc = [] ∧ (x.addr < 0x800000 ∨ (0x30000000 ≤ x.addr ∧ x.addr < 0x30040000)) ∧ x.data.length = x.len ∧ (s.chip.mustWait
      x.addr x.len) = false ∧ (36 ≤ x.port ∧ x.port < 40 ∧ x.len = 4 ∧ x.addr % 4 = 0) ∧ x.kind = .loadReserved) ∧
    (∃ (x : Access) (s : State), x.port ≤ 48 ∧ s.chip.gate x.port (s.chip.accCls x) x.addr x.len (accWrites x) = .open ∧ x.upsets = [] ∧
      s.chip.ecc = [] ∧ (x.addr < 0x800000 ∨ (0x30000000 ≤ x.addr ∧ x.addr < 0x30040000)) ∧ x.data.length = x.len ∧ (s.chip.mustWait
      x.addr x.len) = false ∧ (36 ≤ x.port ∧ x.port < 40 ∧ x.len = 4 ∧ x.addr % 4 = 0) ∧ x.kind = .storeConditional ∧ (x.port, (x.addr / 8
      * 8)) ∈ s.chip.resv) ∧
    (∃ (x : Access) (s : State), x.port ≤ 48 ∧ s.chip.gate x.port (s.chip.accCls x) x.addr x.len (accWrites x) = .open ∧ x.upsets = [] ∧
      s.chip.ecc = [] ∧ (x.addr < 0x800000 ∨ (0x30000000 ≤ x.addr ∧ x.addr < 0x30040000)) ∧ x.data.length = x.len ∧ (s.chip.mustWait
      x.addr x.len) = false ∧ (36 ≤ x.port ∧ x.port < 40 ∧ x.len = 4 ∧ x.addr % 4 = 0) ∧ x.kind = .storeConditional ∧ (x.port, (x.addr / 8
      * 8)) ∉ s.chip.resv) :=
  ⟨⟨{ port := 39, addr := 0x700000, len := 4, kind := .read, data := List.replicate 4 1, upsets := [], cls := 0, srcId := 0 }, on (awake
     |> (fun c => { c with ecc := [] }) |> (fun c => { c with power.grp := upd c.power.grp (grpOf 0x700000) fun _ => .retained })),
     by decide +kernel⟩,
   ⟨{ port := 35, addr := 0x700000, len := 4, kind := .storeConditional, data := List.replicate 4 1, upsets := [], cls := 0, srcId := 0 },
     on (awake |> (fun c => { c with ecc := [] })), by decide +kernel⟩,
   ⟨{ port := 39, addr := 0x7FFFFC, len := 4, kind := .read, data := List.replicate 4 1, upsets := [], cls := 0, srcId := 0 }, on (awake
     |> (fun c => { c with ecc := [] })), by decide +kernel⟩,
   ⟨{ port := 39, addr := 0x3003FFFC, len := 4, kind := .write, data := List.replicate 4 1, upsets := [], cls := 0, srcId := 0 }, on
     (awake |> (fun c => { c with ecc := [] })), by decide +kernel⟩,
   ⟨{ port := 39, addr := 0x700000, len := 4, kind := .amo .add, data := List.replicate 4 1, upsets := [], cls := 0, srcId := 0 }, on
     (awake |> (fun c => { c with ecc := [] })), Amo.add, by decide +kernel⟩,
   ⟨{ port := 39, addr := 0x700000, len := 4, kind := .loadReserved, data := List.replicate 4 1, upsets := [], cls := 0, srcId := 0 }, on
     (awake |> (fun c => { c with ecc := [] })), by decide +kernel⟩,
   ⟨{ port := 39, addr := 0x700000, len := 4, kind := .storeConditional, data := List.replicate 4 1, upsets := [], cls := 0, srcId := 0 },
     on (awake |> (fun c => { c with ecc := [] }) |> (fun c => { c with resv := [(39, 0x700000)] })), by decide +kernel⟩,
   ⟨{ port := 39, addr := 0x700000, len := 4, kind := .storeConditional, data := List.replicate 4 1, upsets := [], cls := 0, srcId := 0 },
     on (awake |> (fun c => { c with ecc := [] })), by decide +kernel⟩⟩

theorem witness_BanksScrubberAndPartitionFollowTheirRules :
    (∃ (b : Nat) (reqs : List (Nat × Nat × Nat)) (s : State), b < 16 ∧ s.chip.bankGrant.length = 16 ∧ s.chip.bankPtr.length = 16 ∧ (∀ r ∈
      reqs, r.1 < 64 ∧ r.2.1 < 3) ∧ (∀ k < 3, nth (nth s.chip.bankPtr b []) k 0 < 64) ∧ (∀ r ∈ reqs, s.chip.eligible b r = false)) ∧
    (∃ (b : Nat) (reqs : List (Nat × Nat × Nat)) (s : State), b < 16 ∧ s.chip.bankGrant.length = 16 ∧ s.chip.bankPtr.length = 16 ∧ (∀ r ∈
      reqs, r.1 < 64 ∧ r.2.1 < 3) ∧ (∀ k < 3, nth (nth s.chip.bankPtr b []) k 0 < 64) ∧ (∃ r ∈ reqs, s.chip.eligible b r = true)) ∧
    (∃ (w : Nat) (s : State), s.chip.dom 4 = true ∧ s.chip.bit 0x4002000C 0 = true ∧ s.chip.scrubNext s.chip.scrub = some w ∧ Sparse.find
      w s.chip.ecc = none) ∧
    (∃ (w : Nat) (s : State), s.chip.dom 4 = true ∧ s.chip.bit 0x4002000C 0 = true ∧ s.chip.scrubNext s.chip.scrub = some w ∧ Sparse.find
      w s.chip.ecc = some .single) ∧
    (∃ (w : Nat) (s : State), s.chip.dom 4 = true ∧ s.chip.bit 0x4002000C 0 = true ∧ s.chip.scrubNext s.chip.scrub = some w ∧ Sparse.find
      w s.chip.ecc ≠ some .double ∧ Sparse.find w s.chip.ecc ≠ some .many ∧ s.chip.scrubNext (w + 8) = none) ∧
    (∃ (w : Nat) (s : State) (n : Nat), s.chip.dom 4 = true ∧ s.chip.bit 0x4002000C 0 = true ∧ s.chip.scrubNext s.chip.scrub = some w ∧
      Sparse.find w s.chip.ecc ≠ some .double ∧ Sparse.find w s.chip.ecc ≠ some .many ∧ s.chip.scrubNext (w + 8) = some n) ∧
    (∃ (port : Nat) (r : Nat) (which : Nat) (v : Word) (s : State), r < 16 ∧ which < 4 ∧ s.chip.canStore port (0x40020900 + 0x20 * r + 4 *
      which) ∧ bit (s.chip.reg 0x40020800) 0 = false ∧ (which = 3 → v.toNat < 2 ^ 17) ∧ (bit (s.chip.reg (0x40020910 + 0x20 * r)) 0) =
      false) ∧
    (∃ (port : Nat) (r : Nat) (which : Nat) (v : Word) (s : State), r < 16 ∧ which < 4 ∧ s.chip.canStore port (0x40020900 + 0x20 * r + 4 *
      which) ∧ bit (s.chip.reg 0x40020800) 0 = false ∧ (which = 3 → v.toNat < 2 ^ 17) ∧ (bit (s.chip.reg (0x40020910 + 0x20 * r)) 0) =
      true ∧ fld v (if which < 2 then 6 else 0) (if which < 2 then 26 else if which = 2 then 32 else 17) ≠ fld (s.chip.reg (0x40020900 +
      0x20 * r + 4 * which)) (if which < 2 then 6 else 0) (if which < 2 then 26 else if which = 2 then 32 else 17)) ∧
    (∃ (port : Nat) (r : Nat) (v : Word) (s : State), r < 16 ∧ s.chip.canStore port (0x40020910 + 0x20 * r) ∧ bit (s.chip.reg 0x40020800)
      0 = false ∧ bit v 0 = true ∧ v.toNat < 16 ∧ fld v 1 2 < 3 ∧ bit (s.chip.partReg r 4) 0 = false ∧ (s.chip.partReg r 0).toNat / 64 ≤
      (s.chip.partReg r 1).toNat / 64) ∧
    (∃ (port : Nat) (r : Nat) (v : Word) (s : State), r < 16 ∧ s.chip.canStore port (0x40020910 + 0x20 * r) ∧ bit (s.chip.reg 0x40020800)
      0 = false ∧ bit v 0 = true ∧ v.toNat < 16 ∧ fld v 1 2 < 3 ∧ bit (s.chip.partReg r 4) 0 = false ∧ (s.chip.partReg r 1).toNat / 64 <
      (s.chip.partReg r 0).toNat / 64) :=
  ⟨⟨15, [], on awake, by decide +kernel⟩,
   ⟨15, [(40, 0, 1)], on awake, by decide +kernel⟩,
   ⟨0, on (awake |> (·.setBit (0x4002000C) 0 true)), by decide +kernel⟩,
   ⟨0, on (awake |> (·.setBit (0x4002000C) 0 true) |> (fun c => { c with ecc := [(0, .single)] })), by decide +kernel⟩,
   ⟨0x7FFFF8, on (awake |> (·.setBit (0x4002000C) 0 true) |> (fun c => { c with scrub := 0x7FFFF8 })), by decide +kernel⟩,
   ⟨0, on (awake |> (·.setBit (0x4002000C) 0 true)), 8, by decide +kernel⟩,
   ⟨36, 15, 3, 0, on (awake |> (·.setBit (0x40020800) 0 false) |> (·.setBit ((0x40020910 + 0x20 * 15)) 0 false)), by decide +kernel⟩,
   ⟨36, 15, 3, 1, on (awake |> (·.setBit (0x40020800) 0 false) |> (·.setBit ((0x40020910 + 0x20 * 15)) 0 true) |> (·.setBit (0x40020910 +
     0x20 * 15) 0 true)), by decide +kernel⟩,
   ⟨36, 15, putFld (putFld (0) (0) 1 (1)) (1) 2 (0), on (awake |> (·.setBit (0x40020800) 0 false)), by decide +kernel⟩,
   ⟨36, 15, putFld (putFld (0) (0) 1 (1)) (1) 2 (0), on (awake |> (·.setBit (0x40020800) 0 false) |> (·.setReg (0x40020900 + 0x20 * 15)
     (0x40))), by decide +kernel⟩⟩

theorem witness_DoorbellsSubmitDescriptors :
    (∃ (port : Nat) (e : Nat) (v : Word) (s : State) (f : Nat), e < 36 ∧ s.chip.eng.length = 36 ∧ s.chip.canStore port (0x40030100 + 4 *
      e) ∧ (s.chip.engine e).fifo.length < 8 ∧ f ≠ e) ∧
    (∃ (port : Nat) (e : Nat) (v : Word) (s : State), e < 36 ∧ s.chip.eng.length = 36 ∧ s.chip.canStore port (0x40030100 + 4 * e) ∧ 8 ≤
      (s.chip.engine e).fifo.length) ∧
    (∃ (e : Nat) (addr : Nat) (port : Nat) (cls : Nat) (rest : List (Nat × Nat × Nat)) (s : State), e < 36 ∧ s.chip.eng.length = 36 ∧
      (s.chip.engine e).fifo = (addr, port, cls) :: rest ∧ (∀ x ∈ s.chip.stalled, x.addr ≠ 0x40030100 + 4 * e) ∧ (addr % 64 ≠ 0 ∨ 0x800000
      ≤ addr) ∧ bit (s.chip.reg 0x40030000) 1 = true) ∧
    (∃ (e : Nat) (addr : Nat) (port : Nat) (cls : Nat) (rest : List (Nat × Nat × Nat)) (s : State), e < 36 ∧ s.chip.eng.length = 36 ∧
      (s.chip.engine e).fifo = (addr, port, cls) :: rest ∧ (∀ x ∈ s.chip.stalled, x.addr ≠ 0x40030100 + 4 * e) ∧ (addr % 64 ≠ 0 ∨ 0x800000
      ≤ addr) ∧ bit (s.chip.reg 0x40030000) 1 = false) ∧
    (∃ (e : Nat) (addr : Nat) (port : Nat) (cls : Nat) (rest : List (Nat × Nat × Nat)) (s : State), e < 36 ∧ s.chip.eng.length = 36 ∧
      (s.chip.engine e).fifo = (addr, port, cls) :: rest ∧ (∀ x ∈ s.chip.stalled, x.addr ≠ 0x40030100 + 4 * e) ∧ (addr % 64 = 0 ∧ addr <
      0x800000 ∧ s.chip.gate port cls addr 64 false = .open ∧ s.chip.ecc = [] ∧ nth s.chip.power.grp (grpOf addr) .off = .awake) ∧ (leAt
      (s.chip.peekN addr 64) 0x0C 4) % 32 = 0 ∧ (leAt (s.chip.peekN addr 64) 0x0C 4) < 0x800000 ∧ s.chip.submitCheck s.chip.opOk e port
      cls ((⟨addr, (s.chip.peekN addr 64), if bit (s.chip.reg 0x40020800) 0 then min 2 (fld (s.chip.partReg (leAt (s.chip.peekN addr 64) 4
      1 % 16) 4) 1 2) else 0, 0⟩ : Desc)) = none) ∧
    (∃ (e : Nat) (addr : Nat) (port : Nat) (cls : Nat) (rest : List (Nat × Nat × Nat)) (s : State) (k : Nat) (st : Nat) (dt : Nat), e < 36
      ∧ s.chip.eng.length = 36 ∧ (s.chip.engine e).fifo = (addr, port, cls) :: rest ∧ (∀ x ∈ s.chip.stalled, x.addr ≠ 0x40030100 + 4 * e)
      ∧ (addr % 64 = 0 ∧ addr < 0x800000 ∧ s.chip.gate port cls addr 64 false = .open ∧ s.chip.ecc = [] ∧ nth s.chip.power.grp (grpOf
      addr) .off = .awake) ∧ (leAt (s.chip.peekN addr 64) 0x0C 4) % 32 = 0 ∧ (leAt (s.chip.peekN addr 64) 0x0C 4) < 0x800000 ∧
      s.chip.submitCheck s.chip.opOk e port cls ((⟨addr, (s.chip.peekN addr 64), if bit (s.chip.reg 0x40020800) 0 then min 2 (fld
      (s.chip.partReg (leAt (s.chip.peekN addr 64) 4 1 % 16) 4) 1 2) else 0, 0⟩ : Desc)) = some (k, st, dt) ∧ k ≠ 5 ∧ leAt (s.chip.peekN
      addr 64) 2 2 = 0 ∧ s.chip.gate e ((⟨addr, (s.chip.peekN addr 64), if bit (s.chip.reg 0x40020800) 0 then min 2 (fld (s.chip.partReg
      (leAt (s.chip.peekN addr 64) 4 1 % 16) 4) 1 2) else 0, 0⟩ : Desc)).cls (leAt (s.chip.peekN addr 64) 0x0C 4) 32 true = .open ∧ nth
      s.chip.power.grp (grpOf (leAt (s.chip.peekN addr 64) 0x0C 4)) .off = .awake) :=
  ⟨⟨39, 35, 0, on awake, 0, by decide +kernel⟩,
   ⟨39, 35, 0, on (awake |> (·.onEng 35 fun q => { q with fifo := List.replicate 8 (0, 0, 0) })), by decide +kernel⟩,
   ⟨35, 0x7FFFFF, 0, 0, [], on (awake |> (·.setBit (0x40030000) 1 true) |> (·.onEng 35 fun q =>
     { q with fifo := (0x7FFFFF, 0, 0) :: ([]) })), by decide +kernel⟩,
   ⟨35, 0x800000, 0, 0, [], on (awake |> (·.setBit (0x40030000) 1 false) |> (·.onEng 35 fun q =>
     { q with fifo := (0x800000, 0, 0) :: ([]) })), by decide +kernel⟩,
   ⟨29, 0x7FFFC0, 39, 0, [], on (awake |> (fun c => { c with ecc := [] }) |> (·.onEng 29 fun q =>
     { q with fifo := (0x7FFFC0, 39, 0) :: ([]) }) |> (·.pokeN (0x7FFFC0) (dscr 1 8 0 0x10000 0 (area 0x1000 0 0x2000 0 0 64)))),
     by decide +kernel⟩,
   ⟨29, 0x7FFFC0, 39, 0, [], on (awake |> (fun c => { c with ecc := [] }) |> (·.onEng 29 fun q =>
     { q with fifo := (0x7FFFC0, 39, 0) :: ([]) }) |> (·.pokeN (0x7FFFC0) (dscr 9 8 0 0x10000 0 (area 0x1000 0 0x2000 0 0 64)))), (2 :
     Nat), (3 : Nat), (2 : Nat), by decide +kernel⟩⟩

theorem witness_DescriptorsStartCompleteAndEnd :
    (∃ (e : Nat) (d : Desc) (s : State) (f : Nat), e < 36 ∧ s.chip.eng.length = 36 ∧ (s.chip.engine e).pw = .up ∧ (s.chip.engine e).run =
      none ∧ s.chip.pick e = some d ∧ (d.flag 2 && pastDue s.chip.packUs d.deadline) = false ∧ f ≠ e) ∧
    (∃ (i : Instr) (e : Nat) (r : Running) (s : State), e < 36 ∧ s.chip.eng.length = 36 ∧ (s.chip.engine e).run = some r ∧ s.chip.engSet e
      ≠ 2 ∧ r.d.flag 0 = false ∧ r.d.flag 5 = false ∧ s.chip.gate e r.d.cls r.d.compl 32 true = .open ∧ r.d.compl % 32 = 0 ∧ r.d.compl <
      0x800000 ∧ nth s.chip.power.grp (grpOf r.d.compl) .off = .awake ∧ s.chip.ecc = [] ∧ ((i = .descriptorComplete e ∧ r.done = true) ∨
      (i = .runmaxExpiry e ∧ r.done = false) ∨ (i = .graceExpiry e ∧ r.done = false ∧ (s.chip.engine e).lost = true ∧ s.chip.admitted e
      r.d.cls = false)) ∧ r.d.flag 4 = true) ∧
    (∃ (port : Nat) (e : Nat) (v : Word) (s : State), s.chip.canStore port 0x40030300 ∧ e = fld v 0 6 ∧ e < 36 ∧ s.chip.eng.length = 36 ∧
      s.chip.engSet e ≠ 2) :=
  ⟨⟨29, (⟨0x7FFFC0, dscr 1 8 0 0x10000 0 (area 0x1000 0 0x2000 0 0 64), 0, 0⟩ : Desc), on (awake |> (·.onEng 29 fun q =>
     { q with pw := .up }) |> (·.onEng 29 fun q => { q with run := none }) |> (·.onEng 29 fun q =>
     { q with queue := [((⟨0x7FFFC0, dscr 1 8 0 0x10000 0 (area 0x1000 0 0x2000 0 0 64), 0, 0⟩ : Desc))] })), 0, by decide +kernel⟩,
   ⟨.descriptorComplete 29, 29, (⟨⟨0x7FFFC0, dscr 1 8 16 0x10000 0 (area 0x1000 0 0x2000 0 0 64), 0, 0⟩, 0, true, ⟨1, 0, 0, 0, 0, 0⟩, [],
     []⟩ : Running), on (awake |> (·.onEng 29 fun q =>
     { q with run := some ((⟨⟨0x7FFFC0, dscr 1 8 16 0x10000 0 (area 0x1000 0 0x2000 0 0 64), 0, 0⟩, 0, true, ⟨1, 0, 0, 0, 0, 0⟩, [], []⟩ : Running)) })
     |> (fun c => { c with ecc := [] })), by decide +kernel⟩,
   ⟨39, 35, 35, on awake, by decide +kernel⟩⟩

theorem witness_WindowsEventsAndEnginePower :
    (∃ (n : Nat) (s : State) (e : Nat) (r : Running), e < 36 ∧ n < 32 ∧ s.chip.bit 0x40030010 0 = true ∧ s.chip.eng.length = 36 ∧
      (s.chip.engine e).run = some r) ∧
    (∃ (n : Nat) (s : State) (e : Nat) (d : Desc), e < 36 ∧ n < 32 ∧ s.chip.bit 0x40030010 0 = true ∧ s.chip.eng.length = 36 ∧
      (s.chip.engine e).run = none ∧ (s.chip.engine e).pw = .up ∧ (s.chip.engine e).queue = [d] ∧ d.cls < 3 ∧ 0 < d.cost ∧ s.chip.winNames
      n e d.cls = true ∧ s.chip.waitMet d = true ∧ s.chip.roomFor e d = false) ∧
    (∃ (port : Nat) (k : Nat) (v : Word) (s : State), k < 32 ∧ s.chip.canStore port (0x40030400 + 4 * k) ∧ v.toNat < 65536) ∧
    (∃ (e : Nat) (s : State) (i : Nat), e < 36 ∧ s.chip.eng.length = 36 ∧ (s.chip.engine e).pw = .powering ∧ i ≠ 13 + e ∧ i < 64) ∧
    (∃ (e : Nat) (s : State), e < 36 ∧ s.chip.eng.length = 36 ∧ s.chip.engSet e = 0 ∧ (s.chip.engine e).pw = .up ∧ (s.chip.engine e).held
      = [] ∧ s.chip.exciting e = false) :=
  ⟨⟨31, on (awake |> (·.setBit (0x40030010) 0 true) |> (·.onEng 35 fun q => { q with run := some default })), 35, default,
     by decide +kernel⟩,
   ⟨31, on (awake |> (·.setBit (0x40030010) 0 true) |> (·.onEng ((35 : Nat)) fun q => { q with run := none }) |> (·.onEng ((35 : Nat)) fun
     q => { q with pw := .up }) |> (·.onEng ((35 : Nat)) fun q =>
     { q with queue := [((⟨0, dscr 1 11 0 0x10000 5 (area 0 0 0 0 0 0), 2, 0⟩ : Desc))] }) |> (·.setReg (0x40030804 + 0x10 * 31) (0xF)) |>
     (·.setReg (0x4003080C + 0x10 * 31) (8))), (35 : Nat), (⟨0, dscr 1 11 0 0x10000 5 (area 0 0 0 0 0 0), 2, 0⟩ : Desc),
     by decide +kernel⟩,
   ⟨39, 31, 0, on awake, by decide +kernel⟩,
   ⟨35, on (awake |> (·.onEng 35 fun q => { q with pw := .powering })), 63, by decide +kernel⟩,
   ⟨35, on awake, by decide +kernel⟩⟩

theorem witness_EngineOperationsArePerformed :
    (∃ (i : Instr) (e : Nat) (cls : Nat) (op : Nat) (work : Work) (s : State) (r : Running), ((s.chip.engine e).run = some r ∧ r.done =
      false ∧ e < 36 ∧ engClass e = cls ∧ r.d.at 0 1 = op) ∧ engineOp i = some (e, cls, op, work)) ∧
    (∃ (i : Instr) (e : Nat) (cls : Nat) (op : Nat) (work : Work) (s : State), ((s.chip.engine e).run = none) ∧ engineOp i = some (e, cls,
      op, work)) ∧
    (∃ (i : Instr) (e : Nat) (cls : Nat) (op : Nat) (work : Work) (s : State) (r : Running), ((s.chip.engine e).run = some r ∧ (r.done =
      true ∨ engClass e ≠ cls ∨ r.d.at 0 1 ≠ op)) ∧ engineOp i = some (e, cls, op, work)) ∧
    (∃ (e : Nat) (r : Running) (s : State) (ts : List Tone), 16 ≤ e ∧ e < 18 ∧ s.chip.zle.length = 2 ∧ (s.chip.engine e).run = some r ∧
      r.done = false ∧ r.d.at 0 1 = 1 ∧ (nth s.chip.zle (e - 16) default).next = none ∧ ((exciteCheck (s.chip.fld 0x4001000C 0 15) ⟨e,
      r.d.cls⟩ r.d.opnd).run s.chip).1 = .ok ts ∧ ((exciteCheck (s.chip.fld 0x4001000C 0 15) ⟨e, r.d.cls⟩ r.d.opnd).run
      s.chip).2.zle.length = 2) ∧
    (∃ (e : Nat) (r : Running) (s : State) (res : OpRes), 16 ≤ e ∧ e < 18 ∧ s.chip.zle.length = 2 ∧ (s.chip.engine e).run = some r ∧
      r.done = false ∧ r.d.at 0 1 = 1 ∧ (nth s.chip.zle (e - 16) default).next = none ∧ ((exciteCheck (s.chip.fld 0x4001000C 0 15) ⟨e,
      r.d.cls⟩ r.d.opnd).run s.chip).1 = .error res) :=
  ⟨⟨.gemm 11, 11, 1, 1, gemm false, on (awake |> (·.onEng 11 fun q =>
     { q with run := some ((⟨⟨0, dscr 1 1 0 0x10000 0 (area 0 0 0 0 0 0), 0, 0⟩, 0, false, ⟨1, 0, 0, 0, 0, 0⟩, [], []⟩ : Running)) })),
     (⟨⟨0, dscr 1 1 0 0x10000 0 (area 0 0 0 0 0 0), 0, 0⟩, 0, false, ⟨1, 0, 0, 0, 0, 0⟩, [], []⟩ : Running),
     by and_intros <;> decide +kernel, rfl⟩,
   ⟨.gemm 11, 11, 1, 1, gemm false, on (awake |> (·.onEng 11 fun q => { q with run := none })), by decide +kernel, rfl⟩,
   ⟨.gemm 11, 11, 1, 1, gemm false, on (awake |> (·.onEng 11 fun q =>
     { q with run := some ((⟨⟨0, dscr 1 1 0 0x10000 0 (area 0 0 0 0 0 0), 0, 0⟩, 0, true, ⟨1, 0, 0, 0, 0, 0⟩, [], []⟩ : Running)) })),
     (⟨⟨0, dscr 1 1 0 0x10000 0 (area 0 0 0 0 0 0), 0, 0⟩, 0, true, ⟨1, 0, 0, 0, 0, 0⟩, [], []⟩ : Running),
     by and_intros <;> decide +kernel, rfl⟩,
   ⟨17, (⟨⟨0, dscr 1 3 0 0x10000 0 (area 0x1000 0 0 0 0 0), 0, 0⟩, 0, false, ⟨1, 0, 0, 0, 0, 0⟩, [], []⟩ : Running), on (awake |> (·.onEng
     17 fun q =>
     { q with run := some ((⟨⟨0, dscr 1 3 0 0x10000 0 (area 0x1000 0 0 0 0 0), 0, 0⟩, 0, false, ⟨1, 0, 0, 0, 0, 0⟩, [], []⟩ : Running)) })),
     [], by and_intros <;> decide +kernel⟩,
   ⟨17, (⟨⟨0, dscr 1 3 0 0x10000 0 (area 0x1000 0 0 1 0 0), 0, 0⟩, 0, false, ⟨1, 0, 0, 0, 0, 0⟩, [], []⟩ : Running), on (awake |> (·.onEng
     17 fun q =>
     { q with run := some ((⟨⟨0, dscr 1 3 0 0x10000 0 (area 0x1000 0 0 1 0 0), 0, 0⟩, 0, false, ⟨1, 0, 0, 0, 0, 0⟩, [], []⟩ : Running)) })),
     ⟨1, 0, 0, 2 ^ 31 + 3 * 2 ^ 24, 0, 0⟩, by and_intros <;> decide +kernel⟩⟩

theorem witness_DataMoversMoveLocalBytes :
    (∃ (e : Nat) (r : Running) (s : State), (26 ≤ e ∧ e < 30 ∧ s.chip.eng.length = 36 ∧ (s.chip.engine e).run = some r ∧ r.done = false ∧
      r.todo = [] ∧ r.sent = [] ∧ r.res.status = 1 ∧ nbit r.d.opnd.p0 31 = false ∧ s.chip.ecc = [] ∧ (∀ g < 8, nth s.chip.power.grp g .off
      = .awake) ∧ r.d.at 0 1 = 1 ∧ (r.d.opnd).a + (r.d.opnd).p1 ≤ 0x800000 ∧ (r.d.opnd).d + (r.d.opnd).p1 ≤ 0x800000 ∧ ((r.d.opnd).a +
      (r.d.opnd).p1 ≤ (r.d.opnd).d ∨ (r.d.opnd).d + (r.d.opnd).p1 ≤ (r.d.opnd).a)) ∧ (∀ a n w, 0 < n → a + n ≤ 0x800000 → a / 64 = (a + n
      - 1) / 64 → s.chip.gate e r.d.cls a n w = .open)) ∧
    (∃ (e : Nat) (r : Running) (s : State), (26 ≤ e ∧ e < 30 ∧ s.chip.eng.length = 36 ∧ (s.chip.engine e).run = some r ∧ r.done = false ∧
      r.todo = [] ∧ r.sent = [] ∧ r.res.status = 1 ∧ nbit r.d.opnd.p0 31 = false ∧ s.chip.ecc = [] ∧ (∀ g < 8, nth s.chip.power.grp g .off
      = .awake) ∧ r.d.at 0 1 = 2 ∧ (r.d.opnd).d + (r.d.opnd).p1 ≤ 0x800000 ∧ (r.d.opnd).p1 % 4 = 0) ∧ (∀ a n w, 0 < n → a + n ≤ 0x800000 →
      a / 64 = (a + n - 1) / 64 → s.chip.gate e r.d.cls a n w = .open)) ∧
    (∃ (e : Nat) (r : Running) (s : State), (26 ≤ e ∧ e < 30 ∧ s.chip.eng.length = 36 ∧ (s.chip.engine e).run = some r ∧ r.done = false ∧
      r.todo = [] ∧ r.sent = [] ∧ r.res.status = 1 ∧ nbit r.d.opnd.p0 31 = false ∧ s.chip.ecc = [] ∧ (∀ g < 8, nth s.chip.power.grp g .off
      = .awake) ∧ r.d.at 0 1 = 3 ∧ (r.d.opnd).n0 = 1 ∧ (r.d.opnd).b + 8 ≤ 0x800000 ∧ (s.chip.peekLe (r.d.opnd).b 4) + (s.chip.peekLe
      ((r.d.opnd).b + 4) 4) ≤ 0x800000 ∧ (r.d.opnd).d + (s.chip.peekLe ((r.d.opnd).b + 4) 4) ≤ 0x800000 ∧ ((s.chip.peekLe (r.d.opnd).b 4)
      + (s.chip.peekLe ((r.d.opnd).b + 4) 4) ≤ (r.d.opnd).d ∨ (r.d.opnd).d + (s.chip.peekLe ((r.d.opnd).b + 4) 4) ≤ (s.chip.peekLe
      (r.d.opnd).b 4))) ∧ (∀ a n w, 0 < n → a + n ≤ 0x800000 → a / 64 = (a + n - 1) / 64 → s.chip.gate e r.d.cls a n w = .open)) ∧
    (∃ (e : Nat) (r : Running) (s : State), (26 ≤ e ∧ e < 30 ∧ s.chip.eng.length = 36 ∧ (s.chip.engine e).run = some r ∧ r.done = false ∧
      r.todo = [] ∧ r.sent = [] ∧ r.res.status = 1 ∧ nbit r.d.opnd.p0 31 = false ∧ s.chip.ecc = [] ∧ (∀ g < 8, nth s.chip.power.grp g .off
      = .awake) ∧ r.d.at 0 1 = 4 ∧ (r.d.opnd).n0 = 1 ∧ (r.d.opnd).b + 8 ≤ 0x800000 ∧ (s.chip.peekLe (r.d.opnd).b 4) + (s.chip.peekLe
      ((r.d.opnd).b + 4) 4) ≤ 0x800000 ∧ (r.d.opnd).a + (s.chip.peekLe ((r.d.opnd).b + 4) 4) ≤ 0x800000 ∧ ((s.chip.peekLe (r.d.opnd).b 4)
      + (s.chip.peekLe ((r.d.opnd).b + 4) 4) ≤ (r.d.opnd).a ∨ (r.d.opnd).a + (s.chip.peekLe ((r.d.opnd).b + 4) 4) ≤ (s.chip.peekLe
      (r.d.opnd).b 4))) ∧ (∀ a n w, 0 < n → a + n ≤ 0x800000 → a / 64 = (a + n - 1) / 64 → s.chip.gate e r.d.cls a n w = .open)) ∧
    (∃ (e : Nat) (r : Running) (s : State), (26 ≤ e ∧ e < 30 ∧ s.chip.eng.length = 36 ∧ (s.chip.engine e).run = some r ∧ r.done = false ∧
      r.todo = [] ∧ r.sent = [] ∧ r.res.status = 1 ∧ nbit r.d.opnd.p0 31 = false ∧ s.chip.ecc = [] ∧ (∀ g < 8, nth s.chip.power.grp g .off
      = .awake) ∧ r.d.at 0 1 = 5 ∧ (r.d.opnd).a % 8 = 0 ∧ (r.d.opnd).a + 8 ≤ 0x800000 ∧ (r.d.opnd).b + 8 ≤ 0x800000 ∧ (r.d.opnd).d + 8 ≤
      0x800000 ∧ ((r.d.opnd).a + 8 ≤ (r.d.opnd).d ∨ (r.d.opnd).d + 8 ≤ (r.d.opnd).a)) ∧ (∀ a n w, 0 < n → a + n ≤ 0x800000 → a / 64 = (a +
      n - 1) / 64 → s.chip.gate e r.d.cls a n w = .open)) :=
  ⟨⟨29, (⟨⟨0, dscr 1 8 0 0 0 (area 0x1000 0 0x7FFFC0 0 0 64), 0, 0⟩, 0, false, ⟨1, 0, 0, 0, 0, 0⟩, [], []⟩ : Running), on (awake |>
     (·.onEng 29 fun q =>
     { q with run := some ((⟨⟨0, dscr 1 8 0 0 0 (area 0x1000 0 0x7FFFC0 0 0 64), 0, 0⟩, 0, false, ⟨1, 0, 0, 0, 0, 0⟩, [], []⟩ : Running)) })
     |> (fun c => { c with ecc := [] })), by decide +kernel, fun a n w h1 h2 _ => gate_open _ _ _ a n w h1 h2 (by decide +kernel)
     (by decide +kernel) (by decide +kernel) (by decide +kernel) (by cases w <;> decide +kernel) (by decide +kernel)⟩,
   ⟨29, (⟨⟨0, dscr 2 8 0 0 0 (area 0 5 0x7FFFC0 0 0 64), 0, 0⟩, 0, false, ⟨1, 0, 0, 0, 0, 0⟩, [], []⟩ : Running), on (awake |> (·.onEng 29
     fun q =>
     { q with run := some ((⟨⟨0, dscr 2 8 0 0 0 (area 0 5 0x7FFFC0 0 0 64), 0, 0⟩, 0, false, ⟨1, 0, 0, 0, 0, 0⟩, [], []⟩ : Running)) }) |>
     (fun c => { c with ecc := [] })), by decide +kernel, fun a n w h1 h2 _ => gate_open _ _ _ a n w h1 h2 (by decide +kernel)
     (by decide +kernel) (by decide +kernel) (by decide +kernel) (by cases w <;> decide +kernel) (by decide +kernel)⟩,
   ⟨29, (⟨⟨0, dscr 3 8 0 0 0 (area 0 0x1000 0x7FFFF8 1 0 0), 0, 0⟩, 0, false, ⟨1, 0, 0, 0, 0, 0⟩, [], []⟩ : Running), on (awake |>
     (·.onEng 29 fun q =>
     { q with run := some ((⟨⟨0, dscr 3 8 0 0 0 (area 0 0x1000 0x7FFFF8 1 0 0), 0, 0⟩, 0, false, ⟨1, 0, 0, 0, 0, 0⟩, [], []⟩ : Running)) })
     |> (fun c => { c with ecc := [] }) |> (·.pokeLe (0x1000) 4 (8192)) |> (·.pokeLe (0x1004) 4 (8))), by decide +kernel, fun a n w h1 h2
     _ => gate_open _ _ _ a n w h1 h2 (by decide +kernel) (by decide +kernel) (by decide +kernel) (by decide +kernel)
     (by cases w <;> decide +kernel) (by decide +kernel)⟩,
   ⟨29, (⟨⟨0, dscr 4 8 0 0 0 (area 0x7FFFF8 0x1000 0 1 0 0), 0, 0⟩, 0, false, ⟨1, 0, 0, 0, 0, 0⟩, [], []⟩ : Running), on (awake |>
     (·.onEng 29 fun q =>
     { q with run := some ((⟨⟨0, dscr 4 8 0 0 0 (area 0x7FFFF8 0x1000 0 1 0 0), 0, 0⟩, 0, false, ⟨1, 0, 0, 0, 0, 0⟩, [], []⟩ : Running)) })
     |> (fun c => { c with ecc := [] }) |> (·.pokeLe (0x1000) 4 (8192)) |> (·.pokeLe (0x1004) 4 (8))), by decide +kernel, fun a n w h1 h2
     _ => gate_open _ _ _ a n w h1 h2 (by decide +kernel) (by decide +kernel) (by decide +kernel) (by decide +kernel)
     (by cases w <;> decide +kernel) (by decide +kernel)⟩,
   ⟨29, (⟨⟨0, dscr 5 8 0 0 0 (area 0x7FFFF8 0x1000 0x2000 0 0 0), 0, 0⟩, 0, false, ⟨1, 0, 0, 0, 0, 0⟩, [], []⟩ : Running), on (awake |>
     (·.onEng 29 fun q =>
     { q with run := some ((⟨⟨0, dscr 5 8 0 0 0 (area 0x7FFFF8 0x1000 0x2000 0 0 0), 0, 0⟩, 0, false, ⟨1, 0, 0, 0, 0, 0⟩, [], []⟩ : Running)) })
     |> (fun c => { c with ecc := [] })), by decide +kernel, fun a n w h1 h2 _ => gate_open _ _ _ a n w h1 h2 (by decide +kernel)
     (by decide +kernel) (by decide +kernel) (by decide +kernel) (by cases w <;> decide +kernel) (by decide +kernel)⟩⟩

theorem witness_ImageLoadStartsFirmwareOrFallsBack :
    (∃ (part : List (Nat × Word)) (conf : SysConf) (tags : List TagRead) (volts : List Nat) (amps : Nat) (s : State), s.chip.boot.rom ≠
      .loading) ∧
    (∃ (part : List (Nat × Word)) (conf : SysConf) (tags : List TagRead) (volts : List Nat) (amps : Nat) (s : State), s.chip.boot.rom =
      .loading ∧ (s.imageLoad part).1 = false) ∧
    (∃ (part : List (Nat × Word)) (conf : SysConf) (tags : List TagRead) (volts : List Nat) (amps : Nat) (s : State) (n : Option (List
      Byte)) (m : Option (List Byte)), (s.chip.boot.rom = .loading ∧ tags = [n, m] ∧ n = none ∧ m = none) ∧ (s.imageLoad part).1 = true ∧
      (s.imageLoad part).2.chip.ecc = []) ∧
    (∃ (part : List (Nat × Word)) (conf : SysConf) (tags : List TagRead) (volts : List Nat) (amps : Nat) (s : State), (s.chip.boot.rom =
      .loading ∧ (readTag tags).2 ≠ 0) ∧ (s.imageLoad part).1 = true ∧ (s.imageLoad part).2.chip.ecc = []) ∧
    (∃ (part : List (Nat × Word)) (conf : SysConf) (tags : List TagRead) (volts : List Nat) (amps : Nat) (s : State), (s.chip.boot.rom =
      .loading ∧ (readTag tags).2 = 0 ∧ conf.series = []) ∧ (s.imageLoad part).1 = true ∧ (s.imageLoad part).2.chip.ecc = []) ∧
    (∃ (part : List (Nat × Word)) (conf : SysConf) (tags : List TagRead) (volts : List Nat) (amps : Nat) (s : State) (n : Nat),
      (s.chip.boot.rom = .loading ∧ (readTag tags).2 = 0 ∧ conf.series = [(leAt (readTag tags).1 0x1C 4, leAt (readTag tags).1 0x18 2, n)]
      ∧ n ≠ leAt (readTag tags).1 6 1) ∧ (s.imageLoad part).1 = true ∧ (s.imageLoad part).2.chip.ecc = []) :=
  ⟨⟨[], conf0, [], [], 0, on (awake |> (fun c => { c with boot.rom := .done })), by decide +kernel⟩,
   ⟨[], conf0, [], [], 0, (fun s => { s with nvm := cells 0 (leBytes 6 0 ++ leBytes 2 0) }) (on (awake |> (fun c =>
     { c with boot.rom := .loading }))), by decide +kernel⟩,
   ⟨[], conf0, [none, none], [], 0, imageState, none, none, by decide +kernel, image_loads.1, image_loads.2⟩,
   ⟨[], conf0, [none, none], [], 0, imageState, by decide +kernel, image_loads.1, image_loads.2⟩,
   ⟨[], { (conf0 : SysConf) with series := [] }, [some tagBytes, none], [], 0, imageState, by decide +kernel, image_loads.1,
     image_loads.2⟩,
   ⟨[], { conf0 with series := [(0, 0, 6)] }, [some tagBytes, none], [], 0, imageState, 6, by decide +kernel, image_loads.1,
     image_loads.2⟩⟩

theorem witness_StepsVectorsAndLocketsFollowTheirBoundaries :
    (∃ (late : Bool) (k : SysConf) (s : State), s.chip.fw.conf = some k ∧ s.chip.fwRuns = true ∧ (s.chip.fw.started = true ∨
      s.chip.firstReady = false)) ∧
    (∃ (late : Bool) (k : SysConf) (s : State), s.chip.fw.conf = some k ∧ s.chip.fwRuns = true ∧ s.chip.fw.started = false ∧
      s.chip.firstReady = true ∧ (s.chip.ownStep k s.chip.fullUs late).power.mode = .start) ∧
    (∃ (late : Bool) (k : SysConf) (s : State), s.chip.fw.conf = some k ∧ s.chip.fwRuns = true ∧ s.chip.fw.started = false ∧
      s.chip.firstReady = true ∧ (s.chip.ownStep k s.chip.fullUs late).power.mode ≠ .start) ∧
    (∃ (late : Bool) (k : SysConf) (us : Nat) (rtc : Nat) (s : State), s.chip.fw.conf = some k ∧ s.chip.fwRuns = true ∧ s.chip.fw.started
      = true ∧ s.chip.fw.bound = some (us, rtc) ∧ (s.chip.power.mode ≠ .run ∨ ((s.chip.fullUs / s.chip.period k * s.chip.period k) ≤ us ∧
      us ≤ s.chip.fullUs))) ∧
    (∃ (late : Bool) (k : SysConf) (us : Nat) (rtc : Nat) (s : State), s.chip.fw.conf = some k ∧ s.chip.fwRuns = true ∧ s.chip.fw.started
      = true ∧ s.chip.fw.bound = some (us, rtc) ∧ s.chip.power.mode = .run ∧ (us < (s.chip.fullUs / s.chip.period k * s.chip.period k) ∨
      s.chip.fullUs < us) ∧ (s.chip.ownStep k (s.chip.fullUs / s.chip.period k * s.chip.period k) late).active = false) ∧
    (∃ (owner : Nat) (late : Bool) (brought : List (Nat × Option (List Byte))) (back : Bool) (k : SysConf) (s : State), s.chip.fw.conf =
      some k ∧ s.chip.fwRuns = true ∧ owner < 1024 ∧ (s.chip.power.mode ≠ .run ∨ leAt (s.chip.peekN (k.vecIn + 256 * owner) 192) 0 2 ≠
      owner ∨ s.chip.hlId = some owner ∨ (Sparse.find owner s.chip.fw.vecSeq) = some ((leAt (s.chip.peekN (k.vecIn + 256 * owner) 192)
      0x14 4 + 1) % 2 ^ 32))) ∧
    (∃ (owner : Nat) (late : Bool) (brought : List (Nat × Option (List Byte))) (back : Bool) (k : SysConf) (s : State), s.chip.fw.conf =
      some k ∧ s.chip.fwRuns = true ∧ owner < 1024 ∧ s.chip.power.mode = .run ∧ leAt (s.chip.peekN (k.vecIn + 256 * owner) 192) 0 2 =
      owner ∧ s.chip.hlId ≠ some owner ∧ 6 ≤ leAt (s.chip.peekN (k.vecIn + 256 * owner) 192) 2 1 ∧ leAt (s.chip.peekN (k.vecIn + 256 *
      owner) 192) 2 1 ≤ 20 ∧ (Sparse.find owner s.chip.fw.vecSeq) ≠ some ((leAt (s.chip.peekN (k.vecIn + 256 * owner) 192) 0x14 4 + 1) % 2
      ^ 32) ∧ s.chip.isMgr = false ∧ s.chip.fw.buddy ≠ some owner ∧ (∀ t ∈ s.chip.fw.taken, t.ref % 1024 ≠ owner)) ∧
    (∃ (tap : Nat) (k : SysConf) (s : State) (l : Locket), s.chip.fw.conf = some k ∧ s.chip.fwRuns = true ∧ (tap < 20 ∧ tap <
      s.chip.fw.series ∧ ctxLive (s.chip.ctx k tap) = true ∧ 2 ≤ leAt (s.chip.ctx k tap) 0x0B 1) ∧ s.chip.stagedLocket k tap = some l) ∧
    (∃ (tap : Nat) (k : SysConf) (s : State), s.chip.fw.conf = some k ∧ s.chip.fwRuns = true ∧ (¬ (tap < 20 ∧ tap < s.chip.fw.series ∧
      ctxLive (s.chip.ctx k tap) = true ∧ 2 ≤ leAt (s.chip.ctx k tap) 0x0B 1) ∨ s.chip.stagedLocket k tap = none)) ∧
    (∃ (i : Nat) (k : SysConf) (s : State), (s.chip.fw.conf = some k ∧ s.chip.fwRuns = true ∧ i < s.chip.slotCount ∧ ctxLive (s.chip.ctx k
      i) = true ∧ s.chip.isStaging i = false ∧ s.chip.copyRuns (ctxAt k i) = false ∧ s.chip.xspi = none) ∧ (s.chip.makeLocket k
      (s.chip.ctx k i)).length ≤ 3840) :=
  ⟨⟨false, conf0, on (awake |> (fun c => { c with fw.conf := some conf0 }) |> (fun c => { c with fw.started := true })),
     by decide +kernel⟩,
   ⟨false, conf0, on (awake |> (fun c => { c with fw.conf := some conf0 }) |> (fun c => { c with fw.started := false }) |> (·.setBit
     0x40010000 1 true) |> (fun c => { c with power.mode := .start })), by decide +kernel⟩,
   ⟨false, conf0, on (awake |> (fun c => { c with fw.conf := some conf0 }) |> (fun c => { c with fw.started := false }) |> (·.setBit
     0x40010000 1 true)), by decide +kernel⟩,
   ⟨false, conf0, 0, 0, on (awake |> (fun c => { c with fw.conf := some conf0 }) |> (fun c => { c with fw.started := true }) |> (fun c =>
     { c with fw.bound := some (0, 0) }) |> (fun c => { c with power.mode := .scan })), by decide +kernel⟩,
   ⟨false, conf0, 0, 0, on (awake |> (fun c => { c with fw.conf := some conf0 }) |> (fun c => { c with fw.started := true }) |> (fun c =>
     { c with fw.bound := some (0, 0) }) |> (fun c => { c with power.mode := .run }) |> (fun c => { c with clocks.packNs := 200000000 })),
     by decide +kernel⟩,
   ⟨1023, false, [], false, conf0, on (awake |> (fun c => { c with fw.conf := some conf0 }) |> (fun c => { c with power.mode := .scan })),
     by decide +kernel⟩,
   ⟨1021, false, [], false, conf0, on (awake |> (fun c => { c with fw.conf := some conf0 }) |> (fun c => { c with power.mode := .run }) |>
     (fun c => { c with boot.role := 0 }) |> (·.pokeLe (0x300000 + 256 * 1021) 2 (1021)) |> (·.pokeLe (0x300000 + 256 * 1021 + 2) 1
     (20))), by decide +kernel⟩,
   ⟨19, conf0, on (awake |> (fun c => { c with fw.conf := some conf0 }) |> (fun c => { c with fw.series := 20 }) |> (fun c =>
     { c with fw.tag := List.replicate 256 0 }) |> (fun c => { c with fw.tagStat := 0 }) |> (fun c => { c with mem := lockets })), ⟨0, 0,
     List.replicate 8 0, List.replicate 2048 0⟩, by decide +kernel⟩,
   ⟨0, conf0, on (awake |> (fun c => { c with fw.conf := some conf0 })), by decide +kernel⟩,
   ⟨255, conf0, on (awake |> (fun c => { c with fw.conf := some conf0 }) |> (fun c => { c with xspi := none }) |> (withCtx conf0 255 1 1
     0)), by decide +kernel, Nat.le_trans (makeLocket_fits _ _ _) (by decide)⟩⟩

theorem witness_LinkPortsFollowTheirStates :
    (∃ (p : Nat) (s : State) (port : Nat) (v : Word), p < 4 ∧ s.chip.hl.ports.length = 4 ∧ s.chip.canStore port (0x40040100 + 0x40 * p) ∧
      bit v 3 = true ∧ v.toNat < 16 ∧ fld v 0 3 ≠ 0 ∧ (s.chip.fld 0x40000028 (2 * p) 2 = 0)) ∧
    (∃ (p : Nat) (s : State) (m : Nat) (lanes : Nat) (id : Nat) (valid : Bool), p < 4 ∧ s.chip.hl.ports.length = 4 ∧ (fld (s.chip.reg
      (hlStat p)) 0 3) ≠ 1) ∧
    (∃ (p : Nat) (s : State) (m : Nat) (lanes : Nat) (id : Nat) (valid : Bool) (q : Nat), p < 4 ∧ s.chip.hl.ports.length = 4 ∧ (fld
      (s.chip.reg (hlStat p)) 0 3) = 1 ∧ id < 1024 ∧ q ≠ p) ∧
    (∃ (p : Nat) (s : State) (lane1 : Bool), p < 4 ∧ s.chip.hl.ports.length = 4 ∧ ((fld (s.chip.reg (hlStat p)) 0 3) ≠ 1 ∨ (s.chip.hlPort
      p).gen = 0)) ∧
    (∃ (p : Nat) (s : State) (lane1 : Bool), p < 4 ∧ s.chip.hl.ports.length = 4 ∧ (fld (s.chip.reg (hlStat p)) 0 3) = 1 ∧ (s.chip.hlPort
      p).gen ≠ 0 ∧ lane1 = true) ∧
    (∃ (p : Nat) (s : State) (lane1 : Bool), p < 4 ∧ s.chip.hl.ports.length = 4 ∧ (fld (s.chip.reg (hlStat p)) 0 3) = 1 ∧ (s.chip.hlPort
      p).gen ≠ 0 ∧ lane1 = false) ∧
    (∃ (p : Nat) (s : State), p < 4 ∧ s.chip.hl.ports.length = 4 ∧ (fld (s.chip.reg (hlStat p)) 0 3) = 1 ∧ (s.chip.hlPort p).gen ≠ 0 ∧
      (s.chip.hlPort p).gen < 4) ∧
    (∃ (p : Nat) (s : State), p < 4 ∧ s.chip.hl.ports.length = 4 ∧ (fld (s.chip.reg (hlStat p)) 0 3) ≠ 4) ∧
    (∃ (p : Nat) (s : State), p < 4 ∧ s.chip.hl.ports.length = 4 ∧ (fld (s.chip.reg (hlStat p)) 0 3) = 4) ∧
    (∃ (p : Nat) (s : State), p < 4 ∧ s.chip.hl.ports.length = 4 ∧ ((fld (s.chip.reg (hlStat p)) 0 3) ≠ 3 ∨ ¬ (s.chip.fld 0x40000028 (2 *
      p) 2 = 0))) ∧
    (∃ (p : Nat) (s : State), p < 4 ∧ s.chip.hl.ports.length = 4 ∧ (fld (s.chip.reg (hlStat p)) 0 3) = 3 ∧ (s.chip.fld 0x40000028 (2 * p)
      2 = 0)) ∧
    (∃ (p : Nat) (s : State), p < 4 ∧ s.chip.hl.ports.length = 4 ∧ (fld (s.chip.reg (hlStat p)) 0 3) ≠ 2) ∧
    (∃ (p : Nat) (s : State) (lost : Bool) (q : Nat), p < 4 ∧ s.chip.hl.ports.length = 4 ∧ (fld (s.chip.reg (hlStat p)) 0 3) = 2 ∧
      s.chip.fld 0x40000028 (2 * p) 2 ≠ 2 ∧ (lost = true ∨ 8 ≤ (s.chip.hlPort p).replays) ∧ q ≠ p) :=
  ⟨⟨3, on (awake |> (·.setFld (0x40000028) (2 * 3) 2 0)), 39, putFld (putFld (0) (3) 1 (1)) (0) 3 ((if 0 = 0 then 1 else 0)),
     by decide +kernel⟩,
   ⟨3, on (awake |> (·.setFld ((hlStat 3)) 0 3 (if 1 = 0 then 1 else 0))), 0, 0, 0, false, by decide +kernel⟩,
   ⟨3, on (awake |> (·.setFld ((hlStat 3)) 0 3 1)), 0, 0, 1023, false, 0, by decide +kernel⟩,
   ⟨3, on (awake |> (·.setFld ((hlStat 3)) 0 3 (if 1 = 0 then 1 else 0))), false, by decide +kernel⟩,
   ⟨3, on (awake |> (·.setFld ((hlStat 3)) 0 3 1) |> (·.onPort 3 fun q => { q with gen := 1 })), true, by decide +kernel⟩,
   ⟨3, on (awake |> (·.setFld ((hlStat 3)) 0 3 1) |> (·.onPort 3 fun q => { q with gen := 1 })), false, by decide +kernel⟩,
   ⟨3, on (awake |> (·.setFld ((hlStat 3)) 0 3 1) |> (·.onPort 3 fun q => { q with gen := 1 })), by decide +kernel⟩,
   ⟨3, on (awake |> (·.setFld ((hlStat 3)) 0 3 (if 4 = 0 then 1 else 0))), by decide +kernel⟩,
   ⟨3, on (awake |> (·.setFld ((hlStat 3)) 0 3 4)), by decide +kernel⟩,
   ⟨3, on (awake |> (·.setFld ((hlStat 3)) 0 3 (if 3 = 0 then 1 else 0))), by decide +kernel⟩,
   ⟨3, on (awake |> (·.setFld ((hlStat 3)) 0 3 3) |> (·.setFld (0x40000028) (2 * 3) 2 0)), by decide +kernel⟩,
   ⟨3, on (awake |> (·.setFld ((hlStat 3)) 0 3 (if 2 = 0 then 1 else 0))), by decide +kernel⟩,
   ⟨3, on (awake |> (·.setFld ((hlStat 3)) 0 3 2) |> (·.setFld (0x40000028) (2 * 3) 2 (if 2 = 0 then 1 else 0))), true, 0,
     by decide +kernel⟩⟩

theorem witness_LinkLayerAcknowledgesAndReplays :
    (∃ (p : Nat) (s : State) (w : List Byte), p < 4 ∧ s.chip.hl.ports.length = 4 ∧ s.chip.hlState p ≠ 2) ∧
    (∃ (p : Nat) (s : State), p < 4 ∧ s.chip.hl.ports.length = 4 ∧ s.chip.hlState p = 2 ∧ (s.chip.hlPort p).replay.length < 128 ∧ (match
      s.chip.vcPick p 0 with | some o => some o | none => (s.chip.drr p 64 (s.chip.hlPort p)).map (·.1)) = none) ∧
    (∃ (p : Nat) (s : State) (o : OutPkt), p < 4 ∧ s.chip.hl.ports.length = 4 ∧ s.chip.hlState p = 2 ∧ (s.chip.hlPort p).replay.length <
      128 ∧ (match s.chip.vcPick p 0 with | some o => some o | none => (s.chip.drr p 64 (s.chip.hlPort p)).map (·.1)) = some o ∧ nth
      s.chip.sec.linkKeys p none = none ∧ o.src = 0 ∧ o.pkt.kind ≠ 8) ∧
    (∃ (p : Nat) (s : State) (w : List Byte), p < 4 ∧ s.chip.hl.ports.length = 4 ∧ s.chip.hlState p = 2 ∧ ctlOk 1 w = false) ∧
    (∃ (p : Nat) (s : State) (w : List Byte), p < 4 ∧ s.chip.hl.ports.length = 4 ∧ s.chip.hlState p = 2 ∧ ctlOk 2 w = false) ∧
    (∃ (p : Nat) (s : State) (w : List Byte), p < 4 ∧ s.chip.hl.ports.length = 4 ∧ s.chip.hlState p = 2 ∧ (ctlOk 3 w = false ∨ 4 ≤ leAt w
      1 1)) ∧
    (∃ (p : Nat) (s : State) (w : List Byte) (q : Nat), p < 4 ∧ s.chip.hl.ports.length = 4 ∧ s.chip.hlState p = 2 ∧ ctlOk 1 w = true ∧ q ≠
      p) ∧
    (∃ (p : Nat) (s : State) (w : List Byte), p < 4 ∧ s.chip.hl.ports.length = 4 ∧ s.chip.hlState p = 2 ∧ ctlOk 2 w = true ∧
      (((s.chip.hlPort p).acked (leAt w 1 2 % 4096)).replay) ≠ []) ∧
    (∃ (p : Nat) (s : State) (w : List Byte), p < 4 ∧ s.chip.hl.ports.length = 4 ∧ s.chip.hlState p = 2 ∧ ctlOk 3 w = true ∧ leAt w 1 1 <
      4) ∧
    (∃ (p : Nat) (s : State), p < 4 ∧ s.chip.hl.ports.length = 4 ∧ s.chip.hlState p = 2 ∧ (s.chip.hlPort p).unacked ≠ 0) ∧
    (∃ (p : Nat) (s : State), p < 4 ∧ s.chip.hl.ports.length = 4 ∧ s.chip.hlState p = 2 ∧ (s.chip.hlPort p).replay = []) ∧
    (∃ (p : Nat) (s : State), p < 4 ∧ s.chip.hl.ports.length = 4 ∧ s.chip.hlState p = 2 ∧ (s.chip.hlPort p).replay ≠ []) :=
  ⟨⟨3, on (awake |> (·.setFld (hlStat 3) 0 3 0)), [], by decide +kernel⟩,
   ⟨3, on (awake |> (·.setFld (hlStat 3) 0 3 2)), by decide +kernel⟩,
   ⟨3, on (awake |> (·.setFld (hlStat 3) 0 3 2) |> linked [5] |> (·.onPort 3 fun q =>
     { q with credits := [64, 64, 64, 64], queue := [⟨Pkt.make 0 0 0 5 0 7 1 0x100 4 [], 0, 0, 0, false, none⟩] })), ⟨Pkt.make 0 0 0 5 0 7
     1 0x100 4 [], 0, 0, 0, false, none⟩, by decide +kernel⟩,
   ⟨3, on (awake |> (·.setFld (hlStat 3) 0 3 2)), [], by decide +kernel⟩,
   ⟨3, on (awake |> (·.setFld (hlStat 3) 0 3 2)), [], by decide +kernel⟩,
   ⟨3, on (awake |> (·.setFld (hlStat 3) 0 3 2)), [], by decide +kernel⟩,
   ⟨3, on (awake |> (·.setFld (hlStat 3) 0 3 2)), ctlWord 1 [0, 0], 0, by decide +kernel⟩,
   ⟨3, on (awake |> (·.setFld (hlStat 3) 0 3 2) |> (·.onPort 3 fun q =>
     { q with replay := [⟨Pkt.make 0 0 0 5 0 7 1 0x100 4 [], 0, 0, 0, false, none⟩] })), ctlWord 2 [255, 255], by decide +kernel⟩,
   ⟨3, on (awake |> (·.setFld (hlStat 3) 0 3 2)), ctlWord 3 [3, 1], by decide +kernel⟩,
   ⟨3, on (awake |> (·.setFld (hlStat 3) 0 3 2) |> (·.onPort 3 fun q => { q with unacked := 1 })), by decide +kernel⟩,
   ⟨3, on (awake |> (·.setFld (hlStat 3) 0 3 2) |> (·.onPort 3 fun q => { q with replay := [] })), by decide +kernel⟩,
   ⟨3, on (awake |> (·.setFld (hlStat 3) 0 3 2) |> (·.onPort 3 fun q =>
     { q with replay := [⟨Pkt.make 0 0 0 5 0 7 1 0x100 4 [], 0, 0, 0, false, none⟩] })), by decide +kernel⟩⟩

theorem witness_ReceivedPacketsAreCheckedAndPlaced :
    (∃ (p : Nat) (bytes : List Byte) (s : State), p < 4 ∧ s.chip.hl.ports.length = 4 ∧ s.chip.hlState p ≠ 2) ∧
    (∃ (p : Nat) (bytes : List Byte) (s : State), p < 4 ∧ s.chip.hl.ports.length = 4 ∧ s.chip.hlState p = 2 ∧ ((bytes.length) < 20 ∨
      ((leAt bytes ((bytes.length) - 4) 4) ≠ (crc32 (bytes.take ((bytes.length) - 4))) ∧ (leAt bytes ((bytes.length) - 4) 4) ≠ (crc32
      (bytes.take ((bytes.length) - 4))) ^^^ 0xFFFFFFFF))) ∧
    (∃ (p : Nat) (bytes : List Byte) (s : State), p < 4 ∧ s.chip.hl.ports.length = 4 ∧ s.chip.hlState p = 2 ∧ 20 ≤ (bytes.length) ∧ ((leAt
      bytes ((bytes.length) - 4) 4) = (crc32 (bytes.take ((bytes.length) - 4))) ∨ (leAt bytes ((bytes.length) - 4) 4) = (crc32 (bytes.take
      ((bytes.length) - 4))) ^^^ 0xFFFFFFFF) ∧ leAt bytes 12 4 % 4096 ≠ (s.chip.hlPort p).rxSeq) ∧
    (∃ (p : Nat) (bytes : List Byte) (s : State), p < 4 ∧ s.chip.hl.ports.length = 4 ∧ s.chip.hlState p = 2 ∧ 20 ≤ (bytes.length) ∧ leAt
      bytes 12 4 % 4096 = (s.chip.hlPort p).rxSeq ∧ (leAt bytes ((bytes.length) - 4) 4) = (crc32 (bytes.take ((bytes.length) - 4))) ^^^
      0xFFFFFFFF) ∧
    (∃ (p : Nat) (bytes : List Byte) (s : State), p < 4 ∧ s.chip.hl.ports.length = 4 ∧ s.chip.hlState p = 2 ∧ 20 ≤ (bytes.length) ∧ leAt
      bytes 12 4 % 4096 = (s.chip.hlPort p).rxSeq ∧ (leAt bytes ((bytes.length) - 4) 4) = (crc32 (bytes.take ((bytes.length) - 4))) ∧
      (leAt bytes ((bytes.length) - 4) 4) ≠ (crc32 (bytes.take ((bytes.length) - 4))) ^^^ 0xFFFFFFFF ∧ ((⟨bytes.take 16, slice bytes 16
      (32 * (⟨bytes.take 16, []⟩ : Pkt).len)⟩ : Pkt)).wellFormed = false) ∧
    (∃ (p : Nat) (bytes : List Byte) (s : State), p < 4 ∧ s.chip.hl.ports.length = 4 ∧ s.chip.hlState p = 2 ∧ 20 ≤ (bytes.length) ∧ leAt
      bytes 12 4 % 4096 = (s.chip.hlPort p).rxSeq ∧ (leAt bytes ((bytes.length) - 4) 4) = (crc32 (bytes.take ((bytes.length) - 4))) ∧
      (leAt bytes ((bytes.length) - 4) 4) ≠ (crc32 (bytes.take ((bytes.length) - 4))) ^^^ 0xFFFFFFFF ∧ ((⟨bytes.take 16, slice bytes 16
      (32 * (⟨bytes.take 16, []⟩ : Pkt).len)⟩ : Pkt)).wellFormed = true ∧ (bytes.length) = ((⟨bytes.take 16, slice bytes 16 (32 *
      (⟨bytes.take 16, []⟩ : Pkt).len)⟩ : Pkt)).size ((⟨bytes.take 16, slice bytes 16 (32 * (⟨bytes.take 16, []⟩ : Pkt).len)⟩ : Pkt)).auth
      ∧ (((⟨bytes.take 16, slice bytes 16 (32 * (⟨bytes.take 16, []⟩ : Pkt).len)⟩ : Pkt)).vc = 1 ∨ ((⟨bytes.take 16, slice bytes 16 (32 *
      (⟨bytes.take 16, []⟩ : Pkt).len)⟩ : Pkt)).vc = 3) ∧ s.chip.hlId = some ((⟨bytes.take 16, slice bytes 16 (32 * (⟨bytes.take 16, []⟩ :
      Pkt).len)⟩ : Pkt)).dst ∧ (3 ≤ ((⟨bytes.take 16, slice bytes 16 (32 * (⟨bytes.take 16, []⟩ : Pkt).len)⟩ : Pkt)).kind ∨
      s.chip.hl.accept = true)) ∧
    (∃ (p : Nat) (bytes : List Byte) (s : State), p < 4 ∧ s.chip.hl.ports.length = 4 ∧ s.chip.hlState p = 2 ∧ 20 ≤ (bytes.length) ∧ leAt
      bytes 12 4 % 4096 = (s.chip.hlPort p).rxSeq ∧ (leAt bytes ((bytes.length) - 4) 4) = (crc32 (bytes.take ((bytes.length) - 4))) ∧
      (leAt bytes ((bytes.length) - 4) 4) ≠ (crc32 (bytes.take ((bytes.length) - 4))) ^^^ 0xFFFFFFFF ∧ ((⟨bytes.take 16, slice bytes 16
      (32 * (⟨bytes.take 16, []⟩ : Pkt).len)⟩ : Pkt)).wellFormed = true ∧ (bytes.length) = ((⟨bytes.take 16, slice bytes 16 (32 *
      (⟨bytes.take 16, []⟩ : Pkt).len)⟩ : Pkt)).size ((⟨bytes.take 16, slice bytes 16 (32 * (⟨bytes.take 16, []⟩ : Pkt).len)⟩ : Pkt)).auth
      ∧ (((⟨bytes.take 16, slice bytes 16 (32 * (⟨bytes.take 16, []⟩ : Pkt).len)⟩ : Pkt)).vc = 1 ∨ ((⟨bytes.take 16, slice bytes 16 (32 *
      (⟨bytes.take 16, []⟩ : Pkt).len)⟩ : Pkt)).vc = 3) ∧ s.chip.hlId = some ((⟨bytes.take 16, slice bytes 16 (32 * (⟨bytes.take 16, []⟩ :
      Pkt).len)⟩ : Pkt)).dst ∧ ((⟨bytes.take 16, slice bytes 16 (32 * (⟨bytes.take 16, []⟩ : Pkt).len)⟩ : Pkt)).kind ≤ 2 ∧
      s.chip.hl.accept = false) ∧
    (∃ (p : Nat) (bytes : List Byte) (s : State), p < 4 ∧ s.chip.hl.ports.length = 4 ∧ s.chip.hlState p = 2 ∧ 20 ≤ (bytes.length) ∧ leAt
      bytes 12 4 % 4096 = (s.chip.hlPort p).rxSeq ∧ (leAt bytes ((bytes.length) - 4) 4) = (crc32 (bytes.take ((bytes.length) - 4))) ∧
      (leAt bytes ((bytes.length) - 4) 4) ≠ (crc32 (bytes.take ((bytes.length) - 4))) ^^^ 0xFFFFFFFF ∧ ((⟨bytes.take 16, slice bytes 16
      (32 * (⟨bytes.take 16, []⟩ : Pkt).len)⟩ : Pkt)).wellFormed = true ∧ (bytes.length) = ((⟨bytes.take 16, slice bytes 16 (32 *
      (⟨bytes.take 16, []⟩ : Pkt).len)⟩ : Pkt)).size ((⟨bytes.take 16, slice bytes 16 (32 * (⟨bytes.take 16, []⟩ : Pkt).len)⟩ : Pkt)).auth
      ∧ (((⟨bytes.take 16, slice bytes 16 (32 * (⟨bytes.take 16, []⟩ : Pkt).len)⟩ : Pkt)).vc = 1 ∨ ((⟨bytes.take 16, slice bytes 16 (32 *
      (⟨bytes.take 16, []⟩ : Pkt).len)⟩ : Pkt)).vc = 3) ∧ s.chip.hlId ≠ some ((⟨bytes.take 16, slice bytes 16 (32 * (⟨bytes.take 16, []⟩ :
      Pkt).len)⟩ : Pkt)).dst ∧ 31 ≤ ((⟨bytes.take 16, slice bytes 16 (32 * (⟨bytes.take 16, []⟩ : Pkt).len)⟩ : Pkt)).hops) ∧
    (∃ (p : Nat) (bytes : List Byte) (s : State) (q : Nat), p < 4 ∧ s.chip.hl.ports.length = 4 ∧ s.chip.hlState p = 2 ∧ 20 ≤
      (bytes.length) ∧ leAt bytes 12 4 % 4096 = (s.chip.hlPort p).rxSeq ∧ (leAt bytes ((bytes.length) - 4) 4) = (crc32 (bytes.take
      ((bytes.length) - 4))) ∧ (leAt bytes ((bytes.length) - 4) 4) ≠ (crc32 (bytes.take ((bytes.length) - 4))) ^^^ 0xFFFFFFFF ∧
      ((⟨bytes.take 16, slice bytes 16 (32 * (⟨bytes.take 16, []⟩ : Pkt).len)⟩ : Pkt)).wellFormed = true ∧ (bytes.length) = ((⟨bytes.take
      16, slice bytes 16 (32 * (⟨bytes.take 16, []⟩ : Pkt).len)⟩ : Pkt)).size ((⟨bytes.take 16, slice bytes 16 (32 * (⟨bytes.take 16, []⟩
      : Pkt).len)⟩ : Pkt)).auth ∧ (((⟨bytes.take 16, slice bytes 16 (32 * (⟨bytes.take 16, []⟩ : Pkt).len)⟩ : Pkt)).vc = 1 ∨ ((⟨bytes.take
      16, slice bytes 16 (32 * (⟨bytes.take 16, []⟩ : Pkt).len)⟩ : Pkt)).vc = 3) ∧ s.chip.hlId ≠ some ((⟨bytes.take 16, slice bytes 16 (32
      * (⟨bytes.take 16, []⟩ : Pkt).len)⟩ : Pkt)).dst ∧ ((⟨bytes.take 16, slice bytes 16 (32 * (⟨bytes.take 16, []⟩ : Pkt).len)⟩ :
      Pkt)).hops < 31 ∧ s.chip.bit 0x40040008 0 = true ∧ s.chip.route ((⟨bytes.take 16, slice bytes 16 (32 * (⟨bytes.take 16, []⟩ :
      Pkt).len)⟩ : Pkt)).dst ((⟨bytes.take 16, slice bytes 16 (32 * (⟨bytes.take 16, []⟩ : Pkt).len)⟩ : Pkt)).vc = some q) :=
  ⟨⟨3, [], on (awake |> (·.setFld (hlStat 3) 0 3 0)), by decide +kernel⟩,
   ⟨3, [], on (awake |> (·.setFld (hlStat 3) 0 3 2)), by decide +kernel⟩,
   ⟨3, ((Pkt.make 0 0 0 7 0 5 1 0x100 4 []).withLink 4095 0).wire [] false, on (awake |> (·.setFld (hlStat 3) 0 3 2)), by decide +kernel⟩,
   ⟨3, ((Pkt.make 0 0 0 7 0 5 1 0x100 4 []).withLink 0 0).wire [] true, on (awake |> (·.setFld (hlStat 3) 0 3 2)), by decide +kernel⟩,
   ⟨3, ((Pkt.make 9 0 0 7 0 5 1 0x100 4 []).withLink 0 0).wire [] false, on (awake |> (·.setFld (hlStat 3) 0 3 2)), by decide +kernel⟩,
   ⟨3, ((Pkt.make 3 3 0 7 0 5 1 0x100 4 (List.replicate 4 1)).withLink 0 0).wire [] false, on (awake |> (·.setFld (hlStat 3) 0 3 2) |>
     linked []), by decide +kernel⟩,
   ⟨3, ((Pkt.make 0 3 0 7 0 5 1 0x100 4 []).withLink 0 0).wire [] false, on (awake |> (·.setFld (hlStat 3) 0 3 2) |> (fun c =>
     { c with hl.accept := false }) |> linked []), by decide +kernel⟩,
   ⟨3, (let k := (Pkt.make 3 3 0 5 0 6 1 0x100 4 (List.replicate 4 1)); let k : Pkt := { k with hdr := splice k.hdr 1 [31] }; k.wire []
     false), on (awake |> (·.setFld (hlStat 3) 0 3 2) |> linked [5]), by decide +kernel⟩,
   ⟨2, ((Pkt.make 3 3 0 5 0 5 1 0x100 4 (List.replicate 4 1)).withLink 0 0).wire [] false, on (awake |> linked [5] |> (·.setFld (hlStat 2)
     0 3 2) |> (·.setBit (0x40040008) 0 true)), 3, by decide +kernel⟩⟩

theorem witness_RequestsAreExecutedAndAnswered :
    (∃ (s : State) (n : Nat), n < 4 ∧ s.chip.hl.ports.length = 4 ∧ s.chip.ecc = [] ∧ (∀ g < 8, nth s.chip.power.grp g .off = .awake) ∧
      (s.chip.hl.inbox.find? fun x => [n].contains x.pkt.kind) = none) ∧
    (∃ (s : State) (n : Nat) (d : Delivered), n < 3 ∧ s.chip.hl.ports.length = 4 ∧ s.chip.ecc = [] ∧ (∀ g < 8, nth s.chip.power.grp g .off
      = .awake) ∧ (s.chip.hl.inbox.find? fun x => [n].contains x.pkt.kind) = some d ∧ 2000 < d.pkt.age) ∧
    (∃ (s : State) (d : Delivered), s.chip.hl.ports.length = 4 ∧ s.chip.ecc = [] ∧ (∀ g < 8, nth s.chip.power.grp g .off = .awake) ∧
      (s.chip.hl.inbox.find? fun x => [0].contains x.pkt.kind) = some d ∧ d.pkt.age ≤ 2000 ∧ d.pkt.addr + d.pkt.bytes ≤ 0x800000 ∧
      s.chip.gate (43 + d.port) d.pkt.fabricCls d.pkt.addr d.pkt.bytes false = .open ∧ (s.chip.route d.pkt.src d.pkt.vc).isSome) ∧
    (∃ (s : State) (d : Delivered) (x : Dedup) (r : Pkt), s.chip.hl.ports.length = 4 ∧ s.chip.ecc = [] ∧ (∀ g < 8, nth s.chip.power.grp g
      .off = .awake) ∧ ((s.chip.hl.inbox.find? fun x => [1].contains x.pkt.kind) = some d ∨ (s.chip.hl.inbox.find? fun x => [2].contains
      x.pkt.kind) = some d) ∧ d.pkt.age ≤ 2000 ∧ ((s.chip.hl.dedup.find? fun x => decide (x.src = d.pkt.src ∧ x.tag = d.pkt.tag)) = some
      x) ∧ x.resp = some r ∧ r.dst = d.pkt.src ∧ r.vc = d.pkt.vc ∧ (s.chip.route d.pkt.src d.pkt.vc).isSome) ∧
    (∃ (s : State) (d : Delivered), s.chip.hl.ports.length = 4 ∧ s.chip.ecc = [] ∧ (∀ g < 8, nth s.chip.power.grp g .off = .awake) ∧
      (s.chip.hl.inbox.find? fun x => [1].contains x.pkt.kind) = some d ∧ d.pkt.age ≤ 2000 ∧ d.pkt.attempt = 0 ∧ d.pkt.addr + d.pkt.bytes
      ≤ 0x800000 ∧ (∀ x ∈ s.chip.hl.dedup, ¬ (x.src = d.pkt.src ∧ x.tag = d.pkt.tag)) ∧ d.pkt.bytes ≤ d.pkt.pay.length ∧ s.chip.gate (43 +
      d.port) d.pkt.fabricCls d.pkt.addr d.pkt.bytes true = .open ∧ (s.chip.route d.pkt.src d.pkt.vc).isSome) ∧
    (∃ (s : State) (d : Delivered), s.chip.hl.ports.length = 4 ∧ s.chip.ecc = [] ∧ (∀ g < 8, nth s.chip.power.grp g .off = .awake) ∧
      (s.chip.hl.inbox.find? fun x => [2].contains x.pkt.kind) = some d ∧ d.pkt.age ≤ 2000 ∧ d.pkt.addr % 8 = 0 ∧ d.pkt.addr < 0x800000 ∧
      s.chip.hl.dedup.length < 4096 ∧ (∀ x ∈ s.chip.hl.dedup, ¬ (x.src = d.pkt.src ∧ x.tag = d.pkt.tag)) ∧ (∀ w, s.chip.gate (43 + d.port)
      d.pkt.fabricCls d.pkt.addr 8 w = .open) ∧ (s.chip.route d.pkt.src d.pkt.vc).isSome) ∧
    (∃ (s : State) (d : Delivered), s.chip.hl.ports.length = 4 ∧ s.chip.ecc = [] ∧ (∀ g < 8, nth s.chip.power.grp g .off = .awake) ∧
      (s.chip.hl.inbox.find? fun x => [3].contains x.pkt.kind) = some d ∧ d.pkt.addr + d.pkt.bytes ≤ 0x800000 ∧ d.pkt.bytes ≤
      d.pkt.pay.length ∧ s.chip.gate (43 + d.port) d.pkt.fabricCls d.pkt.addr d.pkt.bytes true = .open) :=
  ⟨⟨on (awake |> (fun c => { c with ecc := [] })), 3, by decide +kernel⟩,
   ⟨on (awake |> (fun c => { c with ecc := [] }) |> (fun c =>
     { c with hl.inbox := [(⟨3, (Pkt.make 2 2 0 7 0 5 1 0x100 8 (List.replicate 8 1)).withLink 0 2001, 0⟩)] })), 2, ⟨3, (Pkt.make 2 2 0 7
     0 5 1 0x100 8 (List.replicate 8 1)).withLink 0 2001, 0⟩, by decide +kernel⟩,
   ⟨on (awake |> (fun c => { c with ecc := [] }) |> (fun c =>
     { c with hl.inbox := [(⟨3, (Pkt.make 0 0 0 7 0 5 1 0x7FFF00 256 []).withLink 0 2000, 0⟩)] }) |> linked [5]), ⟨3, (Pkt.make 0 0 0 7 0
     5 1 0x7FFF00 256 []).withLink 0 2000, 0⟩, by decide +kernel⟩,
   ⟨on (awake |> (fun c => { c with ecc := [] }) |> (fun c =>
     { c with hl.inbox := [(⟨3, (Pkt.make 1 0 0 7 0 5 1 0x100 4 (List.replicate 4 1)).withLink 0 0, 0⟩)] }) |> linked [5] |> (fun c =>
     { c with hl.dedup := [(⟨5, 1, some (Pkt.make 4 0 0 5 0 7 1 0 1 [])⟩)] })), ⟨3, (Pkt.make 1 0 0 7 0 5 1 0x100 4 (List.replicate 4
     1)).withLink 0 0, 0⟩, ⟨5, 1, some (Pkt.make 4 0 0 5 0 7 1 0 1 [])⟩, Pkt.make 4 0 0 5 0 7 1 0 1 [], by decide +kernel⟩,
   ⟨on (awake |> (fun c => { c with ecc := [] }) |> (fun c =>
     { c with hl.inbox := [(⟨3, (Pkt.make 1 0 0 7 0 5 1 0x7FFF00 256 (List.replicate 256 1)).withLink 0 0, 0⟩)] }) |> linked [5]), ⟨3,
     (Pkt.make 1 0 0 7 0 5 1 0x7FFF00 256 (List.replicate 256 1)).withLink 0 0, 0⟩, by decide +kernel⟩,
   ⟨on (awake |> (fun c => { c with ecc := [] }) |> (fun c =>
     { c with hl.inbox := [(⟨3, (Pkt.make 2 2 0 7 0 5 1 0x7FFFF8 8 (List.replicate 8 1)).withLink 0 0, 0⟩)] }) |> linked [5]), ⟨3,
     (Pkt.make 2 2 0 7 0 5 1 0x7FFFF8 8 (List.replicate 8 1)).withLink 0 0, 0⟩, by decide +kernel⟩,
   ⟨on (awake |> (fun c => { c with ecc := [] }) |> (fun c =>
     { c with hl.inbox := [(⟨3, (Pkt.make 3 1 0 7 0 5 1 0x100 4 (List.replicate 4 1)).withLink 0 0, 0⟩)] })), ⟨3, (Pkt.make 3 1 0 7 0 5 1
     0x100 4 (List.replicate 4 1)).withLink 0 0, 0⟩, by decide +kernel⟩⟩

theorem witness_TransactionsEndAndTagsReturn :
    (∃ (s : State), s.chip.hl.ports.length = 4 ∧ s.chip.fwRuns = false ∧ (∀ e, 26 ≤ e → e < 30 → (s.chip.engine e).run = none) ∧
      (s.chip.hl.inbox.find? fun x => [4].contains x.pkt.kind) = none) ∧
    (∃ (s : State) (d : Delivered), s.chip.hl.ports.length = 4 ∧ s.chip.fwRuns = false ∧ (∀ e, 26 ≤ e → e < 30 → (s.chip.engine e).run =
      none) ∧ (s.chip.hl.inbox.find? fun x => [4].contains x.pkt.kind) = some d ∧ ((s.chip.hl.xacts.find? fun x => decide (x.ended = none
      ∧ 1 ≤ x.sends ∧ x.dest = d.pkt.src ∧ x.tag = d.pkt.tag)) = none ∨ 2000 < d.pkt.age)) ∧
    (∃ (s : State) (d : Delivered) (x : Xact), s.chip.hl.ports.length = 4 ∧ s.chip.fwRuns = false ∧ (∀ e, 26 ≤ e → e < 30 → (s.chip.engine
      e).run = none) ∧ (s.chip.hl.inbox.find? fun x => [4].contains x.pkt.kind) = some d ∧ ((s.chip.hl.xacts.find? fun x => decide
      (x.ended = none ∧ 1 ≤ x.sends ∧ x.dest = d.pkt.src ∧ x.tag = d.pkt.tag)) = some x) ∧ d.pkt.age ≤ 2000 ∧ (d.pkt.addr = 4 ∨ d.pkt.addr
      = 5)) ∧
    (∃ (s : State) (d : Delivered) (x : Xact), s.chip.hl.ports.length = 4 ∧ s.chip.fwRuns = false ∧ (∀ e, 26 ≤ e → e < 30 → (s.chip.engine
      e).run = none) ∧ (s.chip.hl.inbox.find? fun x => [4].contains x.pkt.kind) = some d ∧ ((s.chip.hl.xacts.find? fun x => decide
      (x.ended = none ∧ 1 ≤ x.sends ∧ x.dest = d.pkt.src ∧ x.tag = d.pkt.tag)) = some x) ∧ d.pkt.age ≤ 2000 ∧ d.pkt.addr ≤ 3 ∧ 2 ≤
      x.sends) ∧
    (∃ (s : State) (d : Delivered) (x : Xact) (q : Nat), q < 4 ∧ s.chip.hl.ports.length = 4 ∧ s.chip.fwRuns = false ∧ (∀ e, 26 ≤ e → e <
      30 → (s.chip.engine e).run = none) ∧ (s.chip.hl.inbox.find? fun x => [4].contains x.pkt.kind) = some d ∧ ((s.chip.hl.xacts.find? fun
      x => decide (x.ended = none ∧ 1 ≤ x.sends ∧ x.dest = d.pkt.src ∧ x.tag = d.pkt.tag)) = some x) ∧ d.pkt.age ≤ 2000 ∧ d.pkt.addr ≤ 3 ∧
      x.sends = 1 ∧ x.owner = .mail q ∧ s.chip.hl.xacts = [x]) ∧
    (∃ (s : State) (x : Xact), s.chip.hl.ports.length = 4 ∧ s.chip.fwRuns = false ∧ (∀ e, 26 ≤ e → e < 30 → (s.chip.engine e).run = none)
      ∧ ((s.chip.hl.xacts.find? fun x => decide (x.ended = none ∧ 1 ≤ x.sends)) = some x) ∧ 3 < x.sends) ∧
    (∃ (s : State) (x : Xact), s.chip.hl.ports.length = 4 ∧ s.chip.fwRuns = false ∧ (∀ e, 26 ≤ e → e < 30 → (s.chip.engine e).run = none)
      ∧ ((s.chip.hl.xacts.find? fun x => decide (x.ended = none ∧ 1 ≤ x.sends)) = some x) ∧ x.sends ≤ 3 ∧ (s.chip.hlId = none ∨
      s.chip.hlId = some x.dest)) ∧
    (∃ (s : State) (x : Xact) (id : Nat) (q : Nat), s.chip.hl.ports.length = 4 ∧ s.chip.fwRuns = false ∧ (∀ e, 26 ≤ e → e < 30 →
      (s.chip.engine e).run = none) ∧ ((s.chip.hl.xacts.find? fun x => decide (x.ended = none ∧ 1 ≤ x.sends)) = some x) ∧ x.sends ≤ 3 ∧
      s.chip.hlId = some id ∧ id ≠ x.dest ∧ s.chip.route (x.packet id).dst (x.packet id).vc = some q) ∧
    (∃ (s : State), s.chip.hl.ports.length = 4 ∧ s.chip.fwRuns = false ∧ (∀ e, 26 ≤ e → e < 30 → (s.chip.engine e).run = none) ∧
      ((s.chip.hl.xacts.find? fun x => decide (x.ended = none ∧ 1 ≤ x.sends)) = none)) ∧
    (∃ (s : State) (x : Xact) (q : Nat) (st : Nat), s.chip.hl.ports.length = 4 ∧ s.chip.fwRuns = false ∧ (∀ e, 26 ≤ e → e < 30 →
      (s.chip.engine e).run = none) ∧ q < 4 ∧ st < 256 ∧ s.chip.hl.xacts = [x] ∧ x.ended = some st ∧ x.owner = .mail q) ∧
    (∃ (s : State), s.chip.hl.ports.length = 4 ∧ s.chip.fwRuns = false ∧ (∀ e, 26 ≤ e → e < 30 → (s.chip.engine e).run = none) ∧ (∀ x ∈
      s.chip.hl.xacts, x.ended = none)) ∧
    (∃ (s : State), s.chip.hl.ports.length = 4 ∧ s.chip.fwRuns = false ∧ (∀ e, 26 ≤ e → e < 30 → (s.chip.engine e).run = none) ∧ (∀ x ∈
      s.chip.hl.xacts, x.tag ≠ 65536)) ∧
    (∃ (s : State), s.chip.hl.ports.length = 4 ∧ s.chip.fwRuns = false ∧ (∀ e, 26 ≤ e → e < 30 → (s.chip.engine e).run = none) ∧
      s.chip.hl.xacts = []) :=
  ⟨⟨on (awake |> (fun c => { c with fw.conf := none })), by and_intros <;> decide +kernel⟩,
   ⟨on (awake |> (fun c => { c with fw.conf := none }) |> (fun c =>
     { c with hl.inbox := [(⟨3, (Pkt.make 4 0 0 7 0 5 1 0 4 []).withLink 0 0, 0⟩)] })), ⟨3, (Pkt.make 4 0 0 7 0 5 1 0 4 []).withLink 0 0,
     0⟩, by and_intros <;> decide +kernel⟩,
   ⟨on (awake |> (fun c => { c with fw.conf := none }) |> (fun c =>
     { c with hl.inbox := [(⟨3, (Pkt.make 4 0 0 7 0 5 1 4 4 []).withLink 0 0, 0⟩)] }) |> (fun c =>
     { c with hl.xacts := [(⟨1, 5, 0, 0, 0, 0x100, 4, [], 1, 0, none, [], .mail 0⟩)] })), ⟨3, (Pkt.make 4 0 0 7 0 5 1 4 4 []).withLink 0
     0, 0⟩, ⟨1, 5, 0, 0, 0, 0x100, 4, [], 1, 0, none, [], .mail 0⟩, by and_intros <;> decide +kernel⟩,
   ⟨on (awake |> (fun c => { c with fw.conf := none }) |> (fun c =>
     { c with hl.inbox := [(⟨3, (Pkt.make 4 0 0 7 0 5 1 0 4 (List.replicate 4 1)).withLink 0 0, 0⟩)] }) |> (fun c =>
     { c with hl.xacts := [(⟨1, 5, 0, 0, 0, 0x100, 4, [], 4, 0, none, [], .mail 0⟩)] })), ⟨3, (Pkt.make 4 0 0 7 0 5 1 0 4 (List.replicate
     4 1)).withLink 0 0, 0⟩, ⟨1, 5, 0, 0, 0, 0x100, 4, [], 4, 0, none, [], .mail 0⟩, by and_intros <;> decide +kernel⟩,
   ⟨on (awake |> (fun c => { c with fw.conf := none }) |> (fun c =>
     { c with hl.xacts := [(⟨1, 5, 0, 0, 0, 0x100, 4, [], 1, 0, none, [], .mail 3⟩)] }) |> (fun c =>
     { c with hl.inbox := [(⟨3, (Pkt.make 4 0 0 7 0 5 1 3 4 (List.replicate 4 1)).withLink 0 0, 0⟩)] }) |> (fun c =>
     { c with hl.xacts := [(⟨1, 5, 0, 0, 0, 0x100, 4, [], 1, 0, none, [], .mail 3⟩)] })), ⟨3, (Pkt.make 4 0 0 7 0 5 1 3 4 (List.replicate
     4 1)).withLink 0 0, 0⟩, ⟨1, 5, 0, 0, 0, 0x100, 4, [], 1, 0, none, [], .mail 3⟩, 3, by and_intros <;> decide +kernel⟩,
   ⟨on (awake |> (fun c => { c with fw.conf := none }) |> (fun c =>
     { c with hl.xacts := [(⟨1, 5, 0, 0, 0, 0x100, 4, [], 4, 0, none, [], .mail 0⟩)] })), ⟨1, 5, 0, 0, 0, 0x100, 4, [], 4, 0, none, [],
     .mail 0⟩, by and_intros <;> decide +kernel⟩,
   ⟨on (awake |> (fun c => { c with fw.conf := none }) |> (·.setReg 0x40040004 0) |> (fun c =>
     { c with hl.xacts := [(⟨1, 5, 0, 0, 0, 0x100, 4, [], 3, 0, none, [], .mail 0⟩)] })), ⟨1, 5, 0, 0, 0, 0x100, 4, [], 3, 0, none, [],
     .mail 0⟩, by and_intros <;> decide +kernel⟩,
   ⟨on (awake |> (fun c => { c with fw.conf := none }) |> (fun c =>
     { c with hl.xacts := [(⟨1, 5, 0, 0, 0, 0x100, 4, [], 1, 0, none, [], .mail 0⟩)] }) |> linked [5]), ⟨1, 5, 0, 0, 0, 0x100, 4, [], 1,
     0, none, [], .mail 0⟩, 7, 3, by and_intros <;> decide +kernel⟩,
   ⟨on (awake |> (fun c => { c with fw.conf := none })), by and_intros <;> decide +kernel⟩,
   ⟨on (awake |> (fun c => { c with fw.conf := none }) |> (fun c =>
     { c with hl.xacts := [({ (default : Xact) with ended := some 255, owner := .mail 3 })] })),
     { (default : Xact) with ended := some 255, owner := .mail 3 }, 3, 255, by and_intros <;> decide +kernel⟩,
   ⟨on (awake |> (fun c => { c with fw.conf := none })), by and_intros <;> decide +kernel⟩,
   ⟨on (awake |> (fun c => { c with fw.conf := none })), by and_intros <;> decide +kernel⟩,
   ⟨on (awake |> (fun c => { c with fw.conf := none }) |> (fun c => { c with hl.xacts := [] })), by and_intros <;> decide +kernel⟩⟩

theorem witness_MailboxesAndEnumerationSendAndAnswer :
    (∃ (s : State) (port : Nat) (q : Nat) (id : Nat) (v : Word), s.chip.hl.ports.length = 4 ∧ q < 4 ∧ s.chip.canStore port ((0x40040400 +
      0x200 * q) + 8) ∧ v = 1 ∧ fld (s.chip.reg ((0x4004040C + 0x200 * q))) 0 2 ≠ 1 ∧ s.chip.hlId = some id ∧ s.chip.fld ((0x40040400 +
      0x200 * q)) 0 4 ≠ 1) ∧
    (∃ (s : State) (port : Nat) (q : Nat) (id : Nat) (v : Word), s.chip.hl.ports.length = 4 ∧ q < 4 ∧ s.chip.canStore port ((0x40040400 +
      0x200 * q) + 8) ∧ v = 1 ∧ fld (s.chip.reg ((0x4004040C + 0x200 * q))) 0 2 ≠ 1 ∧ s.chip.hlId = some id ∧ s.chip.fld ((0x40040400 +
      0x200 * q)) 0 4 ≠ 3) ∧
    (∃ (s : State) (port : Nat) (q : Nat) (id : Nat) (v : Word), s.chip.hl.ports.length = 4 ∧ q < 4 ∧ s.chip.canStore port ((0x40040400 +
      0x200 * q) + 8) ∧ v = 1 ∧ fld (s.chip.reg ((0x4004040C + 0x200 * q))) 0 2 ≠ 1 ∧ s.chip.hlId = some id ∧ s.chip.fld ((0x40040400 +
      0x200 * q)) 0 4 = 1 ∧ (s.chip.fld ((0x40040400 + 0x200 * q)) 4 2) ≠ 1 ∧ s.chip.tagsUsed.length < 65536) ∧
    (∃ (s : State) (port : Nat) (q : Nat) (id : Nat) (v : Word), s.chip.hl.ports.length = 4 ∧ q < 4 ∧ s.chip.canStore port ((0x40040400 +
      0x200 * q) + 8) ∧ v = 1 ∧ fld (s.chip.reg ((0x4004040C + 0x200 * q))) 0 2 ≠ 1 ∧ s.chip.hlId = some id ∧ s.chip.fld ((0x40040400 +
      0x200 * q)) 0 4 = 3 ∧ (s.chip.fld ((0x40040400 + 0x200 * q)) 4 2) ≠ 2 ∧ ((s.chip.fld ((0x40040400 + 0x200 * q)) 16 10) = id ∨
      s.chip.route (Pkt.make 3 (s.chip.fld ((0x40040400 + 0x200 * q)) 4 2) 0 (s.chip.fld ((0x40040400 + 0x200 * q)) 16 10) (s.chip.portCls
      port) id 0 (s.chip.act ((0x40040400 + 0x200 * q) + 4)).toNat (s.chip.fld ((0x40040400 + 0x200 * q)) 8 8 + 1) (((List.range
      64).flatMap fun i => leBytes 4 (s.chip.act ((0x40040400 + 0x200 * q) + 0x100 + 4 * i)).toNat).take (s.chip.fld ((0x40040400 + 0x200
      * q)) 8 8 + 1))).dst (Pkt.make 3 (s.chip.fld ((0x40040400 + 0x200 * q)) 4 2) 0 (s.chip.fld ((0x40040400 + 0x200 * q)) 16 10)
      (s.chip.portCls port) id 0 (s.chip.act ((0x40040400 + 0x200 * q) + 4)).toNat (s.chip.fld ((0x40040400 + 0x200 * q)) 8 8 + 1)
      (((List.range 64).flatMap fun i => leBytes 4 (s.chip.act ((0x40040400 + 0x200 * q) + 0x100 + 4 * i)).toNat).take (s.chip.fld
      ((0x40040400 + 0x200 * q)) 8 8 + 1))).vc = none)) ∧
    (∃ (s : State) (port : Nat) (q : Nat) (id : Nat) (v : Word) (p : Nat), s.chip.hl.ports.length = 4 ∧ q < 4 ∧ s.chip.canStore port
      ((0x40040400 + 0x200 * q) + 8) ∧ v = 1 ∧ fld (s.chip.reg ((0x4004040C + 0x200 * q))) 0 2 ≠ 1 ∧ s.chip.hlId = some id ∧ s.chip.fld
      ((0x40040400 + 0x200 * q)) 0 4 = 3 ∧ (s.chip.fld ((0x40040400 + 0x200 * q)) 4 2) ≠ 2 ∧ (s.chip.fld ((0x40040400 + 0x200 * q)) 16 10)
      ≠ id ∧ s.chip.route (Pkt.make 3 (s.chip.fld ((0x40040400 + 0x200 * q)) 4 2) 0 (s.chip.fld ((0x40040400 + 0x200 * q)) 16 10)
      (s.chip.portCls port) id 0 (s.chip.act ((0x40040400 + 0x200 * q) + 4)).toNat (s.chip.fld ((0x40040400 + 0x200 * q)) 8 8 + 1)
      (((List.range 64).flatMap fun i => leBytes 4 (s.chip.act ((0x40040400 + 0x200 * q) + 0x100 + 4 * i)).toNat).take (s.chip.fld
      ((0x40040400 + 0x200 * q)) 8 8 + 1))).dst (Pkt.make 3 (s.chip.fld ((0x40040400 + 0x200 * q)) 4 2) 0 (s.chip.fld ((0x40040400 + 0x200
      * q)) 16 10) (s.chip.portCls port) id 0 (s.chip.act ((0x40040400 + 0x200 * q) + 4)).toNat (s.chip.fld ((0x40040400 + 0x200 * q)) 8 8
      + 1) (((List.range 64).flatMap fun i => leBytes 4 (s.chip.act ((0x40040400 + 0x200 * q) + 0x100 + 4 * i)).toNat).take (s.chip.fld
      ((0x40040400 + 0x200 * q)) 8 8 + 1))).vc = some p) ∧
    (∃ (s : State) (port : Nat), s.chip.hl.ports.length = 4 ∧ s.chip.canStore port 0x40040C04 ∧ s.chip.hlId ≠ none) ∧
    (∃ (s : State) (port : Nat), s.chip.hl.ports.length = 4 ∧ s.chip.canStore port 0x40040C04 ∧ s.chip.hlId = none) ∧
    (∃ (s : State) (i : Nat) (p : Nat), s.chip.hl.ports.length = 4 ∧ i = fld (s.chip.reg 0x40040C0C) 0 8 ∧ s.chip.ecc = [] ∧ s.chip.eqAt
      256 ≤ 0x800000 ∧ (∀ g < 8, nth s.chip.power.grp g .off = .awake) ∧ s.chip.bit 0x40040C04 0 = false) ∧
    (∃ (s : State) (i : Nat) (p : Nat), s.chip.hl.ports.length = 4 ∧ i = fld (s.chip.reg 0x40040C0C) 0 8 ∧ s.chip.ecc = [] ∧ s.chip.eqAt
      256 ≤ 0x800000 ∧ (∀ g < 8, nth s.chip.power.grp g .off = .awake) ∧ s.chip.bit 0x40040C04 0 = true ∧ s.chip.fld 0x40040C08 0 8 = (i +
      1) % 256 ∧ s.chip.peekLe (s.chip.eqAt i + 1) 1 = 1 ∧ p = s.chip.peekLe (s.chip.eqAt i + 0x10) 1 % 4 ∧ (s.chip.peekLe (s.chip.eqAt i)
      1 = 5 ∨ s.chip.peekLe (s.chip.eqAt i) 1 = 6) ∧ s.chip.hlState p ≠ 2) ∧
    (∃ (s : State) (i : Nat) (p : Nat), s.chip.hl.ports.length = 4 ∧ i = fld (s.chip.reg 0x40040C0C) 0 8 ∧ s.chip.ecc = [] ∧ s.chip.eqAt
      256 ≤ 0x800000 ∧ (∀ g < 8, nth s.chip.power.grp g .off = .awake) ∧ s.chip.bit 0x40040C04 0 = true ∧ s.chip.fld 0x40040C08 0 8 = (i +
      1) % 256 ∧ s.chip.peekLe (s.chip.eqAt i + 1) 1 = 1 ∧ p = s.chip.peekLe (s.chip.eqAt i + 0x10) 1 % 4 ∧ (s.chip.peekLe (s.chip.eqAt i)
      1 = 5 ∨ s.chip.peekLe (s.chip.eqAt i) 1 = 6) ∧ s.chip.hlState p = 2) ∧
    (∃ (s : State) (i : Nat) (p : Nat) (k : Nat) (rest : List Nat), s.chip.hl.ports.length = 4 ∧ i = fld (s.chip.reg 0x40040C0C) 0 8 ∧
      s.chip.ecc = [] ∧ s.chip.eqAt 256 ≤ 0x800000 ∧ (∀ g < 8, nth s.chip.power.grp g .off = .awake) ∧ s.chip.hl.eqSent = k :: rest ∧ k <
      256) ∧
    (∃ (s : State) (i : Nat) (p : Nat) (d : Delivered), s.chip.hl.ports.length = 4 ∧ i = fld (s.chip.reg 0x40040C0C) 0 8 ∧ s.chip.ecc = []
      ∧ s.chip.eqAt 256 ≤ 0x800000 ∧ (∀ g < 8, nth s.chip.power.grp g .off = .awake) ∧ (s.chip.hl.inbox.find? fun x => [7].contains
      x.pkt.kind) = some d ∧ (2000 < d.pkt.age ∨ d.pkt.tag < 0xFF00 ∨ d.pkt.tag - 0xFF00 ∉ s.chip.hl.eqSent)) ∧
    (∃ (s : State) (i : Nat) (p : Nat) (d : Delivered), s.chip.hl.ports.length = 4 ∧ i = fld (s.chip.reg 0x40040C0C) 0 8 ∧ s.chip.ecc = []
      ∧ s.chip.eqAt 256 ≤ 0x800000 ∧ (∀ g < 8, nth s.chip.power.grp g .off = .awake) ∧ (s.chip.hl.inbox.find? fun x => [7].contains
      x.pkt.kind) = some d ∧ d.pkt.age ≤ 2000 ∧ 0xFF00 ≤ d.pkt.tag ∧ d.pkt.tag - 0xFF00 ∈ s.chip.hl.eqSent ∧ 36 ≤ d.pkt.pay.length) ∧
    (∃ (s : State) (d : Delivered) (a : Nat), s.chip.hl.ports.length = 4 ∧ (s.chip.hl.inbox.find? fun x => [5].contains x.pkt.kind) = some
      d ∧ d.pkt.age ≤ 2000 ∧ a = d.pkt.addr ∧ hlNamed a = true) ∧
    (∃ (s : State) (d : Delivered), s.chip.hl.ports.length = 4 ∧ (s.chip.hl.inbox.find? fun x => [6].contains x.pkt.kind) = some d ∧
      d.pkt.age ≤ 2000 ∧ s.chip.bit 0x40040008 1 = false) ∧
    (∃ (s : State) (d : Delivered), s.chip.hl.ports.length = 4 ∧ (s.chip.hl.inbox.find? fun x => [6].contains x.pkt.kind) = some d ∧
      d.pkt.age ≤ 2000 ∧ s.chip.bit 0x40040008 1 = true ∧ d.pkt.addr = 4 ∧ leAt d.pkt.pay 32 4 / 1024 % 2 ^ 21 = 0) :=
  ⟨⟨on (awake |> (·.setFld (((0x4004040C + 0x200 * 3))) 0 2 (if 1 = 0 then 1 else 0)) |> (·.setReg 0x40040004 (BitVec.ofNat 32 (2 ^ 31 +
     0))) |> (·.setFld (((0x40040400 + 0x200 * 3))) 0 4 (if 1 = 0 then 1 else 0))), 39, 3, 0, 1, by decide +kernel⟩,
   ⟨on (awake |> (·.setFld (((0x4004040C + 0x200 * 3))) 0 2 (if 1 = 0 then 1 else 0)) |> (·.setReg 0x40040004 (BitVec.ofNat 32 (2 ^ 31 +
     0))) |> (·.setFld (((0x40040400 + 0x200 * 3))) 0 4 (if 3 = 0 then 1 else 0))), 39, 3, 0, 1, by decide +kernel⟩,
   ⟨on (awake |> (·.setFld (((0x4004040C + 0x200 * 3))) 0 2 (if 1 = 0 then 1 else 0)) |> (·.setReg 0x40040004 (BitVec.ofNat 32 (2 ^ 31 +
     0))) |> (·.setFld (((0x40040400 + 0x200 * 3))) 0 4 1) |> (·.setFld (((0x40040400 + 0x200 * 3))) 4 2 (if 1 = 0 then 1 else 0))), 39,
     3, 0, 1, by decide +kernel⟩,
   ⟨on (awake |> (·.setFld (((0x4004040C + 0x200 * 3))) 0 2 (if 1 = 0 then 1 else 0)) |> (·.setReg 0x40040004 (BitVec.ofNat 32 (2 ^ 31 +
     0))) |> (·.setFld (((0x40040400 + 0x200 * 3))) 0 4 3) |> (·.setFld (((0x40040400 + 0x200 * 3))) 4 2 (if 2 = 0 then 1 else 0)) |>
     (·.setFld (((0x40040400 + 0x200 * 3))) 16 10 0)), 39, 3, 0, 1, by decide +kernel⟩,
   ⟨on (awake |> linked [5] |> (·.setReg (0x40040A00) (3 + 3 * 16 + 5 * 65536))), 39, 3, 7, 1, 3, by decide +kernel⟩,
   ⟨on (awake |> linked []), 39, by decide +kernel⟩,
   ⟨on (awake |> (·.setReg 0x40040004 0)), 39, by decide +kernel⟩,
   ⟨on (awake |> (fun c => { c with ecc := [] }) |> (·.setBit (0x40040C04) 0 false)), 0, 0, by decide +kernel⟩,
   ⟨on (awake |> (fun c => { c with ecc := [] }) |> (·.setBit (0x40040C04) 0 true) |> (·.setFld (hlStat 3) 0 3 0) |> (·.setBit
     (0x40040C04) 0 true) |> (·.setReg (0x40040C00) (0x10000)) |> (·.setFld (0x40040C08) 0 8 1) |> (·.pokeLe (0x10000) 1 (5)) |> (·.pokeLe
     (0x10001) 1 (1)) |> (·.pokeLe (0x10010) 1 (3))), 0, 3, by decide +kernel⟩,
   ⟨on (awake |> (fun c => { c with ecc := [] }) |> (·.setBit (0x40040C04) 0 true) |> (·.setFld (hlStat 3) 0 3 2) |> (·.setBit
     (0x40040C04) 0 true) |> (·.setReg (0x40040C00) (0x10000)) |> (·.setFld (0x40040C08) 0 8 1) |> (·.pokeLe (0x10000) 1 (6)) |> (·.pokeLe
     (0x10001) 1 (1)) |> (·.pokeLe (0x10010) 1 (3))), 0, 3, by decide +kernel⟩,
   ⟨on (awake |> (fun c => { c with ecc := [] }) |> (fun c => { c with hl.eqSent := 255 :: ([]) })), 0, 0, 255, [], by decide +kernel⟩,
   ⟨on (awake |> (fun c => { c with ecc := [] }) |> (fun c =>
     { c with hl.inbox := [(⟨3, (Pkt.make 7 0 0 7 0 5 1 0x100 64 (List.replicate 64 0)).withLink 0 0, 0⟩)] })), 0, 0, ⟨3, (Pkt.make 7 0 0
     7 0 5 1 0x100 64 (List.replicate 64 0)).withLink 0 0, 0⟩, by decide +kernel⟩,
   ⟨on (awake |> (fun c => { c with ecc := [] }) |> (fun c =>
     { c with hl.inbox := [(⟨3, (Pkt.make 7 0 0 7 0 5 0xFFFF 0x100 64 (List.replicate 64 0)).withLink 0 0, 0⟩)] }) |> (fun c =>
     { c with hl.eqSent := [255] })), 0, 0, ⟨3, (Pkt.make 7 0 0 7 0 5 0xFFFF 0x100 64 (List.replicate 64 0)).withLink 0 0, 0⟩,
     by decide +kernel⟩,
   ⟨on (awake |> (fun c => { c with hl.inbox := [(⟨3, (Pkt.make 5 0 0 7 0 5 1 4 64 (List.replicate 64 0)).withLink 0 0, 0⟩)] })), ⟨3,
     (Pkt.make 5 0 0 7 0 5 1 4 64 (List.replicate 64 0)).withLink 0 0, 0⟩, 4, by decide +kernel⟩,
   ⟨on (awake |> (·.setBit (0x40040008) 1 false) |> (fun c =>
     { c with hl.inbox := [(⟨3, (Pkt.make 6 0 0 7 0 5 1 4 64 (List.replicate 64 0)).withLink 0 0, 0⟩)] })), ⟨3, (Pkt.make 6 0 0 7 0 5 1 4
     64 (List.replicate 64 0)).withLink 0 0, 0⟩, by decide +kernel⟩,
   ⟨on (awake |> (·.setBit (0x40040008) 1 true) |> (fun c =>
     { c with hl.inbox := [(⟨3, (Pkt.make 6 0 0 7 0 5 1 4 64 (List.replicate 64 0)).withLink 0 0, 0⟩)] })), ⟨3, (Pkt.make 6 0 0 7 0 5 1 4
     64 (List.replicate 64 0)).withLink 0 0, 0⟩, by decide +kernel⟩⟩

theorem witness_TimeExchangesAlignPackTime :
    (∃ (p : Nat) (s : State), p < 4 ∧ s.chip.hl.ports.length = 4 ∧ s.chip.timePort = none) ∧
    (∃ (p : Nat) (s : State) (d : Delivered), p < 4 ∧ s.chip.hl.ports.length = 4 ∧ (s.chip.hl.inbox.find? fun x => [8].contains
      x.pkt.kind) = some d ∧ d.port = p ∧ s.chip.timePort ≠ some p ∧ s.chip.timeUsable p = true) ∧
    (∃ (p : Nat) (s : State) (d : Delivered) (t1 : Nat), p < 4 ∧ s.chip.hl.ports.length = 4 ∧ (s.chip.hl.inbox.find? fun x => [8].contains
      x.pkt.kind) = some d ∧ d.port = p ∧ s.chip.timePort = some p ∧ s.chip.hl.t1 = some t1 ∧ ((sext 64 (tc 64 ((leAt d.pkt.pay 0 8 : Int)
      - t1 - ((d.stamp : Int) - leAt d.pkt.pay 8 8)))).natAbs ≤ syncBound (fld (s.chip.reg (hlStat p)) 3 2))) ∧
    (∃ (p : Nat) (s : State) (d : Delivered) (t1 : Nat), p < 4 ∧ s.chip.hl.ports.length = 4 ∧ (s.chip.hl.inbox.find? fun x => [8].contains
      x.pkt.kind) = some d ∧ d.port = p ∧ s.chip.timePort = some p ∧ s.chip.hl.t1 = some t1 ∧ (¬ ((sext 64 (tc 64 ((leAt d.pkt.pay 0 8 :
      Int) - t1 - ((d.stamp : Int) - leAt d.pkt.pay 8 8)))).natAbs ≤ syncBound (fld (s.chip.reg (hlStat p)) 3 2)))) ∧
    (∃ (p : Nat) (s : State) (d : Delivered) (t1 : Nat), p < 4 ∧ s.chip.hl.ports.length = 4 ∧ (s.chip.hl.inbox.find? fun x => [8].contains
      x.pkt.kind) = some d ∧ d.port = p ∧ s.chip.timePort = some p ∧ s.chip.hl.t1 = some t1 ∧ (sext 64 (tc 64 ((leAt d.pkt.pay 0 8 : Int)
      - t1 - ((d.stamp : Int) - leAt d.pkt.pay 8 8)))).natAbs ≤ 20000) ∧
    (∃ (p : Nat) (s : State) (d : Delivered) (t1 : Nat), p < 4 ∧ s.chip.hl.ports.length = 4 ∧ (s.chip.hl.inbox.find? fun x => [8].contains
      x.pkt.kind) = some d ∧ d.port = p ∧ s.chip.timePort = some p ∧ s.chip.hl.t1 = some t1 ∧ 20000 < (sext 64 (tc 64 ((leAt d.pkt.pay 0 8
      : Int) - t1 - ((d.stamp : Int) - leAt d.pkt.pay 8 8)))).natAbs) :=
  ⟨⟨3, on awake, by decide +kernel⟩,
   ⟨3, on (awake |> linked [] |> (fun c =>
     { c with hl.inbox := [(⟨3, (Pkt.make 8 0 0 7 0 5 1 0x100 32 (leBytes 8 0 ++ leBytes 8 0 ++ List.replicate 16 0)).withLink 0 0, 0⟩)] })),
     ⟨3, (Pkt.make 8 0 0 7 0 5 1 0x100 32 (leBytes 8 0 ++ leBytes 8 0 ++ List.replicate 16 0)).withLink 0 0, 0⟩, by decide +kernel⟩,
   ⟨3, on (awake |> (fun c => { c with hl.t1 := some 88 }) |> linked [] |> (·.setFld (0x40040010) 0 3 3) |> (fun c =>
     { c with hl.inbox := [(⟨3, (Pkt.make 8 0 0 7 0 5 1 0x100 32 (leBytes 8 100 ++ leBytes 8 0 ++ List.replicate 16 0)).withLink 0 0, 0⟩)] })),
     ⟨3, (Pkt.make 8 0 0 7 0 5 1 0x100 32 (leBytes 8 100 ++ leBytes 8 0 ++ List.replicate 16 0)).withLink 0 0, 0⟩, 88, by decide +kernel⟩,
   ⟨3, on (awake |> (fun c => { c with hl.t1 := some 87 }) |> linked [] |> (·.setFld (0x40040010) 0 3 3) |> (fun c =>
     { c with hl.inbox := [(⟨3, (Pkt.make 8 0 0 7 0 5 1 0x100 32 (leBytes 8 100 ++ leBytes 8 0 ++ List.replicate 16 0)).withLink 0 0, 0⟩)] })),
     ⟨3, (Pkt.make 8 0 0 7 0 5 1 0x100 32 (leBytes 8 100 ++ leBytes 8 0 ++ List.replicate 16 0)).withLink 0 0, 0⟩, 87, by decide +kernel⟩,
   ⟨3, on (awake |> (fun c => { c with hl.t1 := some 0 }) |> linked [] |> (·.setFld (0x40040010) 0 3 3) |> (fun c =>
     { c with hl.inbox := [(⟨3, (Pkt.make 8 0 0 7 0 5 1 0x100 32 (leBytes 8 20000 ++ leBytes 8 0 ++ List.replicate 16 0)).withLink 0 0, 0⟩)] })),
     ⟨3, (Pkt.make 8 0 0 7 0 5 1 0x100 32 (leBytes 8 20000 ++ leBytes 8 0 ++ List.replicate 16 0)).withLink 0 0, 0⟩, 0, by decide +kernel⟩,
   ⟨3, on (awake |> (fun c => { c with hl.t1 := some 0 }) |> linked [] |> (·.setFld (0x40040010) 0 3 3) |> (fun c =>
     { c with hl.inbox := [(⟨3, (Pkt.make 8 0 0 7 0 5 1 0x100 32 (leBytes 8 20001 ++ leBytes 8 0 ++ List.replicate 16 0)).withLink 0 0, 0⟩)] })),
     ⟨3, (Pkt.make 8 0 0 7 0 5 1 0x100 32 (leBytes 8 20001 ++ leBytes 8 0 ++ List.replicate 16 0)).withLink 0 0, 0⟩, 0, by decide +kernel⟩⟩

theorem witness_MessagesAreHeardOnce :
    (∃ (i : Instr) (src : Nat) (type : Nat) (k : SysConf) (s : State), msgRow i = some (src, type) ∧ src < 1024 ∧ s.chip.fwRuns = false) ∧
    (∃ (i : Instr) (src : Nat) (type : Nat) (k : SysConf) (s : State), msgRow i = some (src, type) ∧ src < 1024 ∧ s.chip.fw.conf = some k
      ∧ (¬ (Sparse.find src s.chip.fw.heard ≠ some (leAt (s.chip.peekN (k.inbox + 64 * src) 64) 8 4, leAt (s.chip.peekN (k.inbox + 64 *
      src) 64) 4 4)))) ∧
    (∃ (i : Instr) (src : Nat) (type : Nat) (k : SysConf) (s : State), msgRow i = some (src, type) ∧ src < 1024 ∧ s.chip.fw.conf = some k
      ∧ s.chip.fwRuns = true ∧ (Sparse.find src s.chip.fw.heard ≠ some (leAt (s.chip.peekN (k.inbox + 64 * src) 64) 8 4, leAt
      (s.chip.peekN (k.inbox + 64 * src) 64) 4 4)) ∧ (¬ (leAt (s.chip.peekN (k.inbox + 64 * src) 64) 0 1 = 0 ∨ 12 < leAt (s.chip.peekN
      (k.inbox + 64 * src) 64) 0 1 ∨ leAt (s.chip.peekN (k.inbox + 64 * src) 64) 1 1 ≠ 1 ∨ leAt (s.chip.peekN (k.inbox + 64 * src) 64) 2 2
      ≠ src)) ∧ leAt (s.chip.peekN (k.inbox + 64 * src) 64) 0 1 ≠ type) ∧
    (∃ (i : Instr) (src : Nat) (type : Nat) (k : SysConf) (s : State), msgRow i = some (src, type) ∧ src < 1024 ∧ s.chip.fw.conf = some k
      ∧ s.chip.fwRuns = true ∧ (Sparse.find src s.chip.fw.heard ≠ some (leAt (s.chip.peekN (k.inbox + 64 * src) 64) 8 4, leAt
      (s.chip.peekN (k.inbox + 64 * src) 64) 4 4)) ∧ (leAt (s.chip.peekN (k.inbox + 64 * src) 64) 0 1 = 0 ∨ 12 < leAt (s.chip.peekN
      (k.inbox + 64 * src) 64) 0 1 ∨ leAt (s.chip.peekN (k.inbox + 64 * src) 64) 1 1 ≠ 1 ∨ leAt (s.chip.peekN (k.inbox + 64 * src) 64) 2 2
      ≠ src) ∧ s.chip.log.buf.length ≤ 4) :=
  ⟨⟨.heartbeat 5, 5, 1, conf0, on (awake |> (fun c => { c with fw.conf := none })), by decide +kernel⟩,
   ⟨.heartbeat 1021, 1021, 1, conf0, on (awake |> (fun c => { c with fw.conf := some conf0 }) |> (fun c =>
     { c with fw.heard := [(1021, (0, 0))] })), by decide +kernel⟩,
   ⟨.heartbeat 1021, 1021, 1, conf0, on (awake |> (fun c => { c with fw.conf := some conf0 }) |> inboxMsg conf0 1021 12 1 1 []),
     by decide +kernel⟩,
   ⟨.heartbeat 1021, 1021, 1, conf0, on (awake |> (fun c => { c with fw.conf := some conf0 })), by decide +kernel⟩⟩

theorem witness_MembersFollowTheManager :
    (∃ (src : Nat) (k : SysConf) (b : List Byte) (s : State), s.chip.hears src 1 k b ∧ (leAt b 8 4) < (s.chip.heardMsg src b).fw.term) ∧
    (∃ (src : Nat) (k : SysConf) (b : List Byte) (s : State), s.chip.hears src 1 k b ∧ (s.chip.heardMsg src b).fw.term ≤ (leAt b 8 4) ∧
      ((s.chip.heardMsg src b).isMgr = false ∨ (leAt b 8 4) ≤ (s.chip.heardMsg src b).mgr.term)) ∧
    (∃ (src : Nat) (k : SysConf) (b : List Byte) (s : State), s.chip.hears src 1 k b ∧ (s.chip.heardMsg src b).fw.term ≤ (leAt b 8 4) ∧
      (s.chip.heardMsg src b).isMgr = true ∧ (s.chip.heardMsg src b).mgr.term < (leAt b 8 4)) ∧
    (∃ (src : Nat) (k : SysConf) (b : List Byte) (s : State), s.chip.hears src 5 k b) ∧
    (∃ (src : Nat) (chem : Nat) (k : SysConf) (b : List Byte) (s : State), s.chip.hears src 6 k b ∧ leAt b 0x12 1 = 0) ∧
    (∃ (src : Nat) (chem : Nat) (k : SysConf) (b : List Byte) (s : State), s.chip.hears src 6 k b ∧ leAt b 0x12 1 ≠ 0 ∧ (∃ x ∈
      (s.chip.heardMsg src b).fw.taken, x.ref = (leAt b 0x10 2) ∧ x.switch = leAt b 0x18 4)) ∧
    (∃ (src : Nat) (chem : Nat) (k : SysConf) (b : List Byte) (s : State) (x : Released), s.chip.hears src 6 k b ∧ leAt b 0x12 1 ≠ 0 ∧ (¬
      (∃ x ∈ (s.chip.heardMsg src b).fw.taken, x.ref = (leAt b 0x10 2) ∧ x.switch = leAt b 0x18 4)) ∧ x.ref ≠ (leAt b 0x10 2)) ∧
    (∃ (src : Nat) (brought : List (Nat × Option (List Byte))) (k : SysConf) (b : List Byte) (s : State), s.chip.hears src 11 k b ∧
      brought = []) ∧
    (∃ (src : Nat) (brought : List (Nat × Option (List Byte))) (k : SysConf) (b : List Byte) (s : State) (x : List Byte) (i : Nat),
      s.chip.hears src 11 k b ∧ brought = [(i, some x)] ∧ leAt b 0x12 1 = 1 ∧ (∃ j < leAt b 0x12 1, i = 20 + (leAt b 0x10 2) / 1024 % 32 +
      j) ∧ i < 40 ∧ (s.chip.heardMsg src b).holds k i 1 ((leAt b 0x10 2) % 1024) = true ∧ x.length = 2048 ∧ ctxAt k i + 2048 ≤ 0x800000 ∧
      s.chip.ecc = []) :=
  ⟨⟨1021, conf0, inboxBytes 1021 1 5 9 ([]), on (awake |> inboxMsg conf0 1021 1 5 9 ([]) |> (fun c => { c with fw.term := 6 })),
     by decide +kernel⟩,
   ⟨1021, conf0, inboxBytes 1021 1 5 9 ([]), on (awake |> inboxMsg conf0 1021 1 5 9 ([])), by decide +kernel⟩,
   ⟨1021, conf0, inboxBytes 1021 1 5 9 ([]), on (awake |> inboxMsg conf0 1021 1 5 9 ([]) |> (fun c => { c with boot.role := 2 })),
     by decide +kernel⟩,
   ⟨1021, conf0, inboxBytes 1021 5 5 9 ([]), on (awake |> inboxMsg conf0 1021 5 5 9 ([])), by decide +kernel⟩,
   ⟨1021, 0, conf0, inboxBytes 1021 6 5 9 (leBytes 2 2048 ++ [0, 0] ++ leBytes 4 0 ++ leBytes 4 77), on (awake |> inboxMsg conf0 1021 6 5
     9 (leBytes 2 2048 ++ [0, 0] ++ leBytes 4 0 ++ leBytes 4 77)), by decide +kernel⟩,
   ⟨1021, 0, conf0, inboxBytes 1021 6 5 9 (leBytes 2 2048 ++ [1, 0] ++ leBytes 4 0 ++ leBytes 4 77), on (awake |> inboxMsg conf0 1021 6 5
     9 (leBytes 2 2048 ++ [1, 0] ++ leBytes 4 0 ++ leBytes 4 77) |> (fun c => { c with fw.taken := [⟨2048, 3, true, 1, 77⟩] })),
     by decide +kernel⟩,
   ⟨1021, 0, conf0, inboxBytes 1021 6 5 9 (leBytes 2 2048 ++ [1, 0] ++ leBytes 4 0 ++ leBytes 4 77), on (awake |> inboxMsg conf0 1021 6 5
     9 (leBytes 2 2048 ++ [1, 0] ++ leBytes 4 0 ++ leBytes 4 77)), ⟨2049, true, 77⟩, by decide +kernel⟩,
   ⟨1021, [], conf0, inboxBytes 1021 11 5 9 ([]), on (awake |> inboxMsg conf0 1021 11 5 9 ([])), by decide +kernel⟩,
   ⟨1021, [(39, some (List.replicate 2048 1))], conf0, inboxBytes 1021 11 5 9 (leBytes 2 (5 + 1024 * 19) ++ [1]), on (awake |> (fun c =>
     { c with ecc := [] }) |> inboxMsg conf0 1021 11 5 9 (leBytes 2 (5 + 1024 * 19) ++ [1]) |> (withCtx conf0 39 1 5 0)), List.replicate
     2048 1, 39, by decide +kernel⟩⟩

theorem witness_SnapshotsLocketsAndResetCommand :
    (∃ (src : Nat) (k : SysConf) (b : List Byte) (s : State), s.chip.hears src 2 k b ∧ (s.chip.heardMsg src b).mgr.state ≠ .standby) ∧
    (∃ (src : Nat) (k : SysConf) (b : List Byte) (s : State), s.chip.hears src 2 k b ∧ (s.chip.heardMsg src b).mgr.state = .standby ∧ leAt
      b 8 4 < (s.chip.heardMsg src b).mgr.term) ∧
    (∃ (src : Nat) (k : SysConf) (b : List Byte) (s : State), s.chip.hears src 2 k b ∧ (s.chip.heardMsg src b).mgr.state = .standby ∧
      (s.chip.heardMsg src b).mgr.term ≤ leAt b 8 4 ∧ (¬ ((leAt b 0x14 1) < 2 ∧ leAt b 0x15 4 ≤ 0x80000 ∧ crc32 ((s.chip.heardMsg src
      b).peekN (epochBuf k (leAt b 0x14 1)) (leAt b 0x15 4)) = leAt b 0x19 4))) ∧
    (∃ (src : Nat) (k : SysConf) (b : List Byte) (s : State), s.chip.hears src 2 k b ∧ (s.chip.heardMsg src b).mgr.state = .standby ∧
      (s.chip.heardMsg src b).mgr.term ≤ leAt b 8 4 ∧ ((leAt b 0x14 1) < 2 ∧ leAt b 0x15 4 ≤ 0x80000 ∧ crc32 ((s.chip.heardMsg src
      b).peekN (epochBuf k (leAt b 0x14 1)) (leAt b 0x15 4)) = leAt b 0x19 4)) ∧
    (∃ (src : Nat) (k : SysConf) (b : List Byte) (s : State), s.chip.hears src 4 k b ∧ (¬ ((s.chip.heardMsg src b).mgr.state = .standby ∧
      (s.chip.heardMsg src b).mgr.prepared = some (leAt b 0x14 1, leAt b 0x10 4)))) ∧
    (∃ (src : Nat) (k : SysConf) (b : List Byte) (s : State), s.chip.hears src 4 k b ∧ ((s.chip.heardMsg src b).mgr.state = .standby ∧
      (s.chip.heardMsg src b).mgr.prepared = some (leAt b 0x14 1, leAt b 0x10 4))) ∧
    (∃ (src : Nat) (k : SysConf) (b : List Byte) (s : State), s.chip.hears src 9 k b ∧ ((s.chip.heardMsg src b).trayLockets k (slice b
      0x10 16)) ≠ []) ∧
    (∃ (src : Nat) (volts : List Nat) (amps : Nat) (k : SysConf) (b : List Byte) (s : State), s.chip.hears src 10 k b ∧ (¬
      ((s.chip.heardMsg src b).fw.tagStat = 0 ∧ slice b 0x10 16 = slice (s.chip.heardMsg src b).fw.tag 8 16))) ∧
    (∃ (src : Nat) (volts : List Nat) (amps : Nat) (k : SysConf) (b : List Byte) (s : State) (tap : Nat) (l : Locket), s.chip.hears src 10
      k b ∧ ((s.chip.heardMsg src b).fw.tagStat = 0 ∧ slice b 0x10 16 = slice (s.chip.heardMsg src b).fw.tag 8 16) ∧ (s.chip.heardMsg src
      b).fw.started = true ∧ tap < 20 ∧ tap < (s.chip.heardMsg src b).fw.series ∧ ctxLive ((s.chip.heardMsg src b).ctx k tap) = true ∧ 2 ≤
      leAt ((s.chip.heardMsg src b).ctx k tap) 0x0B 1 ∧ (s.chip.heardMsg src b).stagedLocket k tap = some l) ∧
    (∃ (src : Nat) (k : SysConf) (b : List Byte) (s : State), s.chip.hears src 12 k b ∧ s.chip.power.inReset = false ∧ s.chip.fw.active ≠
      some src) ∧
    (∃ (src : Nat) (k : SysConf) (b : List Byte) (s : State), s.chip.hears src 12 k b ∧ s.chip.power.inReset = false ∧ s.chip.fw.active =
      some src) :=
  ⟨⟨1021, conf0, inboxBytes 1021 2 5 9 (leBytes 4 3 ++ [1]), on (awake |> inboxMsg conf0 1021 2 5 9 (leBytes 4 3 ++ [1])),
     by decide +kernel⟩,
   ⟨1021, conf0, inboxBytes 1021 2 5 9 (leBytes 4 3 ++ [1]), on (awake |> inboxMsg conf0 1021 2 5 9 (leBytes 4 3 ++ [1]) |> (fun c =>
     { c with mgr.state := .standby }) |> (fun c => { c with mgr.term := 6 })), by decide +kernel⟩,
   ⟨1021, conf0, inboxBytes 1021 2 5 9 (leBytes 4 3 ++ [2] ++ leBytes 4 0 ++ leBytes 4 0), on (awake |> inboxMsg conf0 1021 2 5 9 (leBytes
     4 3 ++ [2] ++ leBytes 4 0 ++ leBytes 4 0) |> (fun c => { c with mgr.state := .standby })), by decide +kernel⟩,
   ⟨1021, conf0, inboxBytes 1021 2 5 9 (leBytes 4 3 ++ [1] ++ leBytes 4 0 ++ leBytes 4 0), on (awake |> inboxMsg conf0 1021 2 5 9 (leBytes
     4 3 ++ [1] ++ leBytes 4 0 ++ leBytes 4 0) |> (fun c => { c with mgr.state := .standby })), by decide +kernel⟩,
   ⟨1021, conf0, inboxBytes 1021 4 5 9 (leBytes 4 3 ++ [1]), on (awake |> inboxMsg conf0 1021 4 5 9 (leBytes 4 3 ++ [1])),
     by decide +kernel⟩,
   ⟨1021, conf0, inboxBytes 1021 4 5 9 (leBytes 4 3 ++ [1]), on (awake |> inboxMsg conf0 1021 4 5 9 (leBytes 4 3 ++ [1]) |> (fun c =>
     { c with mgr.state := .standby }) |> (fun c => { c with mgr.prepared := some (1, 3) })), by decide +kernel⟩,
   ⟨1021, conf0, inboxBytes 1021 9 5 9 ([]), on (awake |> inboxMsg conf0 1021 9 5 9 ([]) |> (withCtx conf0 255 0 0 0)), by decide +kernel⟩,
   ⟨1021, [], 0, conf0, inboxBytes 1021 10 5 9 ([]), on (awake |> inboxMsg conf0 1021 10 5 9 ([])), by decide +kernel⟩,
   ⟨1021, [], 0, conf0, inboxBytes 1021 10 5 9 ([]), on (awake |> (fun c => { c with fw.started := true }) |> (fun c =>
     { c with fw.series := 20 }) |> (fun c => { c with fw.tag := List.replicate 256 0 }) |> (fun c => { c with fw.tagStat := 0 }) |> (fun
     c => { c with mem := lockets }) |> inboxMsg conf0 1021 10 5 9 ([])), 19, ⟨0, 0, List.replicate 8 0, List.replicate 2048 0⟩,
     by decide +kernel⟩,
   ⟨1021, conf0, inboxBytes 1021 12 5 9 ([]), on (awake |> (fun c => { c with power.inReset := false }) |> inboxMsg conf0 1021 12 5 9
     ([])), by decide +kernel⟩,
   ⟨1021, conf0, inboxBytes 1021 12 5 9 ([]), on (awake |> (fun c => { c with power.inReset := false }) |> (fun c =>
     { c with fw.active := some 1021 }) |> inboxMsg conf0 1021 12 5 9 ([])), by decide +kernel⟩⟩

theorem witness_ManagersResolveAndTakeOver :
    (∃ (w : List Seen) (activeId : Option Nat) (k : SysConf) (s : State), s.chip.fw.conf = some k ∧ s.chip.fwRuns = true ∧ (s.chip.isMgr =
      false ∨ s.chip.mgr.state ≠ .none)) ∧
    (∃ (w : List Seen) (activeId : Option Nat) (k : SysConf) (s : State), s.chip.fw.conf = some k ∧ s.chip.fwRuns = true ∧ s.chip.isMgr =
      true ∧ s.chip.mgr.state = .none ∧ (∃ z ∈ (((w.drop 1).filter dGood).filter dMgr), dState z = 2) ∧ (∃ z ∈ (((w.drop 1).filter
      dGood).filter dMgr), dState z = 3)) ∧
    (∃ (w : List Seen) (activeId : Option Nat) (k : SysConf) (s : State), s.chip.fw.conf = some k ∧ s.chip.fwRuns = true ∧ s.chip.isMgr =
      true ∧ s.chip.mgr.state = .none ∧ ((∃ z ∈ (((w.drop 1).filter dGood).filter dMgr), dState z = 2) ∧ ¬ (∃ z ∈ (((w.drop 1).filter
      dGood).filter dMgr), dState z = 3) ∨ ¬ (∃ z ∈ (((w.drop 1).filter dGood).filter dMgr), dState z = 2) ∧ (∃ z ∈ (((w.drop 1).filter
      dGood).filter dMgr), dState z = 1 ∧ (dRole z < s.chip.boot.role ∨ (dRole z = s.chip.boot.role ∧ dSerial z < leNat
      s.chip.ownSerial))))) ∧
    (∃ (w : List Seen) (activeId : Option Nat) (k : SysConf) (s : State), s.chip.fw.conf = some k ∧ s.chip.fwRuns = true ∧ s.chip.isMgr =
      true ∧ s.chip.mgr.state = .none ∧ (¬ (∃ z ∈ (((w.drop 1).filter dGood).filter dMgr), dState z = 2)) ∧ (¬ (∃ z ∈ (((w.drop 1).filter
      dGood).filter dMgr), dState z = 1 ∧ (dRole z < s.chip.boot.role ∨ (dRole z = s.chip.boot.role ∧ dSerial z < leNat
      s.chip.ownSerial)))) ∧ s.chip.boot.role = 1) ∧
    (∃ (w : List Seen) (activeId : Option Nat) (k : SysConf) (s : State), s.chip.fw.conf = some k ∧ s.chip.fwRuns = true ∧ s.chip.isMgr =
      true ∧ s.chip.mgr.state = .none ∧ (¬ (∃ z ∈ (((w.drop 1).filter dGood).filter dMgr), dState z = 2)) ∧ (¬ (∃ z ∈ (((w.drop 1).filter
      dGood).filter dMgr), dState z = 1 ∧ (dRole z < s.chip.boot.role ∨ (dRole z = s.chip.boot.role ∧ dSerial z < leNat
      s.chip.ownSerial)))) ∧ s.chip.boot.role = 2) ∧
    (∃ (k : SysConf) (s : State), s.chip.fw.conf = some k ∧ s.chip.fwRuns = true ∧ (¬ (s.chip.isMgr = true ∧ s.chip.mgr.state =
      .candidate))) ∧
    (∃ (k : SysConf) (s : State), s.chip.fw.conf = some k ∧ s.chip.fwRuns = true ∧ (s.chip.isMgr = true ∧ s.chip.mgr.state = .candidate)) ∧
    (∃ (k : SysConf) (s : State), s.chip.fw.conf = some k ∧ s.chip.fwRuns = true ∧ (¬ (s.chip.isMgr = true ∧ s.chip.mgr.state = .standby ∧
      s.chip.hlId ≠ none))) ∧
    (∃ (k : SysConf) (s : State), s.chip.fw.conf = some k ∧ s.chip.fwRuns = true ∧ (s.chip.isMgr = true ∧ s.chip.mgr.state = .standby ∧
      s.chip.hlId ≠ none)) :=
  ⟨⟨[], none, conf0, on (awake |> (fun c => { c with fw.conf := some conf0 }) |> (fun c => { c with boot.role := 0 })), by decide +kernel⟩,
   ⟨[seenMgr 1 0 0, seenMgr 2 2 5, seenMgr 2 3 6], none, conf0, on (awake |> (fun c => { c with fw.conf := some conf0 }) |> (fun c =>
     { c with boot.role := 1, mgr.state := .active }) |> (fun c => { c with mgr.state := .none })), by decide +kernel⟩,
   ⟨[seenMgr 1 0 0, seenMgr 2 2 5], none, conf0, on (awake |> (fun c => { c with fw.conf := some conf0 }) |> (fun c =>
     { c with boot.role := 1, mgr.state := .active }) |> (fun c => { c with mgr.state := .none })), by decide +kernel⟩,
   ⟨[], none, conf0, on (awake |> (fun c => { c with fw.conf := some conf0 }) |> (fun c =>
     { c with boot.role := 1, mgr.state := .active }) |> (fun c => { c with mgr.state := .none }) |> (fun c =>
     { c with boot.role := 1 })), by decide +kernel⟩,
   ⟨[], none, conf0, on (awake |> (fun c => { c with fw.conf := some conf0 }) |> (fun c =>
     { c with boot.role := 1, mgr.state := .active }) |> (fun c => { c with mgr.state := .none }) |> (fun c =>
     { c with boot.role := 2 })), by decide +kernel⟩,
   ⟨conf0, on (awake |> (fun c => { c with fw.conf := some conf0 })), by decide +kernel⟩,
   ⟨conf0, on (awake |> (fun c => { c with fw.conf := some conf0 }) |> (fun c => { c with boot.role := 1, mgr.state := .active }) |> (fun
     c => { c with mgr.state := .candidate })), by decide +kernel⟩,
   ⟨conf0, on (awake |> (fun c => { c with fw.conf := some conf0 })), by decide +kernel⟩,
   ⟨conf0, on (awake |> (fun c => { c with fw.conf := some conf0 }) |> (fun c => { c with boot.role := 1, mgr.state := .active }) |> (fun
     c => { c with mgr.state := .standby }) |> linked []), by decide +kernel⟩⟩

theorem witness_ActiveManagerRunsEpochsAndMoves :
    (∃ (i : Instr) (k : SysConf) (s : State), (s.chip.fw.conf = some k ∧ s.chip.active = false) ∧ (i = .heartbeatTick ∨ (∃ c, i =
      .epochEnd c) ∨ (∃ r t m l w h, i = .delegation r t m l w h))) ∧
    (∃ (k : SysConf) (id : Nat) (s : State), s.chip.fw.conf = some k ∧ s.chip.fwRuns = true ∧ s.chip.active = true ∧ s.chip.hlId = some id
      ∧ s.chip.mgr.moves = [] ∧ s.chip.fw.out = [] ∧ (∀ q < 4, s.chip.mbBusy q = true)) ∧
    (∃ (copied : Bool) (k : SysConf) (s : State), s.chip.fw.conf = some k ∧ s.chip.fwRuns = true ∧ s.chip.active = true ∧ s.chip.mgr.snap
      = none ∧ s.chip.mgr.standby = none) ∧
    (∃ (copied : Bool) (k : SysConf) (s : State) (d : Nat), s.chip.fw.conf = some k ∧ s.chip.fwRuns = true ∧ s.chip.active = true ∧
      s.chip.mgr.snap = none ∧ s.chip.mgr.standby = some d ∧ copied = false) ∧
    (∃ (copied : Bool) (k : SysConf) (s : State) (d : Nat), s.chip.fw.conf = some k ∧ s.chip.fwRuns = true ∧ s.chip.active = true ∧
      s.chip.mgr.snap = none ∧ s.chip.mgr.standby = some d ∧ copied = true) ∧
    (∃ (src : Nat) (k : SysConf) (b : List Byte) (n : MSnap) (s : State), s.chip.hears src 3 k b ∧ s.chip.mgr.snap = some n ∧ (¬
      ((s.chip.heardMsg src b).active = true ∧ n.commitSent = false ∧ n.epoch = leAt b 0x10 4 ∧ leAt b 0x14 1 = 0 ∧ (s.chip.heardMsg src
      b).mgr.standby = some src))) ∧
    (∃ (src : Nat) (k : SysConf) (b : List Byte) (n : MSnap) (s : State), s.chip.hears src 3 k b ∧ s.chip.mgr.snap = some n ∧
      ((s.chip.heardMsg src b).active = true ∧ n.commitSent = false ∧ n.epoch = leAt b 0x10 4 ∧ leAt b 0x14 1 = 0 ∧ (s.chip.heardMsg src
      b).mgr.standby = some src)) ∧
    (∃ (ref : Nat) (target : Nat) (slot : Nat) (switch : Nat) (chem : Nat) (remote : Bool) (k : SysConf) (x : MCell) (s : State),
      s.chip.fw.conf = some k ∧ s.chip.fwRuns = true ∧ s.chip.active = true ∧ (s.chip.mgr.cells.find? fun x => decide (x.ref = ref)) =
      some x ∧ target ∈ s.chip.members ∧ s.chip.hlId ≠ some target ∧ x.host ≠ target ∧ (∀ m ∈ s.chip.mgr.moves, m.ref ≠ ref) ∧ atOrAfter
      switch (s.chip.packUs + 2 * s.chip.period k) = true) ∧
    (∃ (src : Nat) (k : SysConf) (b : List Byte) (m : MMove) (s : State), s.chip.hears src 7 k b ∧ s.chip.active = true ∧
      ((s.chip.mgr.moves.find? fun m => decide (m.ref = leAt b 0x10 2 ∧ m.target = src ∧ m.accepted = false)) = some m) ∧ leAt b 0x12 1 ≠
      0) ∧
    (∃ (src : Nat) (k : SysConf) (b : List Byte) (m : MMove) (s : State), s.chip.hears src 7 k b ∧ s.chip.active = true ∧
      ((s.chip.mgr.moves.find? fun m => decide (m.ref = leAt b 0x10 2 ∧ m.target = src ∧ m.accepted = false)) = some m) ∧ leAt b 0x12 1 =
      0) ∧
    (∃ (src : Nat) (k : SysConf) (b : List Byte) (s : State), s.chip.hears src 8 k b ∧ s.chip.active = true) :=
  ⟨⟨.heartbeatTick, conf0, on (awake |> (fun c => { c with fw.conf := some conf0 }) |> (fun c => { c with boot.role := 0 })),
     by decide +kernel, Or.inl rfl⟩,
   ⟨conf0, 0, on (awake |> (fun c => { c with fw.conf := some conf0 }) |> (fun c => { c with boot.role := 1, mgr.state := .active }) |>
     (·.setReg 0x40040004 (BitVec.ofNat 32 (2 ^ 31 + 0))) |> (fun c => { c with mgr.moves := [] }) |> (fun c => { c with fw.out := [] })
     |> (fun c => (List.range 4).foldl (fun c q => c.setFld (mbReg q 12) 0 2 1) c)), by decide +kernel⟩,
   ⟨false, conf0, on (awake |> (fun c => { c with fw.conf := some conf0 }) |> (fun c => { c with boot.role := 1, mgr.state := .active })
     |> (fun c => { c with mgr.snap := none }) |> (fun c => { c with mgr.standby := none })), by decide +kernel⟩,
   ⟨false, conf0, on (awake |> (fun c => { c with fw.conf := some conf0 }) |> (fun c => { c with boot.role := 1, mgr.state := .active })
     |> (fun c => { c with mgr.snap := none }) |> (fun c => { c with mgr.standby := some 0 })), 0, by decide +kernel⟩,
   ⟨true, conf0, on (awake |> (fun c => { c with fw.conf := some conf0 }) |> (fun c => { c with boot.role := 1, mgr.state := .active }) |>
     (fun c => { c with mgr.snap := none }) |> (fun c => { c with mgr.standby := some 0 })), 0, by decide +kernel⟩,
   ⟨1021, conf0, inboxBytes 1021 3 5 9 (leBytes 4 3 ++ [1]), ⟨3, 0, false⟩, on (awake |> (fun c =>
     { c with mgr.snap := some (⟨3, 0, false⟩) }) |> inboxMsg conf0 1021 3 5 9 (leBytes 4 3 ++ [1])), by decide +kernel⟩,
   ⟨1021, conf0, inboxBytes 1021 3 5 9 (leBytes 4 3 ++ [0]), ⟨3, 0, false⟩, on (awake |> (fun c =>
     { c with mgr.snap := some (⟨3, 0, false⟩) }) |> inboxMsg conf0 1021 3 5 9 (leBytes 4 3 ++ [0]) |> (fun c =>
     { c with boot.role := 1, mgr.state := .active }) |> (fun c => { c with mgr.standby := some 1021 })), by decide +kernel⟩,
   ⟨5, 1021, 40, 200000, 0, false, conf0, ⟨5, 1, 5, 0, 0⟩, on (awake |> (fun c => { c with fw.conf := some conf0 }) |> (fun c =>
     { c with boot.role := 1, mgr.state := .active }) |> (fun c =>
     { c with mgr.devs := [⟨1021, 0, [], 1, 0, 0, 0, 0, 0, 0, 0, 0, 0, 0, 0⟩] }) |> (fun c =>
     { c with mgr.cells := [(⟨5, 1, 5, 0, 0⟩)] })), by decide +kernel⟩,
   ⟨1021, conf0, inboxBytes 1021 7 5 9 (leBytes 2 5 ++ [1]), ⟨5, 1021, 1, false, 40, 0, false⟩, on (awake |> (fun c =>
     { c with boot.role := 1, mgr.state := .active }) |> inboxMsg conf0 1021 7 5 9 (leBytes 2 5 ++ [1]) |> (fun c =>
     { c with mgr.moves := [(⟨5, 1021, 1, false, 40, 0, false⟩)] })), by decide +kernel⟩,
   ⟨1021, conf0, inboxBytes 1021 7 5 9 (leBytes 2 5 ++ [0]), ⟨5, 1021, 1, false, 40, 0, false⟩, on (awake |> (fun c =>
     { c with boot.role := 1, mgr.state := .active }) |> inboxMsg conf0 1021 7 5 9 (leBytes 2 5 ++ [0]) |> (fun c =>
     { c with mgr.moves := [(⟨5, 1021, 1, false, 40, 0, false⟩)] })), by decide +kernel⟩,
   ⟨1021, conf0, inboxBytes 1021 8 5 9 ([]), on (awake |> (fun c => { c with boot.role := 1, mgr.state := .active }) |> inboxMsg conf0
     1021 8 5 9 ([])), by decide +kernel⟩⟩

theorem witness_ActiveManagerCollectsAndEnumerates :
    (∃ (id : Nat) (k : SysConf) (d : MDev) (s : State), s.chip.fw.conf = some k ∧ s.chip.fwRuns = true ∧ s.chip.active = true ∧
      s.chip.mgr.dev id = some d ∧ (¬ (d.state = 1 ∧ batchOk id (s.chip.peekN (collectAt k id) 1024) = true ∧ leAt (s.chip.peekN
      (collectAt k id) 1024) 8 4 = d.nextSeq))) ∧
    (∃ (id : Nat) (k : SysConf) (d : MDev) (s : State), s.chip.fw.conf = some k ∧ s.chip.fwRuns = true ∧ s.chip.active = true ∧
      s.chip.mgr.dev id = some d ∧ (d.state = 1 ∧ batchOk id (s.chip.peekN (collectAt k id) 1024) = true ∧ leAt (s.chip.peekN (collectAt k
      id) 1024) 8 4 = d.nextSeq)) ∧
    (∃ (id : Nat) (got : Option (List Byte)) (seqs : List Nat) (k : SysConf) (d : MDev) (s : State), s.chip.fw.conf = some k ∧
      s.chip.fwRuns = true ∧ s.chip.active = true ∧ s.chip.mgr.dev id = some d ∧ d.state = 1 ∧ got = none ∧ d.fails < 2) ∧
    (∃ (id : Nat) (got : Option (List Byte)) (seqs : List Nat) (k : SysConf) (d : MDev) (s : State), s.chip.fw.conf = some k ∧
      s.chip.fwRuns = true ∧ s.chip.active = true ∧ s.chip.mgr.dev id = some d ∧ d.state = 1 ∧ got = none ∧ 2 ≤ d.fails) ∧
    (∃ (id : Nat) (got : Option (List Byte)) (seqs : List Nat) (k : SysConf) (d : MDev) (s : State) (b : List Byte), s.chip.fw.conf = some
      k ∧ s.chip.fwRuns = true ∧ s.chip.active = true ∧ s.chip.mgr.dev id = some d ∧ d.state = 1 ∧ got = some b ∧ (batchOk id b = false ∨
      (s.chip.mgr.again.contains (id, leAt b 8 4) = false ∧ leAt b 8 4 ≠ d.nextSeq ∧ atOrAfter (leAt b 8 4) d.nextSeq = false))) ∧
    (∃ (reads : List (Nat × List Byte × List Byte)) (a : Nat) (b : Nat) (k : SysConf) (s : State), s.chip.fw.conf = some k ∧ s.chip.fwRuns
      = true ∧ s.chip.active = true ∧ s.chip.mgr.nextPair = some (a, b) ∧ (∀ x ∈ reads, diverged x.2.1 x.2.2 = false)) ∧
    (∃ (w : List Seen) (keys : List KeyTry) (olds : List (Nat × Option Nat × Bool)) (k : SysConf) (own : Nat) (s : State), s.chip.fw.conf
      = some k ∧ s.chip.hlId = some own ∧ s.chip.fwRuns = true ∧ s.chip.active = true) ∧
    (∃ (keys : List KeyTry) (k : SysConf) (s : State), s.chip.fw.conf = some k ∧ s.chip.fwRuns = true ∧ s.chip.active = true ∧ keys = []) ∧
    (∃ (keys : List KeyTry) (k : SysConf) (s : State) (x : KeyTry), s.chip.fw.conf = some k ∧ s.chip.fwRuns = true ∧ s.chip.active = true
      ∧ keys = [x] ∧ s.chip.hlId ≠ some x.dev ∧ x.ok1 = false ∧ x.ok2 = false) ∧
    (∃ (keys : List KeyTry) (k : SysConf) (s : State) (x : KeyTry), s.chip.fw.conf = some k ∧ s.chip.fwRuns = true ∧ s.chip.active = true
      ∧ keys = [x] ∧ s.chip.hlId ≠ some x.dev ∧ (x.ok1 = true ∨ x.ok2 = true)) ∧
    (∃ (i : Instr) (k : SysConf) (s : State), (s.chip.fw.conf = some k ∧ s.chip.active = false) ∧ (∃ a b c r w y o, i = .resultBatchAccept
      a ∨ i = .batchMissingRead a b c ∨ i = .mirrorCompare r ∨ i = .enumeration w y o ∨ i = .linkKeySweep y)) :=
  ⟨⟨1021, conf0, ⟨1021, 0, [], 1, 0, 0, 0, 0, 0, 0, 0, 0, 0, 0, 0⟩, on (awake |> (fun c => { c with fw.conf := some conf0 }) |> (fun c =>
     { c with boot.role := 1, mgr.state := .active }) |> (fun c =>
     { c with mgr.devs := [(⟨1021, 0, [], 1, 0, 0, 0, 0, 0, 0, 0, 0, 0, 0, 0⟩)] })), by decide +kernel⟩,
   ⟨1021, conf0, ⟨1021, 0, [], 1, 0, 0, 9, 0, 0, 0, 0, 0, 0, 0, 0⟩, on (awake |> (fun c => { c with fw.conf := some conf0 }) |> (fun c =>
     { c with boot.role := 1, mgr.state := .active }) |> (fun c =>
     { c with mgr.devs := [(⟨1021, 0, [], 1, 0, 0, 9, 0, 0, 0, 0, 0, 0, 0, 0⟩)] }) |> (·.pokeN (collectAt conf0 1021) (batch 1021 9))),
     by decide +kernel⟩,
   ⟨1021, none, [], conf0, ⟨1021, 0, [], 1, 0, 0, 0, 0, 0, 0, 0, 1, 0, 0, 0⟩, on (awake |> (fun c => { c with fw.conf := some conf0 }) |>
     (fun c => { c with boot.role := 1, mgr.state := .active }) |> (fun c =>
     { c with mgr.devs := [(⟨1021, 0, [], 1, 0, 0, 0, 0, 0, 0, 0, 1, 0, 0, 0⟩)] })), by decide +kernel⟩,
   ⟨1021, none, [], conf0, ⟨1021, 0, [], 1, 0, 0, 0, 0, 0, 0, 0, 2, 0, 0, 0⟩, on (awake |> (fun c => { c with fw.conf := some conf0 }) |>
     (fun c => { c with boot.role := 1, mgr.state := .active }) |> (fun c =>
     { c with mgr.devs := [(⟨1021, 0, [], 1, 0, 0, 0, 0, 0, 0, 0, 2, 0, 0, 0⟩)] })), by decide +kernel⟩,
   ⟨1021, some [], [], conf0, ⟨1021, 0, [], 1, 0, 0, 0, 0, 0, 0, 0, 0, 0, 0, 0⟩, on (awake |> (fun c => { c with fw.conf := some conf0 })
     |> (fun c => { c with boot.role := 1, mgr.state := .active }) |> (fun c =>
     { c with mgr.devs := [(⟨1021, 0, [], 1, 0, 0, 0, 0, 0, 0, 0, 0, 0, 0, 0⟩)] })), [], by decide +kernel⟩,
   ⟨[], 1, 2, conf0, on (awake |> (fun c => { c with boot.role := 1, mgr.state := .active }) |> (fun c =>
     { c with mgr.devs := [{ (default : MDev) with id := 1, state := 1, buddy := 2 }, { (default : MDev) with id := 2, state := 1, buddy := 1 }] })),
     by decide +kernel⟩,
   ⟨[], [], [], conf0, 0, on (awake |> (fun c => { c with fw.conf := some conf0 }) |> (·.setReg 0x40040004 (BitVec.ofNat 32 (2 ^ 31 + 0)))
     |> (fun c => { c with boot.role := 1, mgr.state := .active })), by decide +kernel⟩,
   ⟨[], conf0, on (awake |> (fun c => { c with fw.conf := some conf0 }) |> (fun c => { c with boot.role := 1, mgr.state := .active })),
     by decide +kernel⟩,
   ⟨[⟨1, 3, 2, 0, [], [], false, false⟩], conf0, on (awake |> (fun c => { c with fw.conf := some conf0 }) |> (fun c =>
     { c with boot.role := 1, mgr.state := .active })), ⟨1, 3, 2, 0, [], [], false, false⟩, by decide +kernel⟩,
   ⟨[⟨1, 3, 2, 0, [], [], true, false⟩], conf0, on (awake |> (fun c => { c with fw.conf := some conf0 }) |> (fun c =>
     { c with boot.role := 1, mgr.state := .active })), ⟨1, 3, 2, 0, [], [], true, false⟩, by decide +kernel⟩,
   ⟨.mirrorCompare [], conf0, on (awake |> (fun c => { c with fw.conf := some conf0 }) |> (fun c => { c with boot.role := 0 })),
     by decide +kernel, ⟨0, none, [], [], [], [], [], Or.inr (Or.inr (Or.inl rfl))⟩⟩⟩

theorem witness_CanFramesAreFilteredAndPlaced :
    (∃ (n : Nat) (e : List Byte) (s : State), n < 2 ∧ 16 ≤ e.length ∧ s.chip.ecc = [] ∧ (¬ (s.chip.dom 3 = true ∧ s.chip.canMode n ≠ 0 ∧
      s.chip.canMode n ≠ 4 ∧ s.chip.canOff n = false ∧ ((leAt e 4 1 % 4) = 2 → s.chip.canXl n = true)))) ∧
    (∃ (n : Nat) (e : List Byte) (s : State) (f : Nat), f < 32 ∧ n < 2 ∧ 16 ≤ e.length ∧ s.chip.ecc = [] ∧ (s.chip.dom 3 = true ∧
      s.chip.canMode n ≠ 0 ∧ s.chip.canMode n ≠ 4 ∧ s.chip.canOff n = false ∧ ((leAt e 4 1 % 4) = 2 → s.chip.canXl n = true)) ∧
      (s.chip.bit ((canReg n (0x104 + 8 * f))) 31 = true ∧ (((s.chip.act (canReg n (0x100 + 8 * f))).toNat) / 2 ^ 30 = 0 ∨ ((s.chip.act
      (canReg n (0x100 + 8 * f))).toNat) / 2 ^ 30 = (leAt e 4 1 % 4) + 1) ∧ (((s.chip.act (canReg n (0x100 + 8 * f))).toNat) ^^^ leAt e 0
      4) &&& ((s.chip.act ((canReg n (0x104 + 8 * f)))).toNat % 2 ^ 29) = 0) ∧ (∀ g < f, ¬ (s.chip.bit ((canReg n (0x104 + 8 * g))) 31 =
      true ∧ (((s.chip.act (canReg n (0x100 + 8 * g))).toNat) / 2 ^ 30 = 0 ∨ ((s.chip.act (canReg n (0x100 + 8 * g))).toNat) / 2 ^ 30 =
      (leAt e 4 1 % 4) + 1) ∧ (((s.chip.act (canReg n (0x100 + 8 * g))).toNat) ^^^ leAt e 0 4) &&& ((s.chip.act ((canReg n (0x104 + 8 *
      g)))).toNat % 2 ^ 29) = 0))) ∧
    (∃ (n : Nat) (e : List Byte) (s : State), n < 2 ∧ 16 ≤ e.length ∧ s.chip.ecc = [] ∧ (s.chip.dom 3 = true ∧ s.chip.canMode n ≠ 0 ∧
      s.chip.canMode n ≠ 4 ∧ s.chip.canOff n = false ∧ ((leAt e 4 1 % 4) = 2 → s.chip.canXl n = true)) ∧ (∀ f < 32, ¬ (s.chip.bit ((canReg
      n (0x104 + 8 * f))) 31 = true ∧ (((s.chip.act (canReg n (0x100 + 8 * f))).toNat) / 2 ^ 30 = 0 ∨ ((s.chip.act (canReg n (0x100 + 8 *
      f))).toNat) / 2 ^ 30 = (leAt e 4 1 % 4) + 1) ∧ (((s.chip.act (canReg n (0x100 + 8 * f))).toNat) ^^^ leAt e 0 4) &&& ((s.chip.act
      ((canReg n (0x104 + 8 * f)))).toNat % 2 ^ 29) = 0)) ∧ s.chip.bit (canReg n 4) 4 = true) ∧
    (∃ (n : Nat) (e : List Byte) (s : State), n < 2 ∧ 16 ≤ e.length ∧ s.chip.ecc = [] ∧ (s.chip.dom 3 = true ∧ s.chip.canMode n ≠ 0 ∧
      s.chip.canMode n ≠ 4 ∧ s.chip.canOff n = false ∧ ((leAt e 4 1 % 4) = 2 → s.chip.canXl n = true)) ∧ (∀ f < 32, ¬ (s.chip.bit ((canReg
      n (0x104 + 8 * f))) 31 = true ∧ (((s.chip.act (canReg n (0x100 + 8 * f))).toNat) / 2 ^ 30 = 0 ∨ ((s.chip.act (canReg n (0x100 + 8 *
      f))).toNat) / 2 ^ 30 = (leAt e 4 1 % 4) + 1) ∧ (((s.chip.act (canReg n (0x100 + 8 * f))).toNat) ^^^ leAt e 0 4) &&& ((s.chip.act
      ((canReg n (0x104 + 8 * f)))).toNat % 2 ^ 29) = 0)) ∧ s.chip.bit (canReg n 4) 4 = false) :=
  ⟨⟨1, entryOf 5 0 0 0 0 0 0, on (awake |> (fun c => { c with ecc := [] })), by decide +kernel⟩,
   ⟨1, entryOf 5 0 0 0 0 0 0, on (awake |> (fun c => { c with ecc := [] }) |> (·.setBit (((canReg 1 (0x104 + 8 * 31)))) 31 true) |>
     (·.setFld (canReg 1 4) 0 3 1) |> (·.setReg (canReg 1 0x1F8) (5))), 31, by decide +kernel⟩,
   ⟨1, entryOf 5 0 0 0 0 0 0, on (awake |> (fun c => { c with ecc := [] }) |> (·.setBit ((canReg 1 4)) 4 true) |> (·.setFld (canReg 1 4) 0
     3 1)), by decide +kernel⟩,
   ⟨1, entryOf 5 0 0 0 0 0 0, on (awake |> (fun c => { c with ecc := [] }) |> (·.setBit ((canReg 1 4)) 4 false) |> (·.setFld (canReg 1 4)
     0 3 1)), by decide +kernel⟩⟩

theorem witness_CanOffersAndModes :
    (∃ (n : Nat) (s : State), n < 2 ∧ s.chip.can.length = 2 ∧ s.chip.vif.sent.length = 4 ∧ s.chip.dom 3 = true ∧ s.chip.canMode n = 1 ∧
      s.chip.canOff n = false ∧ ((nth s.chip.can n default).safeGo) = true ∧ (nth s.chip.can n default).safeDue = false) ∧
    (∃ (n : Nat) (s : State) (o : CanEnd), n < 2 ∧ s.chip.can.length = 2 ∧ s.chip.vif.sent.length = 4 ∧ s.chip.dom 3 = true ∧
      s.chip.canMode n = 1 ∧ s.chip.canOff n = false ∧ ((nth s.chip.can n default).safeGo) = false ∧ s.chip.txSlot (canReg n 0x40) = none) ∧
    (∃ (n : Nat) (s : State) (a : Nat) (o : CanEnd), n < 2 ∧ s.chip.can.length = 2 ∧ s.chip.vif.sent.length = 4 ∧ s.chip.dom 3 = true ∧
      s.chip.canMode n = 1 ∧ s.chip.canOff n = false ∧ ((nth s.chip.can n default).safeGo) = false ∧ s.chip.txSlot (canReg n 0x40) = some
      a ∧ s.chip.ecc = [] ∧ (∀ g < 8, nth s.chip.power.grp g .off = .awake) ∧ a < 0x800000 ∧ s.chip.gate 48 (s.chip.portCls 48) a 16 false
      = .open ∧ ((leAt (s.chip.peekN a 16) 6 2) ≠ 0 → s.chip.gate 48 (s.chip.portCls 48) (a + 16) (leAt (s.chip.peekN a 16) 6 2) false =
      .open) ∧ s.chip.canBad n (canReg n 0x40) (s.chip.peekN a 16) = true) ∧
    (∃ (n : Nat) (s : State) (a : Nat), n < 2 ∧ s.chip.can.length = 2 ∧ s.chip.vif.sent.length = 4 ∧ s.chip.dom 3 = true ∧ s.chip.canMode
      n = 1 ∧ s.chip.canOff n = false ∧ ((nth s.chip.can n default).safeGo) = false ∧ s.chip.txSlot (canReg n 0x40) = some a ∧ s.chip.ecc
      = [] ∧ (∀ g < 8, nth s.chip.power.grp g .off = .awake) ∧ a < 0x800000 ∧ s.chip.gate 48 (s.chip.portCls 48) a 16 false = .open ∧
      ((leAt (s.chip.peekN a 16) 6 2) ≠ 0 → s.chip.gate 48 (s.chip.portCls 48) (a + 16) (leAt (s.chip.peekN a 16) 6 2) false = .open) ∧
      s.chip.canBad n (canReg n 0x40) (s.chip.peekN a 16) = false) ∧
    (∃ (n : Nat) (s : State) (port : Nat) (v : Word), n < 2 ∧ s.chip.can.length = 2 ∧ s.chip.vif.sent.length = 4 ∧ s.chip.canStore port
      (canReg n 0x250) ∧ port ≠ 40) ∧
    (∃ (n : Nat) (s : State) (port : Nat) (v : Word), n < 2 ∧ s.chip.can.length = 2 ∧ s.chip.vif.sent.length = 4 ∧ s.chip.canStore port
      (canReg n 0x250) ∧ port = 40 ∧ bit v 0 = true) ∧
    (∃ (n : Nat) (s : State) (port : Nat) (v : Word), n < 2 ∧ s.chip.can.length = 2 ∧ s.chip.vif.sent.length = 4 ∧ s.chip.canStore port
      (canReg n 0x250) ∧ port = 40 ∧ bit v 1 = true) ∧
    (∃ (n : Nat) (s : State) (port : Nat) (v : Word), n < 2 ∧ s.chip.can.length = 2 ∧ s.chip.vif.sent.length = 4 ∧ s.chip.canStore port
      (canReg n 4) ∧ (fld v 0 3) < 5 ∧ ((fld v 0 3) = 0 ∨ (fld v 0 3) = s.chip.canMode n ∨ (s.chip.timingOk (canReg n 8) 80 640 = true ∧
      s.chip.timingOk (canReg n 12) 10 (2 ^ 20) = true ∧ ((if s.chip.canMode n = 0 then decide (n = 0) && bit v 5 else s.chip.canXl n) =
      true → s.chip.timingOk (canReg n 16) 4 (2 ^ 20) = true)))) ∧
    (∃ (n : Nat) (s : State) (port : Nat) (v : Word), n < 2 ∧ s.chip.can.length = 2 ∧ s.chip.vif.sent.length = 4 ∧ s.chip.canStore port
      (canReg n 4) ∧ (5 ≤ (fld v 0 3) ∨ ((fld v 0 3) ≠ 0 ∧ (fld v 0 3) ≠ s.chip.canMode n ∧ ¬ (s.chip.timingOk (canReg n 8) 80 640 = true
      ∧ s.chip.timingOk (canReg n 12) 10 (2 ^ 20) = true ∧ ((if s.chip.canMode n = 0 then decide (n = 0) && bit v 5 else s.chip.canXl n) =
      true → s.chip.timingOk (canReg n 16) 4 (2 ^ 20) = true))))) ∧
    (∃ (n : Nat) (s : State), n < 2 ∧ s.chip.can.length = 2 ∧ s.chip.vif.sent.length = 4 ∧ s.chip.dom 3 = true ∧ s.chip.canMode n ≠ 0) ∧
    (∃ (n : Nat) (s : State), n < 2 ∧ s.chip.can.length = 2 ∧ s.chip.vif.sent.length = 4 ∧ s.chip.canOff n = true ∧ s.chip.canMode n ≠ 0 ∧
      s.chip.bit (canReg n 4) 3 = true) ∧
    (∃ (n : Nat) (s : State), n < 2 ∧ s.chip.can.length = 2 ∧ s.chip.vif.sent.length = 4 ∧ s.chip.canOff n = true ∧ s.chip.canMode n ≠ 0 ∧
      s.chip.bit (canReg n 4) 3 = false) :=
  ⟨⟨1, on (awake |> (·.setFld (canReg 1 4) 0 3 1) |> (fun c => { c with can := upd c.can 1 fun k => { k with safeGo := true } })),
     by decide +kernel⟩,
   ⟨1, on (awake |> (·.setFld (canReg 1 4) 0 3 1)), CanEnd.sent, by decide +kernel⟩,
   ⟨1, on (awake |> (fun c => { c with ecc := [] }) |> (·.setFld (canReg 1 4) 0 3 1) |> withRing (canReg 1 0x40) 0x10000 1 2 1 0 |>
     (·.pokeN (0x10000) (entryOf 5 0 1 0 0 0 0))), 0x10000, CanEnd.sent, by decide +kernel⟩,
   ⟨1, on (awake |> (fun c => { c with ecc := [] }) |> (·.setFld (canReg 1 4) 0 3 1) |> withRing (canReg 1 0x40) 0x10000 1 2 1 0 |>
     (·.pokeN (0x10000) (entryOf 5 0 0 8 0 0 8))), 0x10000, by decide +kernel⟩,
   ⟨1, on awake, 0, 0, by decide +kernel⟩,
   ⟨1, on awake, 40, putFld (0) (0) 1 (1), by decide +kernel⟩,
   ⟨1, on awake, 40, putFld (0) (1) 1 (1), by decide +kernel⟩,
   ⟨1, on awake, 0, putFld (putFld (0) (0) 3 (0)) (0) 3 (0), by decide +kernel⟩,
   ⟨1, on awake, 39, 5, by decide +kernel⟩,
   ⟨1, on (awake |> (·.setFld (canReg 1 4) 0 3 1)), by decide +kernel⟩,
   ⟨1, on (awake |> (·.setBit ((canReg 1 4)) 3 true) |> (·.setFld (canReg 1 4) 0 3 1) |> (·.setReg (canReg 1 0) (2))), by decide +kernel⟩,
   ⟨1, on (awake |> (·.setBit ((canReg 1 4)) 3 false) |> (·.setFld (canReg 1 4) 0 3 1) |> (·.setReg (canReg 1 0) (2))), by decide +kernel⟩⟩

theorem witness_MacFramesAreAcceptedAndSent :
    (∃ (eth : Bool) (s : State) (f : List Byte) (ok : Bool), s.chip.vif.sent.length = 4 ∧ s.chip.ecc = [] ∧ (¬ (s.chip.dom 3 = true ∧
      s.chip.bit ((if eth then 0x40053000 else 0x40052000) + 4) 0 = true) ∨ ((ok = true ∧ 60 ≤ f.length ∧ f.length ≤ 1518) ∧ ¬ ((f.take 6)
      = s.chip.macAt ((if eth then 0x40053000 else 0x40052000) + 12) ((if eth then 0x40053000 else 0x40052000) + 16) ∨ (f.take 6) =
      List.replicate 6 0xFF ∨ s.chip.bit ((if eth then 0x40053000 else 0x40052000) + 4) 2 = true ∨ ∃ k < 4, s.chip.bit ((if eth then
      0x40053000 else 0x40052000) + 0x24 + 8 * k) 31 = true ∧ s.chip.macAt ((if eth then 0x40053000 else 0x40052000) + 0x20 + 8 * k) ((if
      eth then 0x40053000 else 0x40052000) + 0x24 + 8 * k) = (f.take 6))))) ∧
    (∃ (eth : Bool) (s : State) (f : List Byte) (ok : Bool), s.chip.vif.sent.length = 4 ∧ s.chip.ecc = [] ∧ (s.chip.dom 3 = true ∧
      s.chip.bit ((if eth then 0x40053000 else 0x40052000) + 4) 0 = true) ∧ (¬ (ok = true ∧ 60 ≤ f.length ∧ f.length ≤ 1518))) ∧
    (∃ (eth : Bool) (s : State) (f : List Byte) (ok : Bool), s.chip.vif.sent.length = 4 ∧ s.chip.ecc = [] ∧ (s.chip.dom 3 = true ∧
      s.chip.bit ((if eth then 0x40053000 else 0x40052000) + 4) 0 = true) ∧ (ok = true ∧ 60 ≤ f.length ∧ f.length ≤ 1518) ∧ ((f.take 6) =
      s.chip.macAt ((if eth then 0x40053000 else 0x40052000) + 12) ((if eth then 0x40053000 else 0x40052000) + 16) ∨ (f.take 6) =
      List.replicate 6 0xFF ∨ s.chip.bit ((if eth then 0x40053000 else 0x40052000) + 4) 2 = true ∨ ∃ k < 4, s.chip.bit ((if eth then
      0x40053000 else 0x40052000) + 0x24 + 8 * k) 31 = true ∧ s.chip.macAt ((if eth then 0x40053000 else 0x40052000) + 0x20 + 8 * k) ((if
      eth then 0x40053000 else 0x40052000) + 0x24 + 8 * k) = (f.take 6)) ∧ (¬ (s.chip.bit ((if slice f 12 2 = [0x88, 0xF7] then (if eth
      then 0x40053000 else 0x40052000) + 0x60 else (if eth then 0x40053000 else 0x40052000) + 0x50) + 4) 0 = true ∧ s.chip.ringNext (if
      slice f 12 2 = [0x88, 0xF7] then (if eth then 0x40053000 else 0x40052000) + 0x60 else (if eth then 0x40053000 else 0x40052000) +
      0x50) ((s.chip.reg ((if slice f 12 2 = [0x88, 0xF7] then (if eth then 0x40053000 else 0x40052000) + 0x60 else (if eth then
      0x40053000 else 0x40052000) + 0x50) + 8)).toNat) ≠ (s.chip.act ((if slice f 12 2 = [0x88, 0xF7] then (if eth then 0x40053000 else
      0x40052000) + 0x60 else (if eth then 0x40053000 else 0x40052000) + 0x50) + 12)).toNat ∧ 16 + f.length ≤ s.chip.slotSize (if slice f
      12 2 = [0x88, 0xF7] then (if eth then 0x40053000 else 0x40052000) + 0x60 else (if eth then 0x40053000 else 0x40052000) + 0x50)))) ∧
    (∃ (eth : Bool) (s : State) (f : List Byte) (ok : Bool), s.chip.vif.sent.length = 4 ∧ s.chip.ecc = [] ∧ (s.chip.dom 3 = true ∧
      s.chip.bit ((if eth then 0x40053000 else 0x40052000) + 4) 0 = true) ∧ (ok = true ∧ 60 ≤ f.length ∧ f.length ≤ 1518) ∧ ((f.take 6) =
      s.chip.macAt ((if eth then 0x40053000 else 0x40052000) + 12) ((if eth then 0x40053000 else 0x40052000) + 16) ∨ (f.take 6) =
      List.replicate 6 0xFF ∨ s.chip.bit ((if eth then 0x40053000 else 0x40052000) + 4) 2 = true ∨ ∃ k < 4, s.chip.bit ((if eth then
      0x40053000 else 0x40052000) + 0x24 + 8 * k) 31 = true ∧ s.chip.macAt ((if eth then 0x40053000 else 0x40052000) + 0x20 + 8 * k) ((if
      eth then 0x40053000 else 0x40052000) + 0x24 + 8 * k) = (f.take 6)) ∧ (s.chip.bit ((if slice f 12 2 = [0x88, 0xF7] then (if eth then
      0x40053000 else 0x40052000) + 0x60 else (if eth then 0x40053000 else 0x40052000) + 0x50) + 4) 0 = true ∧ s.chip.ringNext (if slice f
      12 2 = [0x88, 0xF7] then (if eth then 0x40053000 else 0x40052000) + 0x60 else (if eth then 0x40053000 else 0x40052000) + 0x50)
      ((s.chip.reg ((if slice f 12 2 = [0x88, 0xF7] then (if eth then 0x40053000 else 0x40052000) + 0x60 else (if eth then 0x40053000 else
      0x40052000) + 0x50) + 8)).toNat) ≠ (s.chip.act ((if slice f 12 2 = [0x88, 0xF7] then (if eth then 0x40053000 else 0x40052000) + 0x60
      else (if eth then 0x40053000 else 0x40052000) + 0x50) + 12)).toNat ∧ 16 + f.length ≤ s.chip.slotSize (if slice f 12 2 = [0x88, 0xF7]
      then (if eth then 0x40053000 else 0x40052000) + 0x60 else (if eth then 0x40053000 else 0x40052000) + 0x50)) ∧ (s.chip.slotAt (if
      slice f 12 2 = [0x88, 0xF7] then (if eth then 0x40053000 else 0x40052000) + 0x60 else (if eth then 0x40053000 else 0x40052000) +
      0x50) ((s.chip.reg ((if slice f 12 2 = [0x88, 0xF7] then (if eth then 0x40053000 else 0x40052000) + 0x60 else (if eth then
      0x40053000 else 0x40052000) + 0x50) + 8)).toNat)) + (16 + f.length) ≤ 0x800000 ∧ s.chip.gate 48 (s.chip.portCls 48) (s.chip.slotAt
      (if slice f 12 2 = [0x88, 0xF7] then (if eth then 0x40053000 else 0x40052000) + 0x60 else (if eth then 0x40053000 else 0x40052000) +
      0x50) ((s.chip.reg ((if slice f 12 2 = [0x88, 0xF7] then (if eth then 0x40053000 else 0x40052000) + 0x60 else (if eth then
      0x40053000 else 0x40052000) + 0x50) + 8)).toNat)) (16 + f.length) true = .open ∧ (∀ l ∈ linesOf (s.chip.slotAt (if slice f 12 2 =
      [0x88, 0xF7] then (if eth then 0x40053000 else 0x40052000) + 0x60 else (if eth then 0x40053000 else 0x40052000) + 0x50) ((s.chip.reg
      ((if slice f 12 2 = [0x88, 0xF7] then (if eth then 0x40053000 else 0x40052000) + 0x60 else (if eth then 0x40053000 else 0x40052000)
      + 0x50) + 8)).toNat)) (16 + f.length), nth s.chip.power.grp (grpOf l) .off = .awake)) ∧
    (∃ (eth : Bool) (s : State) (r : Nat) (a : Nat), s.chip.vif.sent.length = 4 ∧ s.chip.ecc = [] ∧ (s.chip.dom 3 = true ∧ s.chip.bit ((if
      eth then 0x40053000 else 0x40052000) + 4) 0 = true) ∧ (if eth then (r = (if eth then 0x40053000 else 0x40052000) + 0x70 ∨ (r = (if
      eth then 0x40053000 else 0x40052000) + 0x40 ∧ s.chip.txSlot ((if eth then 0x40053000 else 0x40052000) + 0x70) = none)) else r = (if
      eth then 0x40053000 else 0x40052000) + 0x40) ∧ s.chip.txSlot r = some a ∧ (∀ g < 8, nth s.chip.power.grp g .off = .awake) ∧ a + 1536
      ≤ 0x800000 ∧ s.chip.gate 48 (s.chip.portCls 48) a 16 false = .open ∧ ((2 ≤ leAt (s.chip.peekN a 16) 0 4 ∨ leAt (s.chip.peekN a 16) 4
      2 ≠ 0 ∨ leAt (s.chip.peekN a 16) 12 4 ≠ 0 ∨ (leAt (s.chip.peekN a 16) 6 2) < 14 ∨ 1518 < (leAt (s.chip.peekN a 16) 6 2) ∨
      s.chip.slotSize r < 16 + (leAt (s.chip.peekN a 16) 6 2)) ∨ s.chip.gate 48 (s.chip.portCls 48) (a + 16) (leAt (s.chip.peekN a 16) 6
      2) false = .open) ∧ s.chip.gate 48 (s.chip.portCls 48) (a + 8) 4 true = .open ∧ (2 ≤ leAt (s.chip.peekN a 16) 0 4 ∨ leAt
      (s.chip.peekN a 16) 4 2 ≠ 0 ∨ leAt (s.chip.peekN a 16) 12 4 ≠ 0 ∨ (leAt (s.chip.peekN a 16) 6 2) < 14 ∨ 1518 < (leAt (s.chip.peekN a
      16) 6 2) ∨ s.chip.slotSize r < 16 + (leAt (s.chip.peekN a 16) 6 2))) ∧
    (∃ (eth : Bool) (s : State) (r : Nat) (a : Nat), s.chip.vif.sent.length = 4 ∧ s.chip.ecc = [] ∧ (s.chip.dom 3 = true ∧ s.chip.bit ((if
      eth then 0x40053000 else 0x40052000) + 4) 0 = true) ∧ (if eth then (r = (if eth then 0x40053000 else 0x40052000) + 0x70 ∨ (r = (if
      eth then 0x40053000 else 0x40052000) + 0x40 ∧ s.chip.txSlot ((if eth then 0x40053000 else 0x40052000) + 0x70) = none)) else r = (if
      eth then 0x40053000 else 0x40052000) + 0x40) ∧ s.chip.txSlot r = some a ∧ (∀ g < 8, nth s.chip.power.grp g .off = .awake) ∧ a + 1536
      ≤ 0x800000 ∧ s.chip.gate 48 (s.chip.portCls 48) a 16 false = .open ∧ ((2 ≤ leAt (s.chip.peekN a 16) 0 4 ∨ leAt (s.chip.peekN a 16) 4
      2 ≠ 0 ∨ leAt (s.chip.peekN a 16) 12 4 ≠ 0 ∨ (leAt (s.chip.peekN a 16) 6 2) < 14 ∨ 1518 < (leAt (s.chip.peekN a 16) 6 2) ∨
      s.chip.slotSize r < 16 + (leAt (s.chip.peekN a 16) 6 2)) ∨ s.chip.gate 48 (s.chip.portCls 48) (a + 16) (leAt (s.chip.peekN a 16) 6
      2) false = .open) ∧ s.chip.gate 48 (s.chip.portCls 48) (a + 8) 4 true = .open ∧ (¬ (2 ≤ leAt (s.chip.peekN a 16) 0 4 ∨ leAt
      (s.chip.peekN a 16) 4 2 ≠ 0 ∨ leAt (s.chip.peekN a 16) 12 4 ≠ 0 ∨ (leAt (s.chip.peekN a 16) 6 2) < 14 ∨ 1518 < (leAt (s.chip.peekN a
      16) 6 2) ∨ s.chip.slotSize r < 16 + (leAt (s.chip.peekN a 16) 6 2))) ∧ leAt (s.chip.peekN a 16) 0 4 = 0) ∧
    (∃ (eth : Bool) (s : State) (r : Nat) (a : Nat), s.chip.vif.sent.length = 4 ∧ s.chip.ecc = [] ∧ (s.chip.dom 3 = true ∧ s.chip.bit ((if
      eth then 0x40053000 else 0x40052000) + 4) 0 = true) ∧ (if eth then (r = (if eth then 0x40053000 else 0x40052000) + 0x70 ∨ (r = (if
      eth then 0x40053000 else 0x40052000) + 0x40 ∧ s.chip.txSlot ((if eth then 0x40053000 else 0x40052000) + 0x70) = none)) else r = (if
      eth then 0x40053000 else 0x40052000) + 0x40) ∧ s.chip.txSlot r = some a ∧ (∀ g < 8, nth s.chip.power.grp g .off = .awake) ∧ a + 1536
      ≤ 0x800000 ∧ s.chip.gate 48 (s.chip.portCls 48) a 16 false = .open ∧ ((2 ≤ leAt (s.chip.peekN a 16) 0 4 ∨ leAt (s.chip.peekN a 16) 4
      2 ≠ 0 ∨ leAt (s.chip.peekN a 16) 12 4 ≠ 0 ∨ (leAt (s.chip.peekN a 16) 6 2) < 14 ∨ 1518 < (leAt (s.chip.peekN a 16) 6 2) ∨
      s.chip.slotSize r < 16 + (leAt (s.chip.peekN a 16) 6 2)) ∨ s.chip.gate 48 (s.chip.portCls 48) (a + 16) (leAt (s.chip.peekN a 16) 6
      2) false = .open) ∧ s.chip.gate 48 (s.chip.portCls 48) (a + 8) 4 true = .open ∧ (¬ (2 ≤ leAt (s.chip.peekN a 16) 0 4 ∨ leAt
      (s.chip.peekN a 16) 4 2 ≠ 0 ∨ leAt (s.chip.peekN a 16) 12 4 ≠ 0 ∨ (leAt (s.chip.peekN a 16) 6 2) < 14 ∨ 1518 < (leAt (s.chip.peekN a
      16) 6 2) ∨ s.chip.slotSize r < 16 + (leAt (s.chip.peekN a 16) 6 2))) ∧ leAt (s.chip.peekN a 16) 0 4 = 1) ∧
    (∃ (eth : Bool) (s : State) (o : Bool), s.chip.vif.sent.length = 4 ∧ s.chip.ecc = [] ∧ s.chip.txSlot 0x40052040 = none) ∧
    (∃ (eth : Bool) (s : State), s.chip.vif.sent.length = 4 ∧ s.chip.ecc = [] ∧ s.chip.txSlot 0x40053070 = none ∧ s.chip.txSlot 0x40053040
      = none) ∧
    (∃ (eth : Bool) (s : State), s.chip.vif.sent.length = 4 ∧ s.chip.ecc = [] ∧ eth = false ∧ (s.chip.dom 3 = true ∧ s.chip.bit ((if eth
      then 0x40053000 else 0x40052000) + 4) 0 = true) ∧ s.chip.txSlot 0x40052040 ≠ none) :=
  ⟨⟨false, on (awake |> (fun c => { c with ecc := [] })), [], false, by decide +kernel⟩,
   ⟨false, on (awake |> (fun c => { c with ecc := [] }) |> (·.setBit (((if false then 0x40053000 else 0x40052000) + 4)) 0 true)), [],
     false, by decide +kernel⟩,
   ⟨false, on (awake |> (fun c => { c with ecc := [] }) |> (·.setBit (((if false then 0x40053000 else 0x40052000) + 4)) 0 true)),
     List.replicate 6 0xFF ++ List.replicate 54 1, true, by decide +kernel⟩,
   ⟨false, on (awake |> (fun c => { c with ecc := [] }) |> (·.setBit (((if false then 0x40053000 else 0x40052000) + 4)) 0 true) |>
     (·.setBit (((if slice (List.replicate 6 0xFF ++ List.replicate 54 1) 12 2 = [0x88, 0xF7] then (if false then 0x40053000 else
     0x40052000) + 0x60 else (if false then 0x40053000 else 0x40052000) + 0x50) + 4)) 0 true) |> withRing 0x40052050 0x10000 1 8 0 0),
     List.replicate 6 0xFF ++ List.replicate 54 1, true, by decide +kernel⟩,
   ⟨false, on (awake |> (fun c => { c with ecc := [] }) |> (·.setBit (((if false then 0x40053000 else 0x40052000) + 4)) 0 true) |>
     withRing 0x40052040 0x10000 1 8 1 0 |> (·.pokeN (0x10000) (entryOf 2 0 0 60 0 0 60))), 0x40052040, 0x10000, by decide +kernel⟩,
   ⟨false, on (awake |> (fun c => { c with ecc := [] }) |> (·.setBit (((if false then 0x40053000 else 0x40052000) + 4)) 0 true) |>
     withRing 0x40052040 0x10000 1 8 1 0 |> (·.pokeN (0x10000) (entryOf 0 0 0 60 0 0 60))), 0x40052040, 0x10000, by decide +kernel⟩,
   ⟨false, on (awake |> (fun c => { c with ecc := [] }) |> (·.setBit (((if false then 0x40053000 else 0x40052000) + 4)) 0 true) |>
     withRing 0x40052040 0x10000 1 8 1 0 |> (·.pokeN (0x10000) (entryOf 1 0 0 60 0 0 60))), 0x40052040, 0x10000, by decide +kernel⟩,
   ⟨false, on (awake |> (fun c => { c with ecc := [] })), false, by decide +kernel⟩,
   ⟨false, on (awake |> (fun c => { c with ecc := [] })), by decide +kernel⟩,
   ⟨false, on (awake |> (fun c => { c with ecc := [] }) |> (·.setBit (((if false then 0x40053000 else 0x40052000) + 4)) 0 true) |>
     withRing 0x40052040 0x10000 1 8 1 0), by decide +kernel⟩⟩

theorem witness_ManagementBusesAndPackTime :
    (∃ (port : Nat) (v : Word) (s : State), s.chip.canStore port 0x40053080 ∧ s.chip.vif.mdio = none) ∧
    (∃ (port : Nat) (v : Word) (s : State), s.chip.canStore port 0x40053080 ∧ s.chip.vif.mdio ≠ none) ∧
    (∃ (data : Nat) (v : Word) (s : State), s.chip.vif.mdio = some v) ∧
    (∃ (up : Bool) (speed : Nat) (s : State), s.chip.dom 3 = true ∧ speed < 3) ∧
    (∃ (port : Nat) (v : Word) (s : State), s.chip.canStore port 0x40056004 ∧ (bit (s.chip.reg 0x40056008) 0) = true) ∧
    (∃ (port : Nat) (v : Word) (s : State), s.chip.canStore port 0x40056004 ∧ (bit (s.chip.reg 0x40056008) 0) = false ∧ (s.chip.bit
      0x40056000 0) = false) ∧
    (∃ (port : Nat) (v : Word) (s : State), s.chip.canStore port 0x40056004 ∧ (bit (s.chip.reg 0x40056008) 0) = false ∧ (s.chip.bit
      0x40056000 0) = true) ∧
    (∃ (ack : Bool) (data : List Byte) (v : Word) (s : State), s.chip.vif.i3c = some v ∧ (ack = false ∨ bit v 7 = false)) ∧
    (∃ (ack : Bool) (data : List Byte) (v : Word) (s : State) (j : Nat), j < data.length ∧ s.chip.vif.i3c = some v ∧ ack = true ∧ bit v 7
      = true ∧ j < fld v 8 5 + 1) ∧
    (∃ (ack : Bool) (data : List Byte) (v : Word) (s : State), s.chip.vif.i3c = some v ∧ ack = false) ∧
    (∃ (v : Word) (s : State), s.chip.vif.i3c = some v) ∧
    (∃ (port : Nat) (v : Word) (s : State), s.chip.canStore port 0x40080018 ∧ bit v 0 = true ∧ (bit (s.chip.reg 0x4008001C) 3) = false) ∧
    (∃ (port : Nat) (v : Word) (s : State), s.chip.canStore port 0x40080018 ∧ (bit v 0 = false ∨ (bit (s.chip.reg 0x4008001C) 3) = true)) ∧
    (∃ (port : Nat) (v : Word) (s : State), s.chip.canStore port 0x40080018 ∧ bit v 0 = true ∧ (bit (s.chip.reg 0x4008001C) 3) = true) ∧
    (∃ (port : Nat) (s : State), s.chip.canLoad port 0x40080000) :=
  ⟨⟨39, 0, on (awake |> (fun c => { c with vif.mdio := none })), by decide +kernel⟩,
   ⟨39, 0, on (awake |> (fun c => { c with vif.mdio := some 0 })), by decide +kernel⟩,
   ⟨0, 0, on (awake |> (fun c => { c with vif.mdio := some 0 })), by decide +kernel⟩,
   ⟨false, 2, on awake, by decide +kernel⟩,
   ⟨39, 0, on (awake |> (·.setBit (0x40056008) 0 true)), by decide +kernel⟩,
   ⟨39, 0, on (awake |> (·.setBit (0x40056008) 0 false) |> (·.setBit (0x40056000) 0 false)), by decide +kernel⟩,
   ⟨39, 0, on (awake |> (·.setBit (0x40056008) 0 false) |> (·.setBit (0x40056000) 0 true)), by decide +kernel⟩,
   ⟨false, [], 0, on (awake |> (fun c => { c with vif.i3c := some 0 })), by decide +kernel⟩,
   ⟨true, [7], putFld (0) (7) 1 (1), on (awake |> (fun c => { c with vif.i3c := some (putFld (0) (7) 1 (1)) })), 0, by decide +kernel⟩,
   ⟨false, [], 0, on (awake |> (fun c => { c with vif.i3c := some 0 })), by decide +kernel⟩,
   ⟨0, on (awake |> (fun c => { c with vif.i3c := some 0 })), by decide +kernel⟩,
   ⟨39, putFld (0) (0) 1 (1), on (awake |> (·.setBit (0x4008001C) 3 false)), by decide +kernel⟩,
   ⟨39, putFld (0) (0) 1 (0), on awake, by decide +kernel⟩,
   ⟨39, putFld (0) (0) 1 (1), on (awake |> (·.setBit (0x4008001C) 3 true)), by decide +kernel⟩,
   ⟨39, on awake, by decide +kernel⟩⟩

theorem witness_TdmFramesAndStreamBlocks :
    (∃ (p : Nat) (s : State), p < 2 ∧ s.chip.vif.tdm.length = 2 ∧ s.chip.dom 3 = true ∧ s.chip.bit (tdmReg p 0) 0 = true ∧ s.chip.txSlot
      (tdmReg p 0x40) = none) ∧
    (∃ (p : Nat) (s : State) (a : Nat), p < 2 ∧ s.chip.vif.tdm.length = 2 ∧ s.chip.dom 3 = true ∧ s.chip.bit (tdmReg p 0) 0 = true ∧
      s.chip.txSlot (tdmReg p 0x40) = some a ∧ s.chip.ecc = [] ∧ (∀ g < 8, nth s.chip.power.grp g .off = .awake) ∧ s.chip.gate 48
      (s.chip.portCls 48) a (4 * (s.chip.tdmSlots p 0).length) false = .open ∧ (4 * (s.chip.tdmSlots p 0).length) ≠ 0 ∧ a < 0x800000) ∧
    (∃ (p : Nat) (s : State), p < 2 ∧ s.chip.vif.tdm.length = 2 ∧ s.chip.dom 3 = true ∧ s.chip.bit (tdmReg p 0) 0 = true ∧ s.chip.bit
      (tdmReg p 0) 1 = true) ∧
    (∃ (p : Nat) (s : State), p < 2 ∧ s.chip.vif.tdm.length = 2 ∧ s.chip.dom 3 = true ∧ s.chip.bit (tdmReg p 0) 0 = true ∧ s.chip.bit
      (tdmReg p 0) 1 = false) ∧
    (∃ (p : Nat) (s : State) (slots : List Nat), p < 2 ∧ s.chip.vif.tdm.length = 2 ∧ s.chip.dom 3 = true ∧ s.chip.bit (tdmReg p 0) 0 =
      true ∧ (nth s.chip.vif.tdm p default).dout ≠ none ∧ s.chip.ecc = [] ∧ s.chip.bit ((tdmReg p 0x50) + 4) 0 = true ∧ s.chip.ringNext
      (tdmReg p 0x50) ((s.chip.reg ((tdmReg p 0x50) + 8)).toNat) ≠ (s.chip.act ((tdmReg p 0x50) + 12)).toNat ∧ ((s.chip.tdmSlots p
      16).flatMap fun i => leBytes 4 (nth slots i 0 * if s.chip.bit (tdmReg p 0) 7 then 65536 else 1)).length ≤ s.chip.slotSize (tdmReg p
      0x50) ∧ ((s.chip.tdmSlots p 16).flatMap fun i => leBytes 4 (nth slots i 0 * if s.chip.bit (tdmReg p 0) 7 then 65536 else 1)) ≠ [] ∧
      (s.chip.slotAt (tdmReg p 0x50) ((s.chip.reg ((tdmReg p 0x50) + 8)).toNat)) + ((s.chip.tdmSlots p 16).flatMap fun i => leBytes 4 (nth
      slots i 0 * if s.chip.bit (tdmReg p 0) 7 then 65536 else 1)).length ≤ 0x800000 ∧ s.chip.gate 48 (s.chip.portCls 48) (s.chip.slotAt
      (tdmReg p 0x50) ((s.chip.reg ((tdmReg p 0x50) + 8)).toNat)) ((s.chip.tdmSlots p 16).flatMap fun i => leBytes 4 (nth slots i 0 * if
      s.chip.bit (tdmReg p 0) 7 then 65536 else 1)).length true = .open ∧ (∀ l ∈ linesOf (s.chip.slotAt (tdmReg p 0x50) ((s.chip.reg
      ((tdmReg p 0x50) + 8)).toNat)) ((s.chip.tdmSlots p 16).flatMap fun i => leBytes 4 (nth slots i 0 * if s.chip.bit (tdmReg p 0) 7 then
      65536 else 1)).length, nth s.chip.power.grp (grpOf l) .off = .awake)) ∧
    (∃ (port : Nat) (p : Nat) (s : State), p < 2 ∧ s.chip.canLoad port (tdmReg p 12)) ∧
    (∃ (k : SysConf) (id : Nat) (s : State), s.chip.fw.conf = some k ∧ s.chip.fwRuns = true ∧ s.chip.hlId = some id ∧ 0 < k.srcNf ∧
      k.srcAxes ≠ [] ∧ 0 < k.srcFrameNs ∧ (((s.chip.clocks.packNs / k.srcFrameNs + 1) / k.srcNf) = 0 ∨ s.chip.fw.lastBlock = some
      ((((s.chip.clocks.packNs / k.srcFrameNs + 1) / k.srcNf) - 1) * k.srcNf))) ∧
    (∃ (k : SysConf) (id : Nat) (s : State), s.chip.fw.conf = some k ∧ s.chip.fwRuns = true ∧ s.chip.hlId = some id ∧ 0 < k.srcNf ∧
      k.srcAxes ≠ [] ∧ 0 < k.srcFrameNs ∧ ((s.chip.clocks.packNs / k.srcFrameNs + 1) / k.srcNf) ≠ 0 ∧ s.chip.fw.lastBlock ≠ some
      ((((s.chip.clocks.packNs / k.srcFrameNs + 1) / k.srcNf) - 1) * k.srcNf)) ∧
    (∃ (n : Nat) (e : List Byte) (k : SysConf) (s : State), s.chip.fw.conf = some k ∧ s.chip.fwRuns = true ∧ k.sinkFrom ≠ [] ∧ k.sinkTdm <
      2 ∧ s.chip.bit ((tdmReg k.sinkTdm 0x40) + 4) 0 = false) ∧
    (∃ (n : Nat) (e : List Byte) (k : SysConf) (s : State), s.chip.fw.conf = some k ∧ s.chip.fwRuns = true ∧ k.sinkFrom ≠ [] ∧ k.sinkTdm <
      2 ∧ s.chip.bit ((tdmReg k.sinkTdm 0x40) + 4) 0 = true ∧ s.chip.fld ((tdmReg k.sinkTdm 0x40) + 4) 1 4 ≤ 10 ∧ ((s.chip.act ((tdmReg
      k.sinkTdm 0x40) + 8)).toNat) < (2 ^ s.chip.fld ((tdmReg k.sinkTdm 0x40) + 4) 1 4) ∧ ((s.chip.reg ((tdmReg k.sinkTdm 0x40) +
      12)).toNat) < (2 ^ s.chip.fld ((tdmReg k.sinkTdm 0x40) + 4) 1 4) ∧ s.chip.canStore 36 ((tdmReg k.sinkTdm 0x40) + 8) ∧ s.chip.ecc =
      [] ∧ (∀ g < 8, nth s.chip.power.grp g .off = .awake) ∧ s.chip.slotAt (tdmReg k.sinkTdm 0x40) ((s.chip.act ((tdmReg k.sinkTdm 0x40) +
      8)).toNat) + e.length ≤ 0x800000 ∧ e ≠ [] ∧ ((((s.chip.act ((tdmReg k.sinkTdm 0x40) + 8)).toNat) + 1 + (2 ^ s.chip.fld ((tdmReg
      k.sinkTdm 0x40) + 4) 1 4) - ((s.chip.reg ((tdmReg k.sinkTdm 0x40) + 12)).toNat)) % (2 ^ s.chip.fld ((tdmReg k.sinkTdm 0x40) + 4) 1
      4)) = k.sinkDepth) ∧
    (∃ (n : Nat) (e : List Byte) (k : SysConf) (s : State), s.chip.fw.conf = some k ∧ s.chip.fwRuns = true ∧ k.sinkFrom ≠ [] ∧ k.sinkTdm <
      2 ∧ s.chip.bit ((tdmReg k.sinkTdm 0x40) + 4) 0 = true ∧ s.chip.fld ((tdmReg k.sinkTdm 0x40) + 4) 1 4 ≤ 10 ∧ ((s.chip.act ((tdmReg
      k.sinkTdm 0x40) + 8)).toNat) < (2 ^ s.chip.fld ((tdmReg k.sinkTdm 0x40) + 4) 1 4) ∧ ((s.chip.reg ((tdmReg k.sinkTdm 0x40) +
      12)).toNat) < (2 ^ s.chip.fld ((tdmReg k.sinkTdm 0x40) + 4) 1 4) ∧ s.chip.canStore 36 ((tdmReg k.sinkTdm 0x40) + 8) ∧ s.chip.ecc =
      [] ∧ (∀ g < 8, nth s.chip.power.grp g .off = .awake) ∧ s.chip.slotAt (tdmReg k.sinkTdm 0x40) ((s.chip.act ((tdmReg k.sinkTdm 0x40) +
      8)).toNat) + e.length ≤ 0x800000 ∧ e ≠ [] ∧ ((((s.chip.act ((tdmReg k.sinkTdm 0x40) + 8)).toNat) + 1 + (2 ^ s.chip.fld ((tdmReg
      k.sinkTdm 0x40) + 4) 1 4) - ((s.chip.reg ((tdmReg k.sinkTdm 0x40) + 12)).toNat)) % (2 ^ s.chip.fld ((tdmReg k.sinkTdm 0x40) + 4) 1
      4)) = k.sinkDepth + 1) ∧
    (∃ (n : Nat) (e : List Byte) (k : SysConf) (s : State), s.chip.fw.conf = some k ∧ s.chip.fwRuns = true ∧ k.sinkFrom ≠ [] ∧ k.sinkTdm <
      2 ∧ s.chip.bit ((tdmReg k.sinkTdm 0x40) + 4) 0 = true ∧ s.chip.fld ((tdmReg k.sinkTdm 0x40) + 4) 1 4 ≤ 10 ∧ ((s.chip.act ((tdmReg
      k.sinkTdm 0x40) + 8)).toNat) < (2 ^ s.chip.fld ((tdmReg k.sinkTdm 0x40) + 4) 1 4) ∧ ((s.chip.reg ((tdmReg k.sinkTdm 0x40) +
      12)).toNat) < (2 ^ s.chip.fld ((tdmReg k.sinkTdm 0x40) + 4) 1 4) ∧ s.chip.canStore 36 ((tdmReg k.sinkTdm 0x40) + 8) ∧ s.chip.ecc =
      [] ∧ (∀ g < 8, nth s.chip.power.grp g .off = .awake) ∧ s.chip.slotAt (tdmReg k.sinkTdm 0x40) ((s.chip.act ((tdmReg k.sinkTdm 0x40) +
      8)).toNat) + e.length ≤ 0x800000 ∧ e ≠ [] ∧ ((((s.chip.act ((tdmReg k.sinkTdm 0x40) + 8)).toNat) + 1 + (2 ^ s.chip.fld ((tdmReg
      k.sinkTdm 0x40) + 4) 1 4) - ((s.chip.reg ((tdmReg k.sinkTdm 0x40) + 12)).toNat)) % (2 ^ s.chip.fld ((tdmReg k.sinkTdm 0x40) + 4) 1
      4)) + 1 = k.sinkDepth) :=
  ⟨⟨1, on (awake |> (·.setBit ((tdmReg 1 0)) 0 true)), by decide +kernel⟩,
   ⟨1, on (awake |> (·.setBit ((tdmReg 1 0)) 0 true) |> (fun c => { c with ecc := [] }) |> (·.setReg (tdmReg 1 4) (0x10001)) |> withRing
     (tdmReg 1 0x40) 0x10000 1 2 1 0), 0x10000, by decide +kernel⟩,
   ⟨1, on (awake |> (·.setBit ((tdmReg 1 0)) 0 true) |> (·.setBit ((tdmReg 1 0)) 1 true)), by decide +kernel⟩,
   ⟨1, on (awake |> (·.setBit ((tdmReg 1 0)) 0 true) |> (·.setBit ((tdmReg 1 0)) 1 false)), by decide +kernel⟩,
   ⟨1, on (awake |> (·.setBit ((tdmReg 1 0)) 0 true) |> (fun c => { c with ecc := [] }) |> (·.setBit (((tdmReg 1 0x50) + 4)) 0 true) |>
     (·.setReg (tdmReg 1 4) (0x10001)) |> withRing (tdmReg 1 0x50) 0x10000 1 2 0 0 |> (fun c =>
     { c with vif.tdm := [default, { (default : Tdm) with dout := some [] }] })), [7], by decide +kernel⟩,
   ⟨39, 1, on awake, by decide +kernel⟩,
   ⟨conf0, 0, on (awake |> (fun c => { c with fw.conf := some conf0 }) |> (·.setReg 0x40040004 (BitVec.ofNat 32 (2 ^ 31 + 0)))),
     by decide +kernel⟩,
   ⟨conf0, 0, on (awake |> (fun c => { c with fw.conf := some conf0 }) |> (·.setReg 0x40040004 (BitVec.ofNat 32 (2 ^ 31 + 0))) |> (fun c
     => { c with clocks.packNs := 4000000 })), by decide +kernel⟩,
   ⟨0, [], conf0, on (awake |> (fun c => { c with fw.conf := some conf0 }) |> (·.setBit (((tdmReg conf0.sinkTdm 0x40) + 4)) 0 false)),
     by decide +kernel⟩,
   ⟨0, [1, 2, 3, 4], conf0, on (awake |> (fun c => { c with fw.conf := some conf0 }) |> (·.setBit (((tdmReg conf0.sinkTdm 0x40) + 4)) 0
     true) |> (·.setFld (((tdmReg conf0.sinkTdm 0x40) + 4)) 1 4 10) |> (fun c => { c with ecc := [] }) |> withRing (tdmReg 0 0x40) 0x10000
     2 2 1 0), by decide +kernel⟩,
   ⟨0, [1, 2, 3, 4], conf0, on (awake |> (fun c => { c with fw.conf := some conf0 }) |> (·.setBit (((tdmReg conf0.sinkTdm 0x40) + 4)) 0
     true) |> (·.setFld (((tdmReg conf0.sinkTdm 0x40) + 4)) 1 4 10) |> (fun c => { c with ecc := [] }) |> withRing (tdmReg 0 0x40) 0x10000
     2 2 2 0), by decide +kernel⟩,
   ⟨0, [1, 2, 3, 4], conf0, on (awake |> (fun c => { c with fw.conf := some conf0 }) |> (·.setBit (((tdmReg conf0.sinkTdm 0x40) + 4)) 0
     true) |> (·.setFld (((tdmReg conf0.sinkTdm 0x40) + 4)) 1 4 10) |> (fun c => { c with ecc := [] }) |> withRing (tdmReg 0 0x40) 0x10000
     2 2 0 0), by decide +kernel⟩⟩

theorem witness_BelfryTakesItsProgramAndBecomesReady :
    (∃ (a : Nat) (len : Nat) (s : State), s.chip.awaitsHandover = true ∧ s.chip.handoverAt = some (a, len) ∧ s.chip.ecc = [] ∧ (∀ g < 8,
      nth s.chip.power.grp g .off = .awake) ∧ (456 ≤ len → len ≤ 0x40000 → s.chip.gate 40 0 a len false = .open) ∧ ((if len < 456 ∨
      0x40000 < len ∨ leAt (s.chip.peekN a len) 0 4 ≠ 0x504C4542 ∨ leAt (s.chip.peekN a len) 4 2 ≠ 1 then 2 else if ((List.range 3).any
      fun k => decide (s.otp.rootHash k = some (sha256 (slice (s.chip.peekN a len) (len - 128) 64)))) = false then 3 else if ecdsaOk
      (sha256 ((s.chip.peekN a len).take (len - 128))) (slice (s.chip.peekN a len) (len - 128) 64) (slice (s.chip.peekN a len) (len - 64)
      64) = false then 4 else if programBad (s.chip.peekN a len) len = true then 5 else if chkListBad (s.chip.peekN a len) = true then 6
      else 0) ≠ 0)) ∧
    (∃ (a : Nat) (len : Nat) (s : State), (s.chip.awaitsHandover = true ∧ s.chip.ecc = [] ∧ (∀ g < 8, nth s.chip.power.grp g .off =
      .awake) ∧ (456 ≤ len → len ≤ 0x40000 → s.chip.gate 40 0 a len false = .open)) ∧ s.chip.handoverAt = some (a, len) ∧ ((if len < 456 ∨
      0x40000 < len ∨ leAt (s.chip.peekN a len) 0 4 ≠ 0x504C4542 ∨ leAt (s.chip.peekN a len) 4 2 ≠ 1 then 2 else if ((List.range 3).any
      fun k => decide (s.otp.rootHash k = some (sha256 (slice (s.chip.peekN a len) (len - 128) 64)))) = false then 3 else if ecdsaOk
      (sha256 ((s.chip.peekN a len).take (len - 128))) (slice (s.chip.peekN a len) (len - 128) 64) (slice (s.chip.peekN a len) (len - 64)
      64) = false then 4 else if programBad (s.chip.peekN a len) len = true then 5 else if chkListBad (s.chip.peekN a len) = true then 6
      else 0) = 0)) ∧
    (∃ (s : State), (s.chip.awaitsHandover = false ∨ s.chip.handoverAt = none)) ∧
    (∃ (s : State), s.chip.awaitsHandover = true ∧ s.chip.handoverAt = none) ∧
    (∃ (s : State), s.chip.dom 1 = true ∧ s.chip.saf = 0 ∧ fld (s.chip.reg 0x40070004) 8 4 = 0 ∧ s.chip.handoverAt ≠ none ∧ bit
      (s.chip.reg 0x40010000) 2 = false ∧ bit (s.chip.reg 0x40010110) 8 = false) ∧
    (∃ (s : State), (¬ (s.chip.dom 1 = true ∧ s.chip.saf = 0 ∧ s.chip.phaseCPassed = true ∧ fld (s.chip.reg 0x40070004) 8 4 = 0 ∧
      s.chip.bel.prog ≠ [] ∧ bit (s.chip.reg 0x22000100) 0 = true ∧ bit (s.chip.reg 0x40010000) 2 = true ∧ bit (s.chip.reg 0x40010110) 8 =
      true ∧ s.chip.safe.held = false ∧ s.chip.power.mode ≠ .fenced ∧ s.chip.power.mode ≠ .dark ∧ s.chip.power.mode ≠ .watch))) ∧
    (∃ (s : State), (s.chip.dom 1 = true ∧ s.chip.saf = 0 ∧ s.chip.phaseCPassed = true ∧ fld (s.chip.reg 0x40070004) 8 4 = 0 ∧
      s.chip.bel.prog ≠ [] ∧ bit (s.chip.reg 0x22000100) 0 = true ∧ bit (s.chip.reg 0x40010000) 2 = true ∧ bit (s.chip.reg 0x40010110) 8 =
      true ∧ s.chip.safe.held = false ∧ s.chip.power.mode ≠ .fenced ∧ s.chip.power.mode ≠ .dark ∧ s.chip.power.mode ≠ .watch) ∧
      s.chip.marks = 0) ∧
    (∃ (s : State), (s.chip.dom 1 = true ∧ s.chip.saf = 0 ∧ s.chip.phaseCPassed = true ∧ fld (s.chip.reg 0x40070004) 8 4 = 0 ∧
      s.chip.bel.prog ≠ [] ∧ bit (s.chip.reg 0x22000100) 0 = true ∧ bit (s.chip.reg 0x40010000) 2 = true ∧ bit (s.chip.reg 0x40010110) 8 =
      true ∧ s.chip.safe.held = false ∧ s.chip.power.mode ≠ .fenced ∧ s.chip.power.mode ≠ .dark ∧ s.chip.power.mode ≠ .watch) ∧
      s.chip.marks ≠ 0) :=
  ⟨⟨0x10000, 455, on (awake |> (fun c => { c with ecc := [] }) |> (·.setFld (0x40070000) 0 3 0) |> handed 0x10000 455), by decide +kernel⟩,
   ⟨0x10000, 1144, handedState, by decide +kernel, handed_at, by rw [handed_read, if_neg (by decide +kernel), if_neg (by decide +kernel),
     if_neg (by rw [program_signed]; decide), program_accepted.1, program_accepted.2]; rfl⟩,
   ⟨on awake, by decide +kernel⟩,
   ⟨on (awake |> (·.setFld (0x40070000) 0 3 0)), by decide +kernel⟩,
   ⟨on (awake |> (·.setFld 0x40070000 0 3 0) |> (·.setFld (0x40070004) 8 4 0) |> (·.setBit (0x40010000) 2 false) |> (·.setBit (0x40010110)
     8 false) |> handed 0x10000 455), by decide +kernel⟩,
   ⟨on awake, by decide +kernel⟩,
   ⟨on (awake |> (·.setFld 0x40070000 0 3 0) |> (·.setFld (0x40070004) 8 4 0) |> (·.setBit (0x22000100) 0 true) |> (·.setBit (0x40010000)
     2 true) |> (·.setBit (0x40010110) 8 true) |> (fun c => { c with safe.held := false }) |> (fun c => { c with power.mode := .run }) |>
     (fun c => { c with power.mode := .run }) |> (fun c => { c with power.mode := .run }) |> (fun c => { c with bel.prog := progBody })),
     by decide +kernel⟩,
   ⟨on (awake |> (·.setFld 0x40070000 0 3 0) |> (·.setFld (0x40070004) 8 4 0) |> (·.setBit (0x22000100) 0 true) |> (·.setBit (0x40010000)
     2 true) |> (·.setBit (0x40010110) 8 true) |> (fun c => { c with safe.held := false }) |> (fun c => { c with power.mode := .run }) |>
     (fun c => { c with power.mode := .run }) |> (fun c => { c with power.mode := .run }) |> (fun c => { c with bel.prog := progBody }) |>
     (·.setBit (0x40070040) 13 true)), by decide +kernel⟩⟩

theorem witness_BelfryAnchorsAndJudges :
    (∃ (s : State), (s.chip.bel.ownChem = none ∨ ¬ (s.chip.dom 1 = true ∧ s.chip.atRest = true ∧ (∀ t, s.chip.bel.anchored = some t →
      60000000000 ≤ s.chip.clocks.packNs - t) ∧ (s.chip.bel.rested = true → ∀ k ∈ s.chip.bel.cells.take (leAt s.chip.bel.prog 0x1A 1),
      k.vb ≠ none)))) ∧
    (∃ (s : State) (blk : List Byte), s.chip.bel.ownChem = some blk ∧ (s.chip.dom 1 = true ∧ s.chip.atRest = true ∧ (∀ t,
      s.chip.bel.anchored = some t → 60000000000 ≤ s.chip.clocks.packNs - t) ∧ (s.chip.bel.rested = true → ∀ k ∈ s.chip.bel.cells.take
      (leAt s.chip.bel.prog 0x1A 1), k.vb ≠ none))) ∧
    (∃ (late : Bool) (custom : List Nat) (s : State), s.chip.dom 1 = true ∧ s.chip.bel.prog ≠ [] ∧ s.chip.saf ≠ 0 ∧ s.chip.safe.held =
      false ∧ s.chip.fw.due = none ∧ s.chip.mgr.checks = [] ∧ s.chip.ecc = [] ∧ (∀ g < 8, nth s.chip.power.grp g .off = .awake) ∧ 0 <
      (leAt s.chip.bel.prog 0x18 2) ∧ (leAt s.chip.bel.prog 0x18 2) ≤ 256 ∧ (fld (s.chip.reg 0x40070038) 0 8) < (leAt s.chip.bel.prog 0x18
      2) ∧ (leAt s.chip.bel.prog 0x14 4) % 64 = 0 ∧ (leAt s.chip.bel.prog 0x14 4) + 64 + 32 * (leAt s.chip.bel.prog 0x18 2) ≤ 0x800000 ∧
      (fld (s.chip.reg 0x40070038) 0 8) = (leAt (s.chip.peekN (leAt s.chip.bel.prog 0x14 4) 64) 0 4 % (leAt s.chip.bel.prog 0x18 2))) ∧
    (∃ (late : Bool) (custom : List Nat) (s : State), s.chip.dom 1 = true ∧ s.chip.bel.prog ≠ [] ∧ s.chip.saf ≠ 0 ∧ s.chip.safe.held =
      false ∧ s.chip.fw.due = none ∧ s.chip.mgr.checks = [] ∧ s.chip.ecc = [] ∧ (∀ g < 8, nth s.chip.power.grp g .off = .awake) ∧ 0 <
      (leAt s.chip.bel.prog 0x18 2) ∧ (leAt s.chip.bel.prog 0x18 2) ≤ 256 ∧ (fld (s.chip.reg 0x40070038) 0 8) < (leAt s.chip.bel.prog 0x18
      2) ∧ (leAt s.chip.bel.prog 0x14 4) % 64 = 0 ∧ (leAt s.chip.bel.prog 0x14 4) + 64 + 32 * (leAt s.chip.bel.prog 0x18 2) ≤ 0x800000 ∧
      (leAt (s.chip.peekN (leAt s.chip.bel.prog 0x14 4) 64) 0 4 % (leAt s.chip.bel.prog 0x18 2)) = ((fld (s.chip.reg 0x40070038) 0 8) + 1)
      % (leAt s.chip.bel.prog 0x18 2) ∧ (fld (s.chip.reg 0x40070038) 0 8) ≠ (leAt (s.chip.peekN (leAt s.chip.bel.prog 0x14 4) 64) 0 4 %
      (leAt s.chip.bel.prog 0x18 2)) ∧ leAt (s.chip.peekN ((leAt s.chip.bel.prog 0x14 4) + 64 + 32 * (fld (s.chip.reg 0x40070038) 0 8))
      32) 0 1 = 2 ∧ entryOk (s.chip.peekN ((leAt s.chip.bel.prog 0x14 4) + 64 + 32 * (fld (s.chip.reg 0x40070038) 0 8)) 32) = true ∧ leAt
      (s.chip.peekN ((leAt s.chip.bel.prog 0x14 4) + 64 + 32 * (fld (s.chip.reg 0x40070038) 0 8)) 32) 1 1 = 1 ∧ (leAt (s.chip.peekN ((leAt
      s.chip.bel.prog 0x14 4) + 64 + 32 * (fld (s.chip.reg 0x40070038) 0 8)) 32) 4 4) + 32 ≤ 0x800000) ∧
    (∃ (late : Bool) (custom : List Nat) (s : State), s.chip.dom 1 = true ∧ s.chip.bel.prog ≠ [] ∧ s.chip.saf ≠ 0 ∧ s.chip.safe.held =
      false ∧ s.chip.fw.due = none ∧ s.chip.mgr.checks = [] ∧ s.chip.ecc = [] ∧ (∀ g < 8, nth s.chip.power.grp g .off = .awake) ∧ 0 <
      (leAt s.chip.bel.prog 0x18 2) ∧ (leAt s.chip.bel.prog 0x18 2) ≤ 256 ∧ (fld (s.chip.reg 0x40070038) 0 8) < (leAt s.chip.bel.prog 0x18
      2) ∧ (leAt s.chip.bel.prog 0x14 4) % 64 = 0 ∧ (leAt s.chip.bel.prog 0x14 4) + 64 + 32 * (leAt s.chip.bel.prog 0x18 2) ≤ 0x800000 ∧
      (leAt (s.chip.peekN (leAt s.chip.bel.prog 0x14 4) 64) 0 4 % (leAt s.chip.bel.prog 0x18 2)) = ((fld (s.chip.reg 0x40070038) 0 8) + 1)
      % (leAt s.chip.bel.prog 0x18 2) ∧ (fld (s.chip.reg 0x40070038) 0 8) ≠ (leAt (s.chip.peekN (leAt s.chip.bel.prog 0x14 4) 64) 0 4 %
      (leAt s.chip.bel.prog 0x18 2)) ∧ leAt (s.chip.peekN ((leAt s.chip.bel.prog 0x14 4) + 64 + 32 * (fld (s.chip.reg 0x40070038) 0 8))
      32) 0 1 = 2 ∧ entryOk (s.chip.peekN ((leAt s.chip.bel.prog 0x14 4) + 64 + 32 * (fld (s.chip.reg 0x40070038) 0 8)) 32) = false) ∧
    (∃ (late : Bool) (custom : List Nat) (s : State), s.chip.dom 1 = true ∧ s.chip.bel.prog ≠ [] ∧ s.chip.saf ≠ 0 ∧ s.chip.safe.held =
      false ∧ s.chip.fw.due = none ∧ s.chip.mgr.checks = [] ∧ s.chip.ecc = [] ∧ (∀ g < 8, nth s.chip.power.grp g .off = .awake) ∧ 0 <
      (leAt s.chip.bel.prog 0x18 2) ∧ (leAt s.chip.bel.prog 0x18 2) ≤ 256 ∧ (fld (s.chip.reg 0x40070038) 0 8) < (leAt s.chip.bel.prog 0x18
      2) ∧ (leAt s.chip.bel.prog 0x14 4) % 64 = 0 ∧ (leAt s.chip.bel.prog 0x14 4) + 64 + 32 * (leAt s.chip.bel.prog 0x18 2) ≤ 0x800000 ∧
      (leAt (s.chip.peekN (leAt s.chip.bel.prog 0x14 4) 64) 0 4 % (leAt s.chip.bel.prog 0x18 2)) = ((fld (s.chip.reg 0x40070038) 0 8) + 1)
      % (leAt s.chip.bel.prog 0x18 2) ∧ (fld (s.chip.reg 0x40070038) 0 8) ≠ (leAt (s.chip.peekN (leAt s.chip.bel.prog 0x14 4) 64) 0 4 %
      (leAt s.chip.bel.prog 0x18 2)) ∧ leAt (s.chip.peekN ((leAt s.chip.bel.prog 0x14 4) + 64 + 32 * (fld (s.chip.reg 0x40070038) 0 8))
      32) 0 1 = 1 ∧ entryOk (s.chip.peekN ((leAt s.chip.bel.prog 0x14 4) + 64 + 32 * (fld (s.chip.reg 0x40070038) 0 8)) 32) = false) ∧
    (∃ (late : Bool) (custom : List Nat) (s : State), s.chip.dom 1 = true ∧ s.chip.bel.prog ≠ [] ∧ s.chip.saf ≠ 0 ∧ s.chip.safe.held =
      false ∧ s.chip.fw.due = none ∧ s.chip.mgr.checks = [] ∧ s.chip.ecc = [] ∧ (∀ g < 8, nth s.chip.power.grp g .off = .awake) ∧ 0 <
      (leAt s.chip.bel.prog 0x18 2) ∧ (leAt s.chip.bel.prog 0x18 2) ≤ 256 ∧ (fld (s.chip.reg 0x40070038) 0 8) < (leAt s.chip.bel.prog 0x18
      2) ∧ (leAt s.chip.bel.prog 0x14 4) % 64 = 0 ∧ (leAt s.chip.bel.prog 0x14 4) + 64 + 32 * (leAt s.chip.bel.prog 0x18 2) ≤ 0x800000 ∧
      (leAt (s.chip.peekN (leAt s.chip.bel.prog 0x14 4) 64) 0 4 % (leAt s.chip.bel.prog 0x18 2)) = ((fld (s.chip.reg 0x40070038) 0 8) + 1)
      % (leAt s.chip.bel.prog 0x18 2) ∧ (fld (s.chip.reg 0x40070038) 0 8) ≠ (leAt (s.chip.peekN (leAt s.chip.bel.prog 0x14 4) 64) 0 4 %
      (leAt s.chip.bel.prog 0x18 2)) ∧ leAt (s.chip.peekN ((leAt s.chip.bel.prog 0x14 4) + 64 + 32 * (fld (s.chip.reg 0x40070038) 0 8))
      32) 0 1 = 1 ∧ entryOk (s.chip.peekN ((leAt s.chip.bel.prog 0x14 4) + 64 + 32 * (fld (s.chip.reg 0x40070038) 0 8)) 32) = true ∧ leAt
      (s.chip.peekN ((leAt s.chip.bel.prog 0x14 4) + 64 + 32 * (fld (s.chip.reg 0x40070038) 0 8)) 32) 1 1 = 1 ∧ leAt (s.chip.peekN ((leAt
      s.chip.bel.prog 0x14 4) + 64 + 32 * (fld (s.chip.reg 0x40070038) 0 8)) 32) 2 2 = 0 ∧ leAt (s.chip.peekN ((leAt s.chip.bel.prog 0x14
      4) + 64 + 32 * (fld (s.chip.reg 0x40070038) 0 8)) 32) 0x0C 4 = 0 ∧ (leAt (s.chip.peekN ((leAt s.chip.bel.prog 0x14 4) + 64 + 32 *
      (fld (s.chip.reg 0x40070038) 0 8)) 32) 4 4) + 32 ≤ 0x800000 ∧ (s.chip.saf = 2 ∨ s.chip.saf = 3)) :=
  ⟨⟨on awake, by decide +kernel⟩,
   ⟨on (awake |> (fun c => { c with bel.prog := progBody }) |> (fun c => { c with bel.chem := some 7 }) |> (fun c =>
     { c with bel.quiet := some 0 }) |> (fun c => { c with clocks.packNs := 60000000000 })), slice progBody 488 528, by decide +kernel⟩,
   ⟨false, [], on (awake |> (·.setFld 0x40070000 0 3 1) |> (fun c => { c with safe.held := false }) |> (fun c =>
     { c with fw.due := none }) |> (fun c => { c with mgr.checks := [] }) |> (fun c => { c with ecc := [] }) |> (fun c =>
     { c with bel.prog := progBody })), by decide +kernel⟩,
   ⟨false, [], on (awake |> (·.setFld 0x40070000 0 3 1) |> (fun c => { c with safe.held := false }) |> (fun c =>
     { c with fw.due := none }) |> (fun c => { c with mgr.checks := [] }) |> (fun c => { c with ecc := [] }) |> (fun c =>
     { c with bel.prog := progBody }) |> (·.setReg (0x40070038) (0)) |> (·.pokeLe (0x20000) 4 (1)) |> (·.pokeN (0x20040) ([2, 1] ++
     leBytes 2 0 ++ leBytes 4 0x30000 ++ leBytes 4 32))), by decide +kernel⟩,
   ⟨false, [], on (awake |> (·.setFld 0x40070000 0 3 1) |> (fun c => { c with safe.held := false }) |> (fun c =>
     { c with fw.due := none }) |> (fun c => { c with mgr.checks := [] }) |> (fun c => { c with ecc := [] }) |> (fun c =>
     { c with bel.prog := progBody }) |> (·.setReg (0x40070038) (0)) |> (·.pokeLe (0x20000) 4 (1)) |> (·.pokeN (0x20040) ([2, 1] ++
     leBytes 2 4 ++ leBytes 4 0x30000 ++ leBytes 4 32))), by decide +kernel⟩,
   ⟨false, [], on (awake |> (·.setFld 0x40070000 0 3 1) |> (fun c => { c with safe.held := false }) |> (fun c =>
     { c with fw.due := none }) |> (fun c => { c with mgr.checks := [] }) |> (fun c => { c with ecc := [] }) |> (fun c =>
     { c with bel.prog := progBody }) |> (·.setReg (0x40070038) (0)) |> (·.pokeLe (0x20000) 4 (1)) |> (·.pokeN (0x20040) ([1, 1] ++
     leBytes 2 4 ++ leBytes 4 0x30000 ++ leBytes 4 32))), by decide +kernel⟩,
   ⟨false, [], on (awake |> (·.setFld 0x40070000 0 3 1) |> (fun c => { c with safe.held := false }) |> (fun c =>
     { c with fw.due := none }) |> (fun c => { c with mgr.checks := [] }) |> (fun c => { c with ecc := [] }) |> (·.setFld 0x40070000 0 3
     2) |> (fun c => { c with bel.prog := progBody }) |> (·.setReg (0x40070038) (0)) |> (·.pokeLe (0x20000) 4 (1)) |> (·.pokeN (0x20040)
     ([1, 1] ++ leBytes 2 0 ++ leBytes 4 0x30000 ++ leBytes 4 32))), by decide +kernel⟩⟩

theorem witness_MarkingsMessagesAndSelfTests :
    (∃ (code : Nat) (s : State), code ∈ [8, 9, 11, 12, 13] ∧ bit (s.chip.reg 0x40070040) code = true ∧ s.chip.dom 1 = true ∧ (code = 8 →
      s.chip.sense.main.frozen = false) ∧ (s.chip.saf = 2 ∧ (∀ j, 8 ≤ j → j < 14 → j ≠ code → bit (s.chip.reg 0x40070040) j = false) ∧ bit
      (s.chip.reg 0x40070040) 16 = false)) ∧
    (∃ (code : Nat) (s : State), code ∈ [8, 9, 11, 12, 13] ∧ bit (s.chip.reg 0x40070040) code = true ∧ s.chip.dom 1 = true ∧ (code = 8 →
      s.chip.sense.main.frozen = false) ∧ (¬ (s.chip.saf = 2 ∧ (∀ j, 8 ≤ j → j < 14 → j ≠ code → bit (s.chip.reg 0x40070040) j = false) ∧
      bit (s.chip.reg 0x40070040) 16 = false))) ∧
    (∃ (s : State) (n : Nat), n < 2 ∧ (s.chip.saf = 2 ∨ s.chip.saf = 3) ∧ s.chip.dom 1 = true ∧ s.chip.can.length = 2 ∧ (nth s.chip.can n
      default).safeGo = true) ∧
    (∃ (s : State) (n : Nat), n < 2 ∧ (s.chip.saf = 2 ∨ s.chip.saf = 3) ∧ s.chip.dom 1 = true ∧ s.chip.can.length = 2 ∧ (nth s.chip.can n
      default).safeGo = false) ∧
    (∃ (pass : Bool) (s : State), (¬ (s.chip.dom 1 = true ∧ s.chip.safe.held = false ∧ (((s.chip.saf = 1 ∨ s.chip.saf = 2) ∧
      (s.chip.power.mode = .run ∨ s.chip.power.mode = .scan) ∧ (s.chip.safe.woke = true → s.chip.safe.verdictSeen = true)) ∨ s.chip.saf =
      3)))) ∧
    (∃ (pass : Bool) (s : State), (s.chip.dom 1 = true ∧ s.chip.safe.held = false ∧ (((s.chip.saf = 1 ∨ s.chip.saf = 2) ∧
      (s.chip.power.mode = .run ∨ s.chip.power.mode = .scan) ∧ (s.chip.safe.woke = true → s.chip.safe.verdictSeen = true)) ∨ s.chip.saf =
      3)) ∧ (32 ≤ (s.chip.safe.retry.getD (s.chip.nextSlice (fld (s.chip.reg 0x40070048) 8 7))) ∧ (s.chip.safe.retry.getD
      (s.chip.nextSlice (fld (s.chip.reg 0x40070048) 8 7))) < 64 ∧ (s.chip.calAt 1 = true ∨ s.chip.calAt 2 = true) ∧ bit (s.chip.reg
      0x40010100) 3 = false) ∧ (s.chip.safe.retry.getD (s.chip.nextSlice (fld (s.chip.reg 0x40070048) 8 7))) ∉ s.chip.safe.skipLast) ∧
    (∃ (pass : Bool) (s : State), (s.chip.dom 1 = true ∧ s.chip.safe.held = false ∧ (((s.chip.saf = 1 ∨ s.chip.saf = 2) ∧
      (s.chip.power.mode = .run ∨ s.chip.power.mode = .scan) ∧ (s.chip.safe.woke = true → s.chip.safe.verdictSeen = true)) ∨ s.chip.saf =
      3)) ∧ (¬ (32 ≤ (s.chip.safe.retry.getD (s.chip.nextSlice (fld (s.chip.reg 0x40070048) 8 7))) ∧ (s.chip.safe.retry.getD
      (s.chip.nextSlice (fld (s.chip.reg 0x40070048) 8 7))) < 64 ∧ (s.chip.calAt 1 = true ∨ s.chip.calAt 2 = true) ∧ bit (s.chip.reg
      0x40010100) 3 = false)) ∧ pass = true) ∧
    (∃ (pass : Bool) (s : State), (s.chip.dom 1 = true ∧ s.chip.safe.held = false ∧ (((s.chip.saf = 1 ∨ s.chip.saf = 2) ∧
      (s.chip.power.mode = .run ∨ s.chip.power.mode = .scan) ∧ (s.chip.safe.woke = true → s.chip.safe.verdictSeen = true)) ∨ s.chip.saf =
      3)) ∧ (¬ (32 ≤ (s.chip.safe.retry.getD (s.chip.nextSlice (fld (s.chip.reg 0x40070048) 8 7))) ∧ (s.chip.safe.retry.getD
      (s.chip.nextSlice (fld (s.chip.reg 0x40070048) 8 7))) < 64 ∧ (s.chip.calAt 1 = true ∨ s.chip.calAt 2 = true) ∧ bit (s.chip.reg
      0x40010100) 3 = false)) ∧ pass = false ∧ s.chip.safe.retry = none) ∧
    (∃ (pass : Bool) (s : State), (s.chip.dom 1 = true ∧ s.chip.safe.held = false ∧ (((s.chip.saf = 1 ∨ s.chip.saf = 2) ∧
      (s.chip.power.mode = .run ∨ s.chip.power.mode = .scan) ∧ (s.chip.safe.woke = true → s.chip.safe.verdictSeen = true)) ∨ s.chip.saf =
      3)) ∧ (¬ (32 ≤ (s.chip.safe.retry.getD (s.chip.nextSlice (fld (s.chip.reg 0x40070048) 8 7))) ∧ (s.chip.safe.retry.getD
      (s.chip.nextSlice (fld (s.chip.reg 0x40070048) 8 7))) < 64 ∧ (s.chip.calAt 1 = true ∨ s.chip.calAt 2 = true) ∧ bit (s.chip.reg
      0x40010100) 3 = false)) ∧ pass = false ∧ s.chip.safe.retry = some (s.chip.safe.retry.getD (s.chip.nextSlice (fld (s.chip.reg
      0x40070048) 8 7))) ∧ s.chip.power.mode ≠ .dark ∧ s.chip.power.mode ≠ .watch ∧ ((s.chip.safe.retry.getD (s.chip.nextSlice (fld
      (s.chip.reg 0x40070048) 8 7))) < 16 ∨ (104 ≤ (s.chip.safe.retry.getD (s.chip.nextSlice (fld (s.chip.reg 0x40070048) 8 7))) ∧
      (s.chip.safe.retry.getD (s.chip.nextSlice (fld (s.chip.reg 0x40070048) 8 7))) < 120))) ∧
    (∃ (pass : Bool) (s : State), (s.chip.dom 1 = true ∧ s.chip.safe.held = false ∧ (((s.chip.saf = 1 ∨ s.chip.saf = 2) ∧
      (s.chip.power.mode = .run ∨ s.chip.power.mode = .scan) ∧ (s.chip.safe.woke = true → s.chip.safe.verdictSeen = true)) ∨ s.chip.saf =
      3)) ∧ (¬ (32 ≤ (s.chip.safe.retry.getD (s.chip.nextSlice (fld (s.chip.reg 0x40070048) 8 7))) ∧ (s.chip.safe.retry.getD
      (s.chip.nextSlice (fld (s.chip.reg 0x40070048) 8 7))) < 64 ∧ (s.chip.calAt 1 = true ∨ s.chip.calAt 2 = true) ∧ bit (s.chip.reg
      0x40010100) 3 = false)) ∧ pass = false ∧ s.chip.safe.retry = some (s.chip.safe.retry.getD (s.chip.nextSlice (fld (s.chip.reg
      0x40070048) 8 7))) ∧ s.chip.power.mode ≠ .dark ∧ s.chip.power.mode ≠ .watch ∧ ((16 ≤ (s.chip.safe.retry.getD (s.chip.nextSlice (fld
      (s.chip.reg 0x40070048) 8 7))) ∧ (s.chip.safe.retry.getD (s.chip.nextSlice (fld (s.chip.reg 0x40070048) 8 7))) < 48) ∨ (64 ≤
      (s.chip.safe.retry.getD (s.chip.nextSlice (fld (s.chip.reg 0x40070048) 8 7))) ∧ (s.chip.safe.retry.getD (s.chip.nextSlice (fld
      (s.chip.reg 0x40070048) 8 7))) < 72) ∨ (80 ≤ (s.chip.safe.retry.getD (s.chip.nextSlice (fld (s.chip.reg 0x40070048) 8 7))) ∧
      (s.chip.safe.retry.getD (s.chip.nextSlice (fld (s.chip.reg 0x40070048) 8 7))) < 104) ∨ (120 ≤ (s.chip.safe.retry.getD
      (s.chip.nextSlice (fld (s.chip.reg 0x40070048) 8 7))) ∧ (s.chip.safe.retry.getD (s.chip.nextSlice (fld (s.chip.reg 0x40070048) 8
      7))) < 128)) ∧ s.chip.power.mode ≠ .fenced ∧ s.chip.saf ≠ 3) :=
  ⟨⟨13, on (awake |> (·.setBit (0x40070040) 13 true) |> (fun c => { c with sense.main.frozen := false }) |> (·.setFld 0x40070000 0 3 2) |>
     (·.setBit (0x40070040) 16 false) |> (·.setBit (0x40070040) 13 true)), by and_intros <;> decide +kernel⟩,
   ⟨13, on (awake |> (·.setBit (0x40070040) 13 true) |> (fun c => { c with sense.main.frozen := false }) |> (·.setBit (0x40070040) 13
     true)), by and_intros <;> decide +kernel⟩,
   ⟨on (awake |> (·.setFld 0x40070000 0 3 2) |> (fun c => { c with can := upd c.can 1 fun k => { k with safeGo := true } })), 1,
     by and_intros <;> decide +kernel⟩,
   ⟨on (awake |> (·.setFld 0x40070000 0 3 2)), 1, by and_intros <;> decide +kernel⟩,
   ⟨false, on (awake |> (fun c => { c with safe.held := true })), by decide +kernel⟩,
   ⟨false, on (awake |> (fun c => { c with safe.held := false }) |> (fun c => { c with power.mode := .run }) |> (·.setFld (0x40070000) 0 3
     1) |> (·.setFld (0x40070048) 8 7 63) |> (fun c => { c with sense.cal := ⟨[1], false, true⟩ })), by and_intros <;> decide +kernel⟩,
   ⟨true, on (awake |> (fun c => { c with safe.held := false }) |> (·.setFld 0x40070000 0 3 1) |> (fun c => { c with power.mode := .run })
     |> (fun c => { c with safe.verdictSeen := true })), by and_intros <;> decide +kernel⟩,
   ⟨false, on (awake |> (fun c => { c with safe.held := false }) |> (·.setFld 0x40070000 0 3 1) |> (fun c =>
     { c with power.mode := .run }) |> (fun c => { c with safe.verdictSeen := true }) |> (fun c => { c with safe.retry := none })),
     by and_intros <;> decide +kernel⟩,
   ⟨false, on (awake |> (fun c => { c with safe.held := false }) |> (fun c => { c with power.mode := .run }) |> (·.setFld (0x40070000) 0 3
     1) |> (·.setFld (0x40070048) 8 7 119) |> (fun c => { c with safe.retry := some 119 })), by and_intros <;> decide +kernel⟩,
   ⟨false, on (awake |> (fun c => { c with safe.held := false }) |> (fun c => { c with power.mode := .run }) |> (·.setFld (0x40070000) 0 3
     1) |> (·.setFld (0x40070048) 8 7 71) |> (fun c => { c with safe.retry := some 71 })), by and_intros <;> decide +kernel⟩⟩

theorem witness_LockedNeedsSecretAndRootAndStays :
    (∃ (port : Nat) (i : Instr) (s : State), (s.chip.canStore port 0x400600B8 ∧ (¬ (s.otp.secretProg = true ∧ s.otp.prog ≠ 0))) ∧ (i =
      .otpLock port ∨ (i = .otpProgram port ∧ s.chip.act 0x400600B0 = 0xC0 ∧ s.chip.bit 0x400600B4 0 = true))) ∧
    (∃ (s : State) (t : State), (s.otp.locked = true) ∧ step s = .next t) :=
  ⟨⟨39, .otpLock 39, on awake, by decide +kernel, Or.inl rfl⟩,
   ⟨(fun s => { s with pending := [.powerOnReset] }) (fused [] 1 (on awake)), after ((fun s => { s with pending := [.powerOnReset] })
     (fused [] 1 (on awake))), by decide +kernel, rfl⟩⟩

theorem witness_OtpIsProgrammedAndSlotsRevoked :
    (∃ (port : Nat) (i : Instr) (off : Nat) (data : Nat) (s : State), (s.chip.canStore port 0x400600B8 ∧ (s.chip.sec.otpRun = none ∧
      (s.otp.locked = false ∧ ((36 ≤ port ∧ port < 40) ∨ port = 47) ∧ off ≤ 0xC0 ∧ off % 4 = 0 ∧ (0x10 ≤ off → off < 0x30 →
      s.otp.secretProg = false) ∧ (0x30 ≤ off → off < 0x50 → s.otp.fleetProg = false) ∧ (off = 0xB0 → data / 16 % 16 = 0) ∧ (off = 0xC0 →
      data % 2 = 1 → s.otp.secretProg = true ∧ s.otp.prog ≠ 0)))) ∧ ((i = .otpLock port ∧ off = 0xC0 ∧ data = 1) ∨ (i = .otpProgram port ∧
      off = (s.chip.act 0x400600B0).toNat ∧ data = (s.chip.act 0x400600B4).toNat))) ∧
    (∃ (port : Nat) (i : Instr) (off : Nat) (data : Nat) (s : State), (s.chip.canStore port 0x400600B8 ∧ (¬ (s.chip.sec.otpRun = none ∧
      (s.otp.locked = false ∧ ((36 ≤ port ∧ port < 40) ∨ port = 47) ∧ off ≤ 0xC0 ∧ off % 4 = 0 ∧ (0x10 ≤ off → off < 0x30 →
      s.otp.secretProg = false) ∧ (0x30 ≤ off → off < 0x50 → s.otp.fleetProg = false) ∧ (off = 0xB0 → data / 16 % 16 = 0) ∧ (off = 0xC0 →
      data % 2 = 1 → s.otp.secretProg = true ∧ s.otp.prog ≠ 0))))) ∧ ((i = .otpLock port ∧ off = 0xC0 ∧ data = 1) ∨ (i = .otpProgram port
      ∧ off = (s.chip.act 0x400600B0).toNat ∧ data = (s.chip.act 0x400600B4).toNat))) ∧
    (∃ (s : State), s.chip.sec.otpRun = none) ∧
    (∃ (off : Nat) (data : Nat) (s : State) (j : Nat), j < 4 ∧ s.chip.sec.otpRun = some (off, data) ∧ off < 0x10 ∧ off + j <
      s.otpA.serial.length) ∧
    (∃ (off : Nat) (data : Nat) (s : State), s.chip.sec.otpRun = some (off, data) ∧ off = 0x2C) ∧
    (∃ (off : Nat) (data : Nat) (s : State), s.chip.sec.otpRun = some (off, data) ∧ off = 0x4C) ∧
    (∃ (off : Nat) (data : Nat) (s : State), s.chip.sec.otpRun = some (off, data) ∧ off = 0xB8) ∧
    (∃ (off : Nat) (data : Nat) (s : State), s.chip.sec.otpRun = some (off, data) ∧ off = 0xC0) ∧
    (∃ (port : Nat) (v : Word) (s : State), s.chip.canStore port 0x400600A8 ∧ ((fld v 0 2) ≠ 3 ∧ 36 ≤ port ∧ port < 40 ∧ ¬
      (s.chip.boot.rom = .done ∧ (fld v 0 2) = s.chip.boot.keySlot) ∧ s.otp.prog.testBit (fld v 0 2) = true ∧ ∃ j < 3, j ≠ (fld v 0 2) ∧
      s.otp.usable j = true)) ∧
    (∃ (port : Nat) (v : Word) (s : State), s.chip.canStore port 0x400600A8 ∧ (¬ ((fld v 0 2) ≠ 3 ∧ 36 ≤ port ∧ port < 40 ∧ ¬
      (s.chip.boot.rom = .done ∧ (fld v 0 2) = s.chip.boot.keySlot) ∧ s.otp.prog.testBit (fld v 0 2) = true ∧ ∃ j < 3, j ≠ (fld v 0 2) ∧
      s.otp.usable j = true))) :=
  ⟨⟨36, .otpLock 36, 0xC0, 1, fused [] 2 (on (awake |> (fun c => { c with sec.otpRun := none }))), by decide +kernel, Or.inl ⟨rfl, rfl,
     rfl⟩⟩,
   ⟨39, .otpLock 39, 0xC0, 1, on awake, by decide +kernel, Or.inl ⟨rfl, rfl, rfl⟩⟩,
   ⟨on (awake |> (fun c => { c with sec.otpRun := none })), by decide +kernel⟩,
   ⟨12, 0, on (awake |> (fun c => { c with sec.otpRun := some (12, 0) })), 3, by decide +kernel⟩,
   ⟨0x2C, 0, on (awake |> (fun c => { c with sec.otpRun := some (0x2C, 0) })), by decide +kernel⟩,
   ⟨0x4C, 0, on (awake |> (fun c => { c with sec.otpRun := some (0x4C, 0) })), by decide +kernel⟩,
   ⟨0xB8, 0, on (awake |> (fun c => { c with sec.otpRun := some (0xB8, 0) })), by decide +kernel⟩,
   ⟨0xC0, 0, on (awake |> (fun c => { c with sec.otpRun := some (0xC0, 0) })), by decide +kernel⟩,
   ⟨36, 1, fused [] 1 (on awake), by decide +kernel⟩,
   ⟨39, 0, on awake, by decide +kernel⟩⟩

theorem witness_KeysAndTokensAreJudged :
    (∃ (port : Nat) (v : Word) (s : State) (j : Nat), s.chip.canStore port 0x40060140 ∧ j ≠ (fld v 0 4)) ∧
    (∃ (port : Nat) (v : Word) (s : State), s.chip.canStore port 0x40060140 ∧ fld v 4 28 = 0) ∧
    (∃ (port : Nat) (p : Nat) (s : State), p < 4 ∧ s.chip.sec.nonceOk.length = 4 ∧ s.chip.canStore port (lkReg p 0x28)) ∧
    (∃ (port : Nat) (p : Nat) (s : State), p < 4 ∧ s.chip.sec.linkKeys.length = 4 ∧ s.chip.canStore port (lkReg p 0x28) ∧ (if
      s.chip.hlState p ≠ 2 then 3 else if nth s.chip.sec.nonceOk p false = false then 4 else if (s.chip.block (lkReg p 0x20) 2) =
      ((s.chip.block 0x40060010 4).take 8) then 5 else if s.chip.sec.linkRoot = none then 6 else 2) ≠ 2) ∧
    (∃ (port : Nat) (p : Nat) (s : State) (root : List Byte), p < 4 ∧ s.chip.sec.linkKeys.length = 4 ∧ s.chip.canStore port (lkReg p 0x28)
      ∧ (if s.chip.hlState p ≠ 2 then 3 else if nth s.chip.sec.nonceOk p false = false then 4 else if (s.chip.block (lkReg p 0x20) 2) =
      ((s.chip.block 0x40060010 4).take 8) then 5 else if s.chip.sec.linkRoot = none then 6 else 2) = 2 ∧ s.chip.sec.linkRoot = some root) ∧
    (∃ (s : State), s.chip.secUp = true) ∧
    (∃ (w : List Byte) (s : State), (s.chip.secUp = false ∨ bit (s.chip.reg 0x40060004) 6 = true)) ∧
    (∃ (w : List Byte) (s : State), s.chip.secUp = true ∧ bit (s.chip.reg 0x40060004) 6 = false ∧ (¬ ((w.length = 168 ∧ leAt w 0 4 =
      0x4B544244 ∧ leAt w 4 2 = 1 ∧ leAt w 6 2 < 8 ∧ slice w 8 16 = s.chip.block 0x40060010 4 ∧ slice w 24 16 = s.chip.sec.chal ∧ ecdsaOk
      (sha256 (w.take 104)) (slice w 40 64) (slice w 104 64) = true) ∧ ∃ k < 3, s.otp.rootHash k = some (sha256 (slice w 40 64)))) ∧
      s.chip.sec.rejects < 7) ∧
    (∃ (w : List Byte) (s : State), s.chip.secUp = true ∧ bit (s.chip.reg 0x40060004) 6 = false ∧ (¬ ((w.length = 168 ∧ leAt w 0 4 =
      0x4B544244 ∧ leAt w 4 2 = 1 ∧ leAt w 6 2 < 8 ∧ slice w 8 16 = s.chip.block 0x40060010 4 ∧ slice w 24 16 = s.chip.sec.chal ∧ ecdsaOk
      (sha256 (w.take 104)) (slice w 40 64) (slice w 104 64) = true) ∧ ∃ k < 3, s.otp.rootHash k = some (sha256 (slice w 40 64)))) ∧ 7 ≤
      s.chip.sec.rejects) ∧
    (∃ (w : List Byte) (s : State) (k : Nat), k < 3 ∧ s.chip.secUp = true ∧ bit (s.chip.reg 0x40060004) 6 = false ∧ (w.length = 168 ∧ leAt
      w 0 4 = 0x4B544244 ∧ leAt w 4 2 = 1 ∧ leAt w 6 2 < 8 ∧ slice w 8 16 = s.chip.block 0x40060010 4 ∧ slice w 24 16 = s.chip.sec.chal ∧
      ecdsaOk (sha256 (w.take 104)) (slice w 40 64) (slice w 104 64) = true) ∧ s.otp.rootHash k = some (sha256 (slice w 40 64)) ∧ (∀ j <
      k, s.otp.rootHash j ≠ some (sha256 (slice w 40 64)))) :=
  ⟨⟨39, 1, on awake, 0, by decide +kernel⟩,
   ⟨39, putFld (0) (4) 28 (0), on awake, by decide +kernel⟩,
   ⟨39, 3, on awake, by decide +kernel⟩,
   ⟨39, 3, on awake, by decide +kernel⟩,
   ⟨39, 3, on (awake |> (fun c => { c with sec.linkRoot := some ([]) }) |> (fun c => { c with sec.nonceOk := List.replicate 4 true }) |>
     (·.setFld (hlStat 3) 0 3 2) |> (·.setReg (lkReg 3 0x20) (1))), [], by decide +kernel⟩,
   ⟨on awake, by decide +kernel⟩,
   ⟨[], on (awake |> (·.setBit (0x40060004) 6 true)), by decide +kernel⟩,
   ⟨[], on (awake |> (·.setBit (0x40060004) 6 false)), by decide +kernel⟩,
   ⟨[], on (awake |> (·.setBit (0x40060004) 6 false) |> (fun c => { c with sec.rejects := 7 })), by decide +kernel⟩,
   ⟨sampleToken, fused key1 1 (on (awake |> (·.setBit (0x40060004) 6 false) |> (fun c => { c with sec.chal := List.replicate 16 0 }))), 0,
     by decide +kernel⟩⟩

theorem witness_LogDumpAndNvmCommandsComplete :
    (∃ (port : Nat) (v : Word) (s : State), s.chip.canStore port 0x40090020 ∧ ((fld v 0 8) < 0x30 ∨ (fld v 0 8) = 0x4E ∨ (fld v 0 8) =
      0x4F ∨ (0x5B ≤ (fld v 0 8) ∧ (fld v 0 8) < 0x80) ∨ (0x30 ≤ (fld v 0 8) ∧ (fld v 0 8) < 0x40 ∧ bit (s.chip.reg 0x40020800) 0 =
      true))) ∧
    (∃ (port : Nat) (v : Word) (s : State), s.chip.canStore port 0x40090020 ∧ (¬ ((fld v 0 8) < 0x30 ∨ (fld v 0 8) = 0x4E ∨ (fld v 0 8) =
      0x4F ∨ (0x5B ≤ (fld v 0 8) ∧ (fld v 0 8) < 0x80) ∨ (0x30 ≤ (fld v 0 8) ∧ (fld v 0 8) < 0x40 ∧ bit (s.chip.reg 0x40020800) 0 =
      true))) ∧ (s.chip.log.buf.length ≤ 4)) ∧
    (∃ (port : Nat) (v : Word) (s : State), s.chip.canStore port 0x40090020 ∧ (¬ ((fld v 0 8) < 0x30 ∨ (fld v 0 8) = 0x4E ∨ (fld v 0 8) =
      0x4F ∨ (0x5B ≤ (fld v 0 8) ∧ (fld v 0 8) < 0x80) ∨ (0x30 ≤ (fld v 0 8) ∧ (fld v 0 8) < 0x40 ∧ bit (s.chip.reg 0x40020800) 0 =
      true))) ∧ (¬ (s.chip.log.buf.length ≤ 4))) ∧
    (∃ (port : Nat) (s : State), s.chip.canStore port 0x40090004 ∧ s.chip.dump.busy = false ∧ (nth s.chip.power.grp 7 .off = .off)) ∧
    (∃ (port : Nat) (s : State), s.chip.canStore port 0x40090004 ∧ s.chip.dump.busy = false ∧ (¬ (nth s.chip.power.grp 7 .off = .off)) ∧
      s.chip.dumpValid = true) ∧
    (∃ (port : Nat) (s : State), s.chip.canStore port 0x40090004 ∧ s.chip.dump.busy = false ∧ (¬ (nth s.chip.power.grp 7 .off = .off)) ∧
      s.chip.dumpValid = false) ∧
    (∃ (s : State), s.chip.dump.busy = true ∧ s.chip.dump.resetAfter = none ∧ s.chip.dump.image.length ≤ 65536 ∧ s.chip.dump.fenceAfter =
      false) ∧
    (∃ (s : State), s.chip.dump.busy = true ∧ s.chip.dump.resetAfter = none ∧ s.chip.dump.image.length ≤ 65536 ∧ s.chip.dump.fenceAfter =
      true) ∧
    (∃ (s : State), s.chip.dom 2 = true ∧ nth s.chip.power.grp 7 .off = .awake ∧ s.chip.dumpValid = true ∧ s.chip.dump.busy = false ∧ bit
      (s.chip.reg 0x40055000) 1 = false ∧ s.chip.log.buf.length ≤ 3) ∧
    (∃ (i : Instr) (port : Nat) (n : Nat) (s : State), (s.chip.canStore port 0x40090040 ∧ (fld (s.chip.reg 0x40090040) 4 2 = 1)) ∧ (i, n)
      ∈ [(Instr.dumpReqRelease port, 0), (.dumpReqRetained port, 1), (.dumpReqNvmNewer port, 2), (.dumpReqNvmOlder port, 3),
      (.dumpReqCapture port, 4)]) ∧
    (∃ (i : Instr) (port : Nat) (n : Nat) (s : State), (s.chip.canStore port 0x40090040 ∧ (¬ (fld (s.chip.reg 0x40090040) 4 2 = 1)) ∧ n =
      0) ∧ (i, n) ∈ [(Instr.dumpReqRelease port, 0), (.dumpReqRetained port, 1), (.dumpReqNvmNewer port, 2), (.dumpReqNvmOlder port, 3),
      (.dumpReqCapture port, 4)]) ∧
    (∃ (i : Instr) (port : Nat) (n : Nat) (s : State), (s.chip.canStore port 0x40090040 ∧ (¬ (fld (s.chip.reg 0x40090040) 4 2 = 1)) ∧ n ≠
      0) ∧ (i, n) ∈ [(Instr.dumpReqRelease port, 0), (.dumpReqRetained port, 1), (.dumpReqNvmNewer port, 2), (.dumpReqNvmOlder port, 3),
      (.dumpReqCapture port, 4)]) ∧
    (∃ (port : Nat) (v : Word) (s : State), s.chip.canStore port 0x40090044 ∧ (fld (s.chip.reg 0x40090040) 4 2 = 1) ∧ (v = 1 ∨ v = 2)) ∧
    (∃ (port : Nat) (v : Word) (s : State), s.chip.canStore port 0x40090044 ∧ (¬ (fld (s.chip.reg 0x40090040) 4 2 = 1) ∨ (v ≠ 1 ∧ v ≠ 2))) ∧
    (∃ (i : Instr) (port : Nat) (op : Nat) (s : State), (s.chip.canStore port 0x40055014 ∧ (bit (s.chip.reg 0x40055000) 1) = true) ∧ (i,
      op) ∈ [(Instr.xspiRead port, 1), (.xspiProgram port, 2), (.erase4k port, 3), (.erase64k port, 4)]) ∧
    (∃ (i : Instr) (port : Nat) (op : Nat) (s : State), (s.chip.canStore port 0x40055014 ∧ (bit (s.chip.reg 0x40055000) 1) = false ∧ ((op
      = 2 ∧ (256 < (if op = 3 then 4096 else if op = 4 then 65536 else s.chip.fld 0x40055010 0 17) ∨ ((s.chip.act 0x40055008).toNat) / 256
      ≠ (((s.chip.act 0x40055008).toNat) + (if op = 3 then 4096 else if op = 4 then 65536 else s.chip.fld 0x40055010 0 17) - 1) / 256)) ∨
      ((op = 3 ∨ op = 4) ∧ ((s.chip.act 0x40055008).toNat) % (if op = 3 then 4096 else if op = 4 then 65536 else s.chip.fld 0x40055010 0
      17) ≠ 0))) ∧ (i, op) ∈ [(Instr.xspiRead port, 1), (.xspiProgram port, 2), (.erase4k port, 3), (.erase64k port, 4)]) ∧
    (∃ (i : Instr) (port : Nat) (op : Nat) (s : State), (s.chip.canStore port 0x40055014 ∧ (bit (s.chip.reg 0x40055000) 1) = false ∧ (¬
      ((op = 2 ∧ (256 < (if op = 3 then 4096 else if op = 4 then 65536 else s.chip.fld 0x40055010 0 17) ∨ ((s.chip.act 0x40055008).toNat)
      / 256 ≠ (((s.chip.act 0x40055008).toNat) + (if op = 3 then 4096 else if op = 4 then 65536 else s.chip.fld 0x40055010 0 17) - 1) /
      256)) ∨ ((op = 3 ∨ op = 4) ∧ ((s.chip.act 0x40055008).toNat) % (if op = 3 then 4096 else if op = 4 then 65536 else s.chip.fld
      0x40055010 0 17) ≠ 0))) ∧ (op ≠ 1 ∧ ((((s.chip.act 0x40055008).toNat) < 0x2000000 ∧ s.chip.bit 0x40055018 (((s.chip.act
      0x40055008).toNat) / 0x1000000) = true ∧ (op ≠ 2 ∨ ((s.chip.act 0x40055008).toNat) % 0x1000000 < 0xFFF000)) ∨ ((((s.chip.act
      0x40055008).toNat) + (if op = 3 then 4096 else if op = 4 then 65536 else s.chip.fld 0x40055010 0 17) - 1) < 0x2000000 ∧ s.chip.bit
      0x40055018 ((((s.chip.act 0x40055008).toNat) + (if op = 3 then 4096 else if op = 4 then 65536 else s.chip.fld 0x40055010 0 17) - 1)
      / 0x1000000) = true ∧ (op ≠ 2 ∨ (((s.chip.act 0x40055008).toNat) + (if op = 3 then 4096 else if op = 4 then 65536 else s.chip.fld
      0x40055010 0 17) - 1) % 0x1000000 < 0xFFF000))))) ∧ (i, op) ∈ [(Instr.xspiRead port, 1), (.xspiProgram port, 2), (.erase4k port, 3),
      (.erase64k port, 4)]) ∧
    (∃ (i : Instr) (port : Nat) (op : Nat) (s : State), (s.chip.canStore port 0x40055014 ∧ (bit (s.chip.reg 0x40055000) 1) = false ∧ (¬
      ((op = 2 ∧ (256 < (if op = 3 then 4096 else if op = 4 then 65536 else s.chip.fld 0x40055010 0 17) ∨ ((s.chip.act 0x40055008).toNat)
      / 256 ≠ (((s.chip.act 0x40055008).toNat) + (if op = 3 then 4096 else if op = 4 then 65536 else s.chip.fld 0x40055010 0 17) - 1) /
      256)) ∨ ((op = 3 ∨ op = 4) ∧ ((s.chip.act 0x40055008).toNat) % (if op = 3 then 4096 else if op = 4 then 65536 else s.chip.fld
      0x40055010 0 17) ≠ 0))) ∧ (¬ (op ≠ 1 ∧ ((((s.chip.act 0x40055008).toNat) < 0x2000000 ∧ s.chip.bit 0x40055018 (((s.chip.act
      0x40055008).toNat) / 0x1000000) = true ∧ (op ≠ 2 ∨ ((s.chip.act 0x40055008).toNat) % 0x1000000 < 0xFFF000)) ∨ ((((s.chip.act
      0x40055008).toNat) + (if op = 3 then 4096 else if op = 4 then 65536 else s.chip.fld 0x40055010 0 17) - 1) < 0x2000000 ∧ s.chip.bit
      0x40055018 ((((s.chip.act 0x40055008).toNat) + (if op = 3 then 4096 else if op = 4 then 65536 else s.chip.fld 0x40055010 0 17) - 1)
      / 0x1000000) = true ∧ (op ≠ 2 ∨ (((s.chip.act 0x40055008).toNat) + (if op = 3 then 4096 else if op = 4 then 65536 else s.chip.fld
      0x40055010 0 17) - 1) % 0x1000000 < 0xFFF000))))) ∧ (op ≠ 2 ∨ (0 < (if op = 3 then 4096 else if op = 4 then 65536 else s.chip.fld
      0x40055010 0 17) ∧ (s.chip.fld 0x4005500C 0 23) + (if op = 3 then 4096 else if op = 4 then 65536 else s.chip.fld 0x40055010 0 17) ≤
      0x800000 ∧ s.chip.gate 42 (s.chip.portCls 42) (s.chip.fld 0x4005500C 0 23) (if op = 3 then 4096 else if op = 4 then 65536 else
      s.chip.fld 0x40055010 0 17) false = .open ∧ s.chip.ecc = [] ∧ ∀ l ∈ linesOf (s.chip.fld 0x4005500C 0 23) (if op = 3 then 4096 else
      if op = 4 then 65536 else s.chip.fld 0x40055010 0 17), nth s.chip.power.grp (grpOf l) .off = .awake)) ∧ op = 1) ∧ (i, op) ∈
      [(Instr.xspiRead port, 1), (.xspiProgram port, 2), (.erase4k port, 3), (.erase64k port, 4)]) ∧
    (∃ (i : Instr) (port : Nat) (op : Nat) (s : State) (x : Nat), (s.chip.canStore port 0x40055014 ∧ (bit (s.chip.reg 0x40055000) 1) =
      false ∧ (¬ ((op = 2 ∧ (256 < (if op = 3 then 4096 else if op = 4 then 65536 else s.chip.fld 0x40055010 0 17) ∨ ((s.chip.act
      0x40055008).toNat) / 256 ≠ (((s.chip.act 0x40055008).toNat) + (if op = 3 then 4096 else if op = 4 then 65536 else s.chip.fld
      0x40055010 0 17) - 1) / 256)) ∨ ((op = 3 ∨ op = 4) ∧ ((s.chip.act 0x40055008).toNat) % (if op = 3 then 4096 else if op = 4 then
      65536 else s.chip.fld 0x40055010 0 17) ≠ 0))) ∧ (¬ (op ≠ 1 ∧ ((((s.chip.act 0x40055008).toNat) < 0x2000000 ∧ s.chip.bit 0x40055018
      (((s.chip.act 0x40055008).toNat) / 0x1000000) = true ∧ (op ≠ 2 ∨ ((s.chip.act 0x40055008).toNat) % 0x1000000 < 0xFFF000)) ∨
      ((((s.chip.act 0x40055008).toNat) + (if op = 3 then 4096 else if op = 4 then 65536 else s.chip.fld 0x40055010 0 17) - 1) < 0x2000000
      ∧ s.chip.bit 0x40055018 ((((s.chip.act 0x40055008).toNat) + (if op = 3 then 4096 else if op = 4 then 65536 else s.chip.fld
      0x40055010 0 17) - 1) / 0x1000000) = true ∧ (op ≠ 2 ∨ (((s.chip.act 0x40055008).toNat) + (if op = 3 then 4096 else if op = 4 then
      65536 else s.chip.fld 0x40055010 0 17) - 1) % 0x1000000 < 0xFFF000))))) ∧ (op ≠ 2 ∨ (0 < (if op = 3 then 4096 else if op = 4 then
      65536 else s.chip.fld 0x40055010 0 17) ∧ (s.chip.fld 0x4005500C 0 23) + (if op = 3 then 4096 else if op = 4 then 65536 else
      s.chip.fld 0x40055010 0 17) ≤ 0x800000 ∧ s.chip.gate 42 (s.chip.portCls 42) (s.chip.fld 0x4005500C 0 23) (if op = 3 then 4096 else
      if op = 4 then 65536 else s.chip.fld 0x40055010 0 17) false = .open ∧ s.chip.ecc = [] ∧ ∀ l ∈ linesOf (s.chip.fld 0x4005500C 0 23)
      (if op = 3 then 4096 else if op = 4 then 65536 else s.chip.fld 0x40055010 0 17), nth s.chip.power.grp (grpOf l) .off = .awake)) ∧ (x
      < ((s.chip.act 0x40055008).toNat) ∨ ((s.chip.act 0x40055008).toNat) + (if op = 3 then 4096 else if op = 4 then 65536 else s.chip.fld
      0x40055010 0 17) ≤ x)) ∧ (i, op) ∈ [(Instr.xspiRead port, 1), (.xspiProgram port, 2), (.erase4k port, 3), (.erase64k port, 4)]) ∧
    (∃ (ok : Bool) (s : State), s.chip.xspi = none) ∧
    (∃ (ok : Bool) (x : XCmd) (s : State), s.chip.xspi = some x ∧ (¬ (ok = true ∧ x.bad = false))) ∧
    (∃ (ok : Bool) (x : XCmd) (s : State), s.chip.xspi = some x ∧ (ok = true ∧ x.bad = false) ∧ x.op = 1 ∧ 0 < x.len ∧ x.sram + x.len ≤
      0x800000 ∧ s.chip.gate 42 (s.chip.portCls 42) x.sram x.len true = .open ∧ s.chip.ecc = [] ∧ (∀ l ∈ linesOf x.sram x.len, nth
      s.chip.power.grp (grpOf l) .off = .awake)) ∧
    (∃ (ok : Bool) (x : XCmd) (s : State) (y : Nat), s.chip.xspi = some x ∧ (ok = true ∧ x.bad = false) ∧ x.op ≠ 1 ∧ x.op = 2 ∧ (y <
      x.addr ∨ x.addr + x.fin.length ≤ y)) ∧
    (∃ (ok : Bool) (x : XCmd) (s : State) (y : Nat), s.chip.xspi = some x ∧ (ok = true ∧ x.bad = false) ∧ x.op ≠ 1 ∧ x.op ≠ 2 ∧ x.addr ≤ y
      ∧ y < x.addr + x.len) ∧
    (∃ (ok : Bool) (x : XCmd) (s : State) (y : Nat), s.chip.xspi = some x ∧ (ok = true ∧ x.bad = false) ∧ x.op ≠ 1 ∧ x.op ≠ 2 ∧ (y <
      x.addr ∨ x.addr + x.len ≤ y)) :=
  ⟨⟨39, putFld (0) (0) 8 (0), on awake, by decide +kernel⟩,
   ⟨39, 0x80, on awake, by decide +kernel⟩,
   ⟨39, 0x80, on (awake |> (fun c => { c with log.buf := List.replicate 5 default })), by decide +kernel⟩,
   ⟨39, on (awake |> (fun c => { c with dump.busy := false }) |> (fun c => { c with power.grp := upd c.power.grp (7) fun _ => .off })),
     by decide +kernel⟩,
   ⟨39, on (awake |> (fun c => { c with dump.busy := false }) |> (fun c => (fun h => c.pokeN dumpBase (h ++ leBytes 4 (crc32 h))) (leBytes
     4 0x504D5544 ++ [1] ++ List.replicate 55 0))), by decide +kernel⟩,
   ⟨39, on (awake |> (fun c => { c with dump.busy := false })), by decide +kernel⟩,
   ⟨on (awake |> (fun c => { c with dump.busy := true }) |> (fun c => { c with dump.resetAfter := none }) |> (fun c =>
     { c with dump.fenceAfter := false })), by decide +kernel⟩,
   ⟨on (awake |> (fun c => { c with dump.busy := true }) |> (fun c => { c with dump.resetAfter := none }) |> (fun c =>
     { c with dump.fenceAfter := true })), by decide +kernel⟩,
   ⟨on (awake |> (fun c => { c with dump.busy := false }) |> (·.setBit (0x40055000) 1 false) |> (fun c => (fun h => c.pokeN dumpBase (h ++
     leBytes 4 (crc32 h))) (leBytes 4 0x504D5544 ++ [1] ++ List.replicate 55 0))), by decide +kernel⟩,
   ⟨.dumpReqCapture 39, 39, 4, on (awake |> (·.setFld (0x40090040) 4 2 1)), by decide +kernel, by simp⟩,
   ⟨.dumpReqRelease 39, 39, 0, on awake, by decide +kernel, by simp⟩,
   ⟨.dumpReqCapture 39, 39, 4, on awake, by decide +kernel, by simp⟩,
   ⟨39, 1, on (awake |> (·.setFld (0x40090040) 4 2 1)), by decide +kernel⟩,
   ⟨39, 0, on awake, by decide +kernel⟩,
   ⟨.erase64k 39, 39, 4, on (awake |> (·.setBit (0x40055000) 1 true)), by decide +kernel, by simp⟩,
   ⟨.xspiProgram 39, 39, 2, on (awake |> (·.setBit (0x40055000) 1 false) |> (·.setReg (0x40055010) (257))), by decide +kernel, by simp⟩,
   ⟨.xspiProgram 39, 39, 2, on (awake |> (·.setReg (0x40055018) (1)) |> (·.setReg (0x40055010) (256))), by decide +kernel, by simp⟩,
   ⟨.xspiRead 39, 39, 1, on (awake |> (·.setBit (0x40055000) 1 false) |> (·.setReg (0x40055010) (256))), by decide +kernel, by simp⟩,
   ⟨.xspiProgram 39, 39, 2, on (awake |> (·.setBit (0x40055000) 1 false) |> (·.setReg (0x40055010) (256))), 256, by decide +kernel, by
     simp⟩,
   ⟨false, on (awake |> (fun c => { c with xspi := none })), by decide +kernel⟩,
   ⟨false, default, on (awake |> (fun c => { c with xspi := some default })), by decide +kernel⟩,
   ⟨true, { (default : XCmd) with bad := false, op := 1, len := 256 }, on (awake |> (fun c =>
     { c with xspi := some ({ (default : XCmd) with bad := false, op := 1, len := 256 }) }) |> (fun c => { c with ecc := [] })),
     by decide +kernel⟩,
   ⟨true, { (default : XCmd) with bad := false, op := 2 }, on (awake |> (fun c =>
     { c with xspi := some ({ (default : XCmd) with bad := false, op := 2 }) })), 0, by decide +kernel⟩,
   ⟨true, { (default : XCmd) with bad := false, op := 3, len := 4096 }, on (awake |> (fun c =>
     { c with xspi := some ({ (default : XCmd) with bad := false, op := 3, len := 4096 }) })), 0, by decide +kernel⟩,
   ⟨true, { (default : XCmd) with bad := false }, on (awake |> (fun c =>
     { c with xspi := some ({ (default : XCmd) with bad := false }) })), 0, by decide +kernel⟩⟩

theorem witness_StepKeepsNvmAndOtpForm :
    (∃ (s : State) (t : State), (Nvm.wf s.nvm = true) ∧ step s = .next t) ∧
    (∃ (s : State) (t : State), step s = .next t) :=
  ⟨⟨(fun s => { s with nvm := [(0, 5)], pending := [.powerOnReset] }) (on awake), after ((fun s =>
     { s with nvm := [(0, 5)], pending := [.powerOnReset] }) (on awake)), by decide +kernel, rfl⟩,
   ⟨(fun s => { s with pending := [.powerOnReset] }) (on awake), after ((fun s => { s with pending := [.powerOnReset] }) (on awake)), rfl⟩⟩

theorem witness_RegisterStoresFollowFieldTypes :
    (∃ (port : Nat) (a : Nat) (v : Word) (s : State), s.chip.canStore port a ∧ (a ∈ [0x40090008, 0x40090048, 0x4009004C, 0x40055008,
      0x400600B0] ∨ (0x40040040 ≤ a ∧ a < 0x40040080))) ∧
    (∃ (port : Nat) (a : Nat) (v : Word) (s : State) (m : Nat), s.chip.canStore port a ∧ (a, m) ∈ [(0x4000000C, 0x3F), (0x40000048, 1),
      (0x40010000, 0x89), (0x40010100, 5), (0x40020000, 15), (0x40030000, 31), (0x40030304, 0xFFFFFFFF), (0x40040000, 31), (0x40050000,
      0x31), (0x40052000, 0x31), (0x40055000, 0x1D), (0x40060004, 0x101), (0x40090000, 0x3D)] ∧ v &&& ~~~BitVec.ofNat 32 m = 0) ∧
    (∃ (port : Nat) (a : Nat) (v : Word) (s : State), s.chip.canStore port a ∧ a ∈ [0x40000034, 0x40000038, 0x40020004, 0x40030004,
      0x40040014, 0x40055004, 0x40060000, 0x40070000, 0x40090024]) ∧
    (∃ (port : Nat) (a : Nat) (v : Word) (s : State), (s.chip.canStore port a ∧ bit (s.chip.reg 0x40020800) 0 = true ∧ fld v 12 4 = 0 ∧
      fld v 0 12 = fld (s.chip.reg a) 0 12 ∧ fld v 16 16 = fld (s.chip.reg a) 16 16) ∧ (∃ i < 24, a = 0x40020100 + 4 * i)) ∧
    (∃ (port : Nat) (a : Nat) (v : Word) (s : State), (s.chip.canStore port a ∧ bit (s.chip.reg 0x40020800) 0 = true ∧ fld v 12 4 = 0 ∧
      (fld v 0 12 ≠ fld (s.chip.reg a) 0 12 ∨ fld v 16 16 ≠ fld (s.chip.reg a) 16 16)) ∧ (∃ i < 24, a = 0x40020100 + 4 * i)) ∧
    (∃ (port : Nat) (a : Nat) (v : Word) (s : State), s.chip.canStore port a ∧ a = 0x4004000C ∧ fld v 0 8 = 0) ∧
    (∃ (port : Nat) (a : Nat) (v : Word) (s : State), s.chip.canStore port a ∧ a = 0x40040004 ∧ fld v 10 21 ≠ 0) ∧
    (∃ (port : Nat) (a : Nat) (v : Word) (s : State), s.chip.canStore port a ∧ a = 0x40040004 ∧ fld v 10 21 = 0) :=
  ⟨⟨39, 0x400600B0, 0, on awake, by decide +kernel⟩,
   ⟨39, 0x40090000, 0, on awake, 0x3D, by decide +kernel⟩,
   ⟨39, 0x40090024, 0, on awake, by decide +kernel⟩,
   ⟨39, 0x4002015C, (awake.setBit 0x40020800 0 true).reg 0x4002015C, on (awake |> (·.setBit (0x40020800) 0 true)), by decide +kernel, ⟨23,
     by decide, rfl⟩⟩,
   ⟨39, 0x4002015C, 1, on (awake |> (·.setBit (0x40020800) 0 true)), by decide +kernel, ⟨23, by decide, rfl⟩⟩,
   ⟨39, 0x4004000C, putFld (0) (0) 8 (0), on awake, by decide +kernel⟩,
   ⟨39, 0x40040004, putFld (0) (10) 21 ((if 0 = 0 then 1 else 0)), on awake, by decide +kernel⟩,
   ⟨39, 0x40040004, putFld (0) (10) 21 (0), on awake, by decide +kernel⟩⟩

/-! ### Well-formedness -/

/-- One ill-formed command for each check of `Instr.wf`, each refused. -/
theorem test_wf_refuses : ([.registerWrite 49 0x40000000 4 0, .registerWrite 36 (2 ^ 32) 4 0, .registerWrite 36 0x40000000 3 0, .stwWdtExpiry 4,
    .locketLateArrival 20, .engineUsable 36, .grpIdleRetention 8, .logWrite 49 0, .pwrEngWrite 36 3 0, .pwrEngWrite 49 0 0, .lpcSample 4 0,
    .lpcSample 0 4096, .balChannelOff 20, .balDutyWrite 49 0 0, .beadCommit 36 2 0 0 0, .beadCommit 36 0 3 0 0, .beadCommit 36 0 2 16 0,
    .beadCommit 36 0 0 128 0, .checkBeadStore 32 0 0, .seqRunStart 36 2 0] : List Instr).all (fun i => !i.wf) = true := by decide
theorem test_wf_refuses_2 : ([.seqTimerTick 4, .pwmStartEvent 0 8, .pwmStartEvent 2 0, .settleEnd 2, .pendantTrigger 0 25, .ringEnable 36 16 0,
    .filterEnable 36 8 0, .filterOutput 8, .windowEnable 36 16 0 0, .windowEnable 36 0 2 0, .bankGrant 16 [], .bankGrant 0 [(49, 0, 0)],
    .bankGrant 0 [(0, 3, 0)], .partAttrWrite 36 16 0 0, .partAttrWrite 36 0 5 0, .doorbell 36 36 0, .timeWindowOpen 32, .engEvtWrite 36 32 0,
    .gruStep 8, .gemm 7, .matmul 16] : List Instr).all (fun i => !i.wf) = true := by decide
theorem test_wf_refuses_3 : ([.excite 15, .fft 20, .fir 19, .bptt 21, .compress 26, .copy 25, .gcmEnc 32, .diff 31, .decode 36,
    .inputVectorReceive 1024 false [] false, .linkTrain 4 0 0 0 false, .linkTrain 0 8 0 0 false, .linkTrain 0 0 5 0 false, .linkTrain 0 0 0 1024 false, .linkUp 4, .ack 0 [],
    .ack 4 (List.replicate 8 0), .mbSendWr 36 4 0, .heartbeat 1024, .canModeWrite 36 2 0, .canBusOff 2, .ethFrameReceive [] true, .tdmFsync 2,
    .tdmFrameReceived 0 (List.replicate 17 0)] : List Instr).all (fun i => !i.wf) = true := by decide
theorem test_wf_refuses_4 : ([.i3cCmdDone true (List.replicate 33 0), .sinkBlockStart (2 ^ 48) [], .d2dFrozen 2, .markingEnd 0, .markingEnd 32,
    .secToken [], .ethMdioDone 65536, .sgmiiLinkStatus true 3] : List Instr).all (fun i => !i.wf) = true := by decide
/-- The same for the access of FABRIC_ACCESS. -/
theorem test_wf_access : (let x : Access := { kind := .read, port := 36, cls := 0, addr := 0, len := 4, data := [], srcId := 0, upsets := [] }
    [accessOk x, accessOk { x with port := 49 }, accessOk { x with cls := 3 }, accessOk { x with addr := 2 ^ 32 }, accessOk { x with len := 0 },
     accessOk { x with srcId := 1024 }, accessOk { x with data := [1] }, accessOk { x with kind := .write }, accessOk { x with kind := .amo .add }]) =
    [true, false, false, false, false, false, false, false, false] := by decide

/-! ### The interface of the host -/

/-- No row of the table has bits, so no word spells a command and nothing is queued. -/
theorem test_no_word_spells_a_command : decodeTableWord 32 0 = none ∧ (State.reset.withFetchWord 32 0).pending = [] := by decide
/-- A command in front is executed with the queue's rest. -/
theorem test_step_takes_the_front : (after { State.reset with pending := [.xtal32kFail, .glitch] }).pending = [.glitch] := by decide +kernel

/-! ### The spec's worked examples, and published check values of the standard algorithms it names -/

/-- Table 07-2, rows 1, 2 and 4: FLT_CFG, FLT_CSET and the notch's f0, Q and FS of a path give S. -/
theorem test_settling_counts :
    (let path := fun (cfg notch fs cset : Nat) => ((((awake.setReg (fltReg 7 0) (BitVec.ofNat 32 cfg)).setReg (fltReg 7 0xC)
        (BitVec.ofNat 32 notch)).setReg (fltReg 7 0x10) (BitVec.ofNat 32 fs)).setReg (fltReg 7 0x14) (BitVec.ofNat 32 cset)).settleS 7
     let cfg := fun (n comp taps notch : Nat) => 4 * n + 2 ^ 18 * comp + 2 ^ 20 * taps + 2 ^ 25 * notch
     [path (cfg 3 1 7 0) 0 0 0, path (cfg 3 1 7 1) (3200 + 2 ^ 22 * 16) 16000 0, path (cfg 4 2 0 1) (6400 + 2 ^ 22 * 32) 128000 40]) =
    [10, 134, 1033] := by decide +kernel
/-- "A learned estimate outside the bound" (18): SOC_B is 0.633333 and BND 0.028667. -/
theorem test_coarse_bound :
    (let f := fun (x : Nat) => leBytes 4 x
     let prog := List.replicate 0x1B 0 ++ [1] ++ List.replicate 12 0 ++ f 0x3C23D70A ++ f 0x3F19999A ++ f 0 ++ f 0x3D4CCCCD ++
       List.replicate 272 0 ++ f 7 ++ f 0x4852F000 ++ List.replicate 520 0
     let cell : BelCell := { (default : BelCell) with anchor := some (⟨4, 5⟩, ⟨1, 50⟩) }
     let b : Bel := { (default : Bel) with prog := prog, chem := some 7, cells := [cell], tA := ⟨2400, 1⟩ }
     let b : Bel := { b with qB := ⟨36000, 1⟩, qAbs := ⟨43200, 1⟩, qGap := ⟨0, 1⟩ }
     (b.coarse 0).map fun x => (x.1.num * 1000000 / (x.1.den : Int), x.2.num * 1000000 / (x.2.den : Int))) =
    some (633333, 28666) := by decide +kernel
/-- "A FLY row in E4M3" (11): the scale of 3.7 is 2^-7 × 136 ÷ 128, 3.7 codes as 0x7E and 0.05 as 0x4C. -/
theorem test_fly_scale : bf16.to fp32 (flyScale 4 0x406CCCCD) = 0x3C080000 := by decide +kernel
theorem test_fly_codes : encScaled 4 0 0x406CCCCD 0x3C080000 = 0x7E ∧ encScaled 4 0 0x3D4CCCCD 0x3C080000 = 0x4C := by decide +kernel
/-- Edge cases 4 to 6 of 11: 70,000 saturates in E5M2, is infinity in FP16; a NaN in INT8 is the code of zero. -/
theorem test_conversions : enc32 5 0 0x4788B800 = 0x7B ∧ enc32 2 0 0x4788B800 = 0x7C00 ∧ enc32 6 5 0x7FC00000 = 5 := by decide +kernel
/-- CRC-32 and CRC-16 of "123456789", and CRC-8 of it with polynomial 0x1D. -/
theorem test_crcs : crc32 (ascii "123456789") = 0xCBF43926 ∧ crc16From 0xFFFF (ascii "123456789") = 0x29B1 ∧ crc8 (ascii "123456789") = 0x4B := by
  decide +kernel
/-- SHA-256 of "abc" (FIPS 180-4). -/
theorem test_sha256 : beNat (sha256 (ascii "abc")) = 0xba7816bf8f01cfea414140de5dae2223b00361a396177a9cb410ff61f20015ad := by decide +kernel
/-- HMAC-SHA-256, RFC 4231 test case 2. -/
theorem test_hmac : beNat (hmac (ascii "Jefe") (ascii "what do ya want for nothing?")) =
    0x5bdcc146bf60754e6a042426089575c75a003f089d2739839dec58b964ec3843 := by decide +kernel
/-- GCM with a zero key and IV: test cases 13 and 14 of the GCM specification. -/
theorem test_gcm : beNat (gcmTag (List.replicate 32 0) (List.replicate 12 0) [] []) = 0x530f8afbc74536b9a963b4f1c4cb738b ∧
    beNat (gcmCrypt (List.replicate 32 0) (List.replicate 12 0) (List.replicate 16 0)) = 0xcea7403d4d606b6e074ec5d3baf39d18 := by decide +kernel
end

section
/-! SUPPORT. Accesses that the fabric does not perform (R796): what a check that fails leaves, for FABRIC_ACCESS and REGISTER_WRITE. -/
namespace Sys2Proof.Machine

/-! ### The MISUSE bit -/

/-- MISUSE is bit 4 of I3C_STAT and bit 0 of every other register that shows it. -/
theorem misuseAt_bit {a r b : Nat} (h : misuseAt a = some (r, b)) : b = 0 ∨ b = 4 := by
  unfold misuseAt at h
  grind

/-- The MISUSE bit of the owning block reads 1 afterwards. -/
theorem Chip.bit_misuse (c : Chip) {a r b : Nat} (h : misuseAt a = some (r, b)) : Machine.bit ((c.misuse a).reg r) b = true := by
  simp only [Chip.misuse, h]
  exact c.bit_setBit_self r true (by have := misuseAt_bit h; omega)

/-- The frame of a refused access, whose status is all it touches: errors of stored words and the response are no part of it. -/
theorem State.keeps_of_touch (s : State) {but : List Nat} {d : Chip} (e : List (Nat × EccErr)) (n : Nat)
    (h : Touch (· ∈ but) { s.chip with ecc := e } d) : s.keeps { s with chip := d.busError n } but :=
  ⟨⟨rfl, rfl, rfl, rfl⟩, h.kept, h.peek⟩

/-- MISUSE touches the register that shows it alone. -/
theorem Chip.misuse_touch (c : Chip) (a : Nat) : Touch (· ∈ ((misuseAt a).map (·.1)).toList) c (c.misuse a) :=
  (Touch.refl _ c).misuse a fun r b h => by simp [h]

/-! ### Bit errors that arise -/

theorem Chip.arise_eq (c : Chip) (w n : Nat) : ∃ e, c.arise w n = { c with ecc := e } := by
  unfold Chip.arise
  dsimp only
  split
  · exact ⟨c.ecc, rfl⟩
  · exact ⟨_, rfl⟩

/-- Bit errors that arise in stored words change nothing else. -/
theorem Chip.ariseAll_eq (c : Chip) (us : List (Nat × Nat)) : ∃ e, c.ariseAll us = { c with ecc := e } := by
  unfold Chip.ariseAll
  induction us generalizing c with
  | nil => exact ⟨c.ecc, rfl⟩
  | cons u r ih =>
    obtain ⟨e, he⟩ := c.arise_eq u.1 u.2
    rw [List.foldl_cons, he]
    exact ih _

/-! ### The checks -/

/-- Outside the output buffers a register access of 1 or 2 bytes, or a misaligned one, has no shape the spec performs. -/
theorem regShape_eq_false {a n : Nat} (hb : isOutBuf a = false) (h : n = 1 ∨ n = 2 ∨ a % 4 ≠ 0) : regShape a n = false := by
  have hword : ¬ (a % 4 = 0 ∧ n = 4) := by omega
  have hwindow : ¬ (a % 4 = 0 ∧ n % 4 = 0 ∧ 0 < n) := by omega
  simp [regShape, inWindow, hb, hword, hwindow]

/-- R5 is checked right after R291: such an access fails there, whoever makes it. -/
theorem Chip.gate_narrow (c : Chip) (port cls : Nat) {a n : Nat} (wr : Bool) (hr : 0x40000000 ≤ a) (hn : inArea a n = true)
    (hb : isOutBuf a = false) (h : n = 1 ∨ n = 2 ∨ a % 4 ≠ 0) : c.gate port cls a n wr = .narrow := by
  simp [Chip.gate, isReg, hr, hn, hb, regShape_eq_false hb h]

/-! ### A check that fails -/

/-- What an access leaves that fails a check: the check's status, and a bus error. -/
theorem State.access_of_gate (s : State) (x : Access) {g : Gate}
    (h : s.chip.gate x.port (s.chip.accCls x) x.addr x.len (accWrites x) = g) (hg : g ≠ .open) :
    s.access x = { s with
      chip := (s.chip.gateFail g x.port (s.chip.accCls x) x.addr x.srcId (accWrites x)).busError
        (if x.kind = .write then 0 else x.len) } := by
  unfold State.access
  dsimp only
  split
  · next ho => exact absurd (h.symm.trans ho) hg
  · rw [h]

/-- No check looks at the errors held in stored words. -/
theorem Chip.gate_ecc (c : Chip) (e : List (Nat × EccErr)) (port cls a n : Nat) (wr : Bool) :
    Chip.gate { c with ecc := e } port cls a n wr = c.gate port cls a n wr := rfl

/-- What a FABRIC_ACCESS leaves whose access fails a check: besides, its bit errors have arisen. -/
theorem execFabricAccess_of_gate (x : Access) (s : State) {g : Gate} (hp : x.port ≤ 48)
    (h : s.chip.gate x.port (s.chip.accCls x) x.addr x.len (accWrites x) = g) (hg : g ≠ .open) :
    ∃ e, execFabricAccess x s = .next { s with
      chip := (Chip.gateFail { s.chip with ecc := e } g x.port (s.chip.accCls x) x.addr x.srcId (accWrites x)).busError
        (if x.kind = .write then 0 else x.len) } := by
  obtain ⟨e, he⟩ := s.chip.ariseAll_eq x.upsets
  refine ⟨e, ?_⟩
  rw [execFabricAccess, if_neg (by omega), he]
  exact congrArg _ (State.access_of_gate { s with chip.ecc := e } x ((s.chip.gate_ecc e ..).trans h) hg)

/-- What a REGISTER_WRITE leaves that fails a check. -/
theorem execRegisterWrite_of_gate (port a n : Nat) (v : Word) (s : State) {g : Gate}
    (h : s.chip.gate port (s.chip.portCls port) a n true = g) (hg : g ≠ .open) :
    execRegisterWrite port a n v s =
      .next { s with chip := (s.chip.gateFail g port (s.chip.portCls port) a 0 true).busError 0 } := by
  unfold execRegisterWrite
  dsimp only
  split
  · next ho => exact absurd (h.symm.trans ho) hg
  · rw [h]; rfl

end Sys2Proof.Machine
end

section
/-! PROOFS. Chapter 00: the scope of the register accesses. -/
namespace Sys2Proof.Machine

/-- Settles O23: both access paths fail the check of R5, and its failure sets MISUSE and answers a bus error. -/
theorem narrowRegisterAccessesAreNotPerformed : Obligations.NarrowRegisterAccessesAreNotPerformed := by
  unfold Obligations.NarrowRegisterAccessesAreNotPerformed
  constructor
  · intro x s hp hr hn hb hx
    obtain ⟨e, hexec⟩ := execFabricAccess_of_gate x s hp (s.chip.gate_narrow _ _ _ hr hn hb hx) (by decide)
    refine ⟨_, hexec, s.keeps_of_touch e _ (Chip.misuse_touch _ x.addr), rfl, fun hk => ?_, fun r b h => Chip.bit_misuse _ h⟩
    simp [hk, Chip.busError]
  · intro port a n v s hr hn hb hx
    have hexec := execRegisterWrite_of_gate port a n v s (s.chip.gate_narrow _ _ _ hr hn hb hx) (by decide)
    exact ⟨_, hexec, s.keeps_of_touch s.chip.ecc 0 (Chip.misuse_touch _ a), rfl, fun r b h => Chip.bit_misuse _ h⟩

end Sys2Proof.Machine
end

section
/-! SUPPORT. Register stores: which bits a field's store may change, what refuses a field, and what a store leaves of its card (R792). -/
namespace Sys2Proof.Machine

/-! ### Fields and bits -/

/-- Two fields of equal place agree when their bits do. -/
theorem fld_congr {u v : Word} {lo w : Nat} (h : ∀ i < w, bit u (lo + i) = bit v (lo + i)) : fld u lo w = fld v lo w := by
  refine Nat.eq_of_testBit_eq fun i => ?_
  rw [testBit_fld, testBit_fld]
  by_cases hi : i < w
  · rw [h i hi]
  · simp [hi]

/-- Fields that differ have a bit in which they differ. -/
theorem exists_bit_ne_of_fld_ne {u v : Word} {lo w : Nat} (h : fld u lo w ≠ fld v lo w) : ∃ i < w, bit u (lo + i) ≠ bit v (lo + i) := by
  by_contra hc
  exact h (fld_congr fun i hi => by_contra fun hb => hc ⟨i, hi, hb⟩)

/-- The bits of equal fields are equal. -/
theorem bit_congr {u v : Word} {lo w i : Nat} (h : fld u lo w = fld v lo w) (hlo : lo ≤ i) (hi : i < lo + w) : bit u i = bit v i := by
  have hbit := congrArg (Nat.testBit · (i - lo)) h
  simpa [testBit_fld, show i - lo < w by omega, hlo] using hbit

/-- A field of 0 masks to nothing. -/
theorem and_fldMask_eq_zero {v : Word} {lo w : Nat} (h : fld v lo w = 0) : v &&& fldMask lo w = 0 := by
  refine BitVec.eq_of_getLsbD_eq fun i hi => ?_
  rw [BitVec.getLsbD_and, bit_fldMask]
  by_cases hf : lo ≤ i ∧ i < lo + w
  · have hbit : v.getLsbD i = false := by
      have := testBit_fld v lo w (i - lo)
      rw [h, Nat.zero_testBit, Nat.add_sub_cancel' hf.1] at this
      simpa [bit, show i - lo < w by omega] using this.symm
    simp [hbit]
  · have : ¬ (lo ≤ i) ∨ ¬ (i < lo + w) := by omega
    rcases this with h1 | h1 <;> simp [h1]

/-- Clearing bits of a field leaves every bit outside it. -/
theorem bit_clear_other (u v : Word) {lo w i : Nat} (h : ¬ (lo ≤ i ∧ i < lo + w)) :
    bit (u &&& ~~~ (v &&& fldMask lo w)) i = bit u i := by
  have hm : (fldMask lo w).getLsbD i = false := by
    rw [bit_fldMask, Bool.and_assoc, ← Bool.decide_and, decide_eq_false h, Bool.and_false]
  simp only [bit, BitVec.getLsbD_and, BitVec.getLsbD_not, hm, Bool.and_false, Bool.not_false, Bool.and_true]
  by_cases hi : i < 32
  · simp [hi]
  · simp [BitVec.getLsbD_of_ge u i (Nat.le_of_not_lt hi)]

/-! ### One field -/

/-- Bit `i` lies in the field. -/
def Fld.covers (f : Fld) (i : Nat) : Prop := f.lo ≤ i ∧ i < f.lo + f.w

/-- A rule keeps the field of the register at `a` from `port`, whatever is stored: the field is Belfry's (R58), locked (R8), or frozen
while its block runs. -/
def Chip.refusesFld (c : Chip) (port a : Nat) (f : Fld) : Bool :=
  match f.acc with
  | .rw => c.frozenFld a f.lo
  | .rl => c.rlLocked a || c.frozenFld a f.lo
  | .bel => decide (port ≠ 40) || c.frozenFld a f.lo
  | _ => false

/-- A refused field is left, and a store that would change it sets MISUSE (R792). -/
theorem Chip.storeFld_of_refuses {c : Chip} {port a : Nat} {f : Fld} (v : Word) (r : StoreRes) (h : c.refusesFld port a f = true) :
    c.storeFld port a v r f = if Machine.fld v f.lo f.w = Machine.fld r.reads f.lo f.w then r else { r with misuse := true } := by
  unfold Chip.refusesFld at h
  unfold Chip.storeFld
  split at h
  case h_1 hacc => simp [hacc, h]
  case h_2 hacc => rcases Bool.or_eq_true_iff.1 h with h | h <;> simp [hacc, h]
  case h_3 hacc =>
    rcases Bool.or_eq_true_iff.1 h with h | h
    · simp [hacc, of_decide_eq_true h]
    · simp [hacc, h]
  case h_4 => cases h

/-- A store may put another value into a field, or clear bits of it. -/
theorem Chip.storeFld_reads (c : Chip) (port a : Nat) (v : Word) (r : StoreRes) (f : Fld) :
    (c.storeFld port a v r f).reads = r.reads ∨ (∃ x, (c.storeFld port a v r f).reads = putFld r.reads f.lo f.w x) ∨
      (c.storeFld port a v r f).reads = r.reads &&& ~~~ (v &&& fldMask f.lo f.w) := by
  unfold Chip.storeFld
  dsimp only
  cases f.acc
  case ro => exact .inl rfl
  case w1c => exact .inr (.inr rfl)
  case rw | rl | bel | wo => grind

/-- A store to one field leaves every bit outside it, and one that is refused every bit. -/
theorem Chip.bit_storeFld {c : Chip} {port a : Nat} {f : Fld} {i : Nat} (v : Word) (r : StoreRes)
    (h : f.covers i → c.refusesFld port a f = true) : Machine.bit (c.storeFld port a v r f).reads i = Machine.bit r.reads i := by
  by_cases hf : f.covers i
  · rw [Chip.storeFld_of_refuses v r (h hf)]
    split <;> rfl
  · unfold Fld.covers at hf
    rcases c.storeFld_reads port a v r f with e | ⟨x, e⟩ | e
    · rw [e]
    · rw [e, bit_putFld, if_neg (by omega)]
    · rw [e, bit_clear_other _ _ hf]

/-- MISUSE once set stays set over the fields of a store. -/
theorem Chip.storeFld_misuse {c : Chip} {port a : Nat} {v : Word} {r : StoreRes} (f : Fld) (h : r.misuse = true) :
    (c.storeFld port a v r f).misuse = true := by
  unfold Chip.storeFld
  dsimp only
  cases f.acc
  case ro | w1c => exact h
  case rw | rl | bel | wo => grind

/-- A read-write field takes its value of the store `v`: nothing freezes the field, and the value is neither refused nor reserved. -/
structure Chip.TakesFld (c : Chip) (a : Nat) (v : Word) (f : Fld) : Prop where
  acc : f.acc = .rw
  free : c.frozenFld a f.lo = false
  value : c.refusedValue a f.lo (Machine.fld v f.lo f.w) v = false
  defined : f.defined (Machine.fld v f.lo f.w) = true
  here : c.reservedHere a f.lo (Machine.fld v f.lo f.w) = false

/-- The field read, and acted on, as the store has it. -/
def StoreRes.take (v : Word) (r : StoreRes) (f : Fld) : StoreRes :=
  { r with reads := putFld r.reads f.lo f.w (fld v f.lo f.w), acts := putFld r.acts f.lo f.w (fld v f.lo f.w) }

theorem Chip.storeFld_of_takes {c : Chip} {a : Nat} {v : Word} {f : Fld} (port : Nat) (r : StoreRes) (h : c.TakesFld a v f) :
    c.storeFld port a v r f = r.take v f := by
  obtain ⟨hacc, hfree, hval, hdef, hhere⟩ := h
  simp [Chip.storeFld, StoreRes.take, hacc, hfree, hval, hdef, hhere]

/-! ### All fields -/

theorem Chip.bit_foldl_storeFld {c : Chip} {port a i : Nat} (v : Word) {l : List Fld} (r : StoreRes)
    (h : ∀ f ∈ l, f.covers i → c.refusesFld port a f = true) :
    Machine.bit (l.foldl (c.storeFld port a v) r).reads i = Machine.bit r.reads i := by
  induction l generalizing r with
  | nil => rfl
  | cons f l ih =>
    rw [List.foldl_cons, ih _ fun g hg => h g (List.mem_cons_of_mem _ hg), Chip.bit_storeFld v r (h f List.mem_cons_self)]

theorem Chip.foldl_storeFld_misuse {c : Chip} {port a : Nat} {v : Word} (l : List Fld) {r : StoreRes} (h : r.misuse = true) :
    (l.foldl (c.storeFld port a v) r).misuse = true := by
  induction l generalizing r with
  | nil => exact h
  | cons f l ih => exact ih (Chip.storeFld_misuse f h)

/-- A store that would change a bit that each field holding it refuses sets MISUSE. -/
theorem Chip.foldl_storeFld_misuse_of_refuses {c : Chip} {port a i : Nat} {v : Word} {l : List Fld} {r : StoreRes}
    (hin : ∃ f ∈ l, f.covers i) (h : ∀ f ∈ l, f.covers i → c.refusesFld port a f = true) (hne : Machine.bit v i ≠ Machine.bit r.reads i) :
    (l.foldl (c.storeFld port a v) r).misuse = true := by
  induction l generalizing r with
  | nil => simp at hin
  | cons g l ih =>
    have hg := h g List.mem_cons_self
    by_cases hi : g.covers i
    · refine Chip.foldl_storeFld_misuse l ?_
      rw [Chip.storeFld_of_refuses v r (hg hi), if_neg fun he => hne (bit_congr he hi.1 hi.2)]
    · have hin : ∃ f ∈ l, f.covers i := by simpa [hi] using hin
      exact ih hin (fun f hf => h f (List.mem_cons_of_mem _ hf)) (by rwa [Chip.bit_storeFld v r hg])

/-! ### The whole register -/

/-- A bit that no field of the card may change reads as before. -/
theorem Chip.bit_storeRes {c : Chip} {k : Card} {port a i : Nat} (v : Word)
    (h : ∀ f ∈ k.flds, f.covers i → c.refusesFld port a f = true) :
    Machine.bit (c.storeRes k port a v).reads i = Machine.bit (c.reg a) i := by
  unfold Chip.storeRes
  dsimp only
  split
  · rfl
  · exact Chip.bit_foldl_storeFld v _ h

/-- A store that would change a bit that each field holding it refuses sets MISUSE. -/
theorem Chip.storeRes_misuse {c : Chip} {k : Card} {port a i : Nat} {v : Word} (hin : ∃ f ∈ k.flds, f.covers i)
    (h : ∀ f ∈ k.flds, f.covers i → c.refusesFld port a f = true) (hne : Machine.bit v i ≠ Machine.bit (c.reg a) i) :
    (c.storeRes k port a v).misuse = true := by
  unfold Chip.storeRes
  dsimp only
  split
  · rfl
  · rw [Chip.foldl_storeFld_misuse_of_refuses hin h hne, Bool.true_or]

/-- Where no rule freezes the register, its fields' results stand; a reserved bit of the store sets MISUSE (R10). -/
theorem Chip.storeRes_of_not_frozen {c : Chip} {port a : Nat} (k : Card) (v : Word) (h : c.frozenReg port a = false) :
    c.storeRes k port a v =
      let r := k.flds.foldl (c.storeFld port a v) ⟨c.reg a, c.act a, false⟩
      { r with misuse := r.misuse || decide (v &&& ~~~ k.cover ≠ 0) } := by
  simp [Chip.storeRes, h]

/-- A store without reserved bits, all of whose fields are taken, is taken whole and without MISUSE. -/
theorem Chip.storeRes_of_takes {c : Chip} {k : Card} {a : Nat} {v : Word} (port : Nat) (hreg : c.frozenReg port a = false)
    (h : ∀ f ∈ k.flds, c.TakesFld a v f) (hcov : v &&& ~~~ k.cover = 0) :
    c.storeRes k port a v = k.flds.foldl (StoreRes.take v) ⟨c.reg a, c.act a, false⟩ := by
  have hfold : k.flds.foldl (c.storeFld port a v) ⟨c.reg a, c.act a, false⟩ =
      k.flds.foldl (StoreRes.take v) ⟨c.reg a, c.act a, false⟩ :=
    List.foldl_ext _ _ _ fun r f hf => Chip.storeFld_of_takes port r (h f hf)
  have hquiet : (k.flds.foldl (StoreRes.take v) ⟨c.reg a, c.act a, false⟩).misuse = false :=
    foldl_keeps StoreRes.misuse (StoreRes.take v) _ (fun _ _ => rfl) _
  rw [Chip.storeRes_of_not_frozen k v hreg, hfold]
  generalize k.flds.foldl (StoreRes.take v) _ = r at hquiet ⊢
  obtain ⟨reads, acts, misuse⟩ := r
  obtain rfl : misuse = false := hquiet
  simp [hcov]

/-- What a store leaves at its register, unless that is where the block shows MISUSE. -/
theorem Chip.reg_storeReg_self {c : Chip} {k : Card} {a : Nat} (port : Nat) (v : Word) (hk : cardOf a = some k)
    (hm : (misuseAt a).map (·.1) ≠ some a) : (c.storeReg port a v).reg a = (c.storeRes k port a v).reads := by
  have hown : a ∉ ((misuseAt a).map (·.1)).toList := fun h => hm (Option.mem_toList.1 h)
  simp only [Chip.storeReg, hk, Chip.storeCard]
  split
  · rw [((Chip.misuse_touch _ a).kept a hown).1, Chip.reg_setRegAct_self]
  · rw [Chip.reg_setRegAct_self]

/-- A store whose result is MISUSE sets the bit of its block. -/
theorem Chip.bit_storeReg_misuse {c : Chip} {k : Card} {port a r b : Nat} {v : Word} (hk : cardOf a = some k)
    (hm : misuseAt a = some (r, b)) (h : (c.storeRes k port a v).misuse = true) :
    Machine.bit ((c.storeReg port a v).reg r) b = true := by
  simp only [Chip.storeReg, hk, Chip.storeCard, h, if_true]
  exact Chip.bit_misuse _ hm

/-- A store whose result is not MISUSE touches its register alone. -/
theorem Chip.touch_storeReg {c : Chip} {k : Card} {port a : Nat} {v : Word} (hk : cardOf a = some k)
    (h : (c.storeRes k port a v).misuse = false) : Touch (· = a) c (c.storeReg port a v) := by
  simp only [Chip.storeReg, hk, Chip.storeCard, h, Bool.false_eq_true, if_false]
  exact (Touch.refl _ c).setRegAct _ _ rfl

/-- Each bit of [lo+w-1 : lo] of a card lies in a field, and every such field is kept from `port`. -/
def Chip.Withholds (c : Chip) (k : Card) (port a lo w : Nat) : Prop :=
  ∀ i, lo ≤ i → i < lo + w → (∃ f ∈ k.flds, f.covers i) ∧ ∀ f ∈ k.flds, f.covers i → c.refusesFld port a f = true

/-- A store that would change bits withheld from its initiator leaves them, and sets MISUSE (R792). -/
theorem Chip.storeReg_of_withholds {c : Chip} {k : Card} {port a lo w r b : Nat} {v : Word} (hk : cardOf a = some k)
    (hm : misuseAt a = some (r, b)) (hr : r ≠ a) (h : c.Withholds k port a lo w) (hne : Machine.fld v lo w ≠ Machine.fld (c.reg a) lo w) :
    Machine.fld ((c.storeReg port a v).reg a) lo w = Machine.fld (c.reg a) lo w ∧ Machine.bit ((c.storeReg port a v).reg r) b = true := by
  constructor
  · rw [Chip.reg_storeReg_self port v hk (by simp [hm, hr])]
    exact fld_congr fun i hi => Chip.bit_storeRes v (h _ (Nat.le_add_right ..) (Nat.add_lt_add_left hi _)).2
  · obtain ⟨i, hi, hbit⟩ := exists_bit_ne_of_fld_ne hne
    obtain ⟨hin, href⟩ := h _ (Nat.le_add_right lo i) (Nat.add_lt_add_left hi _)
    exact Chip.bit_storeReg_misuse hk hm (Chip.storeRes_misuse hin href hbit)

/-- A register store that passes the checks of R796 is carried out, and answered without a bus error. -/
theorem Chip.store_of_canStore {c : Chip} {port a : Nat} (f : Chip → Chip) (h : c.canStore port a) :
    c.store port a f = f { c with bus := ⟨[], false⟩ } := by
  unfold Chip.canStore at h
  simp [Chip.store, h]

/-- No rule freezes a whole register of the clock and power block. -/
theorem Chip.frozenReg_sys (c : Chip) (port : Nat) {a : Nat} (h : a / 0x10000 = 0x4000) : c.frozenReg port a = false := by
  simp [Chip.frozenReg, h]

end Sys2Proof.Machine
end

section
/-! SUPPORT. Which registers the switching of the sense die's domains reaches: `Kept P c d` says that every register but those whose
address meets `P` reads, and acts, in `d` as in `c`. -/
namespace Sys2Proof.Machine

/-- Every register but those that meet `P` reads, and acts, as before. -/
def Kept (P : Nat → Prop) (c d : Chip) : Prop := ∀ a, ¬ P a → d.reg a = c.reg a ∧ d.act a = c.act a

namespace Kept

variable {P : Nat → Prop} {c d e : Chip}

theorem refl (P : Nat → Prop) (c : Chip) : Kept P c c := fun _ _ => ⟨rfl, rfl⟩

theorem trans (h : Kept P c d) (k : Kept P d e) : Kept P c e := fun a ha =>
  ⟨(k a ha).1.trans (h a ha).1, (k a ha).2.trans (h a ha).2⟩

/-- Where the registers are the same, whatever else differs. -/
theorem same (h : Kept P c d) (hr : e.regs = d.regs) (ha : e.acts = d.acts) : Kept P c e := fun a hp => by
  rw [← (h a hp).1, ← (h a hp).2]
  simp only [Chip.reg, Chip.act, hr, ha, and_self]

theorem touch (h : Kept P c d) (k : Touch P d e) : Kept P c e := h.trans k.kept

theorem ite {p : Prop} [Decidable p] (h : Kept P c d) (k : Kept P c e) : Kept P c (if p then d else e) := by
  split
  · exact h
  · exact k

/-- A domain switched on, switched off if it was on, or left. -/
theorem switch {on off : Chip} {p q : Prop} [Decidable p] [Decidable q] (h : Kept P c d) (hon : Kept P d on) (hoff : Kept P d off) :
    Kept P c (if p then on else if q then off else d) :=
  ite (h.trans hon) (ite (h.trans hoff) h)

theorem foldl {α : Type} {f : Chip → α → Chip} {l : List α} (h : Kept P c d) (hf : ∀ e x, Kept P e (f e x)) : Kept P c (l.foldl f d) := by
  induction l generalizing d with
  | nil => exact h
  | cons x r ih => exact ih (h.trans (hf d x))

theorem setReg {a : Nat} (h : Kept P c d) (v : Word) (ha : P a) : Kept P c (d.setReg a v) := h.touch ((Touch.refl P d).setReg v ha)

theorem setFld {a : Nat} (h : Kept P c d) (lo w x : Nat) (ha : P a) : Kept P c (d.setFld a lo w x) :=
  h.touch ((Touch.refl P d).setFld lo w x ha)

theorem setBit {a : Nat} (h : Kept P c d) (i : Nat) (b : Bool) (ha : P a) : Kept P c (d.setBit a i b) := h.setFld i 1 _ ha

end Kept

/-- The registers that switching sense-die domains may reach: of the clock and power block, those of the domain status alone. -/
def isDomOrSense (a : Nat) : Prop := a = 0x40000034 ∨ a = 0x40000038 ∨ 0x40010000 ≤ a

theorem isDomOrSense_seqReg (n o : Nat) : isDomOrSense (seqReg n o) := .inr (.inr (by unfold seqReg; omega))

section
variable {c d : Chip}

theorem Kept.setDom (h : Kept isDomOrSense c d) (i : Nat) (b : Bool) : Kept isDomOrSense c (d.setDom i b) :=
  .ite (h.setBit _ _ (.inl rfl)) (h.setBit _ _ (.inr (.inl rfl)))

theorem Kept.setDoms (h : Kept isDomOrSense c d) (is : List Nat) (b : Bool) : Kept isDomOrSense c (d.setDoms is b) :=
  h.foldl fun e i => (Kept.refl _ e).setDom i b

/-! ### Sequencers -/

theorem Kept.onSeq (h : Kept isDomOrSense c d) (n : Nat) (f : Seq → Seq) : Kept isDomOrSense c (d.onSeq n f) := h.same rfl rfl

theorem Kept.seqShow (h : Kept isDomOrSense c d) (n : Nat) : Kept isDomOrSense c (d.seqShow n) := h.setReg _ (isDomOrSense_seqReg n 4)

theorem Kept.balDrive (h : Kept isDomOrSense c d) : Kept isDomOrSense c d.balDrive := h.same rfl rfl

theorem Kept.beginBead (h : Kept isDomOrSense c d) (n bead : Nat) (pend : Bool) (t : Nat) :
    Kept isDomOrSense c (d.beginBead n bead pend t) := ((h.onSeq n _).seqShow n).balDrive

theorem Kept.arriveBead (h : Kept isDomOrSense c d) (n bead : Nat) : Kept isDomOrSense c (d.arriveBead n bead) :=
  .ite (h.beginBead n bead false _) ((h.onSeq n _).seqShow n)

theorem Kept.seqStop (h : Kept isDomOrSense c d) (n : Nat) (lose : Bool) : Kept isDomOrSense c (d.seqStop n lose) :=
  (((h.onSeq n _).setBit 0 false (isDomOrSense_seqReg n 0)).seqShow n).balDrive

/-! ### The calibration -/

theorem Kept.calStat (h : Kept isDomOrSense c d) (phase code : Nat) : Kept isDomOrSense c (d.calStat phase code) :=
  h.setFld _ _ _ (.inr (.inr (by decide)))

theorem Kept.calReach (h : Kept isDomOrSense c d) (k : Nat) : Kept isDomOrSense c (d.calReach k) := by
  induction k generalizing d with
  | zero => exact h
  | succ k ih =>
    unfold Chip.calReach
    split
    · split
      · exact ih (Kept.calStat (h.same rfl rfl) _ 5)
      · refine Kept.setBit (.ite (.ite ?_ ?_) ?_) _ _ (.inr (.inr (by decide)))
        · exact (h.calStat _ 1).calStat 4 1
        · exact Kept.calStat ((h.calStat _ 1).same rfl rfl) 4 5
        · exact h.calStat _ 1
    · exact h.setBit _ _ (.inr (.inr (by decide)))

theorem Kept.calNext (h : Kept isDomOrSense c d) : Kept isDomOrSense c d.calNext := .ite (h.calReach 6) h

theorem Kept.tdacDrive (h : Kept isDomOrSense c d) : Kept isDomOrSense c d.tdacDrive := h.same rfl rfl

theorem Kept.calPhase (h : Kept isDomOrSense c d) (phase code : Nat) : Kept isDomOrSense c (d.calPhase phase code) := by
  refine Kept.tdacDrive (Kept.calNext (Kept.calStat ?_ phase code))
  exact h.same rfl rfl

theorem Kept.calPowerLost (h : Kept isDomOrSense c d) : Kept isDomOrSense c d.calPowerLost := by
  unfold Chip.calPowerLost
  split
  · exact h
  · split
    · have h3 : Kept isDomOrSense c (if d.calPowered 3 then d else d.calPhase 3 5) := .ite h (h.calPhase 3 5)
      exact .ite h3 (h3.calPhase 4 5)
    · exact .ite h (h.calPhase _ 5)
    · exact h

/-! ### Domains -/

theorem Kept.pairOn (h : Kept isDomOrSense c d) (n : Nat) : Kept isDomOrSense c (d.pairOn n) :=
  have hup := (h.setDoms [54 + 2 * n, 55 + 2 * n] true).onSeq n _
  .ite (hup.arriveBead n 0) hup

theorem Kept.pairOff (h : Kept isDomOrSense c d) (n : Nat) : Kept isDomOrSense c (d.pairOff n) :=
  have hdown := (h.setDoms [54 + 2 * n, 55 + 2 * n] false).calPowerLost
  .ite (hdown.setBit 0 false (isDomOrSense_seqReg n 0)) (hdown.seqStop n true)

theorem Kept.gatesLow (h : Kept isDomOrSense c d) : Kept isDomOrSense c d.gatesLow :=
  Kept.setBit (h.same rfl rfl) _ _ (.inr (.inr (by decide)))

theorem Kept.setRefA (h : Kept isDomOrSense c d) (b : Bool) : Kept isDomOrSense c (d.setRefA b) := by
  unfold Chip.setRefA
  refine Kept.setBit ?_ _ _ (.inr (.inr (by decide)))
  split
  · exact h.same rfl rfl
  · exact h.same rfl rfl

theorem Kept.setRefB (h : Kept isDomOrSense c d) (b : Bool) : Kept isDomOrSense c (d.setRefB b) := by
  unfold Chip.setRefB
  refine Kept.setBit ?_ _ _ (.inr (.inr (by decide)))
  split
  · exact h.same rfl rfl
  · exact h.same rfl rfl

theorem Kept.balLive (h : Kept isDomOrSense c d) : Kept isDomOrSense c d.balLive := h.setBit _ _ (.inr (.inr (by decide)))

/-- What PWR_SD switches reaches no other register of the clock and power block than the domain status. -/
theorem Chip.applySd_kept (c : Chip) : Kept isDomOrSense c c.applySd := by
  refine Kept.tdacDrive (Kept.balLive (Kept.switch (Kept.setDom (Kept.switch (Kept.switch ?_ ?_ ?_) ?_ ?_) 58 _) ?_ ?_))
  · exact (Kept.refl _ c).foldl fun e n => .ite (.refl _ e) (.ite ((Kept.refl _ e).pairOn n) ((Kept.refl _ e).pairOff n))
  · exact (Kept.refl _ _).setDom 61 true
  · exact ((Kept.refl _ _).setDom 61 false).gatesLow
  · exact (Kept.refl _ _).setDom 59 true
  · exact (((Kept.refl _ _).setDom 59 false).setRefA false).tdacDrive
  · exact (Kept.refl _ _).setDom 60 true
  · exact ((Kept.refl _ _).setDom 60 false).setRefB false

end

end Sys2Proof.Machine
end

section
/-! PROOFS. Chapter 02: the stores of PWR_SD and CLK_ADC, and accesses to SRAM groups that are off. -/
namespace Sys2Proof.Machine

/-! ### PWR_SD -/

/-- The card of PWR_SD. -/
def pwrSdCard : Card := reg1 "PWR_SD" 0x4000002C [rw 0 1, rw 1 1, rw 2 1, bel 3 1, bel 4 1, bel 5 1] true

theorem cardOf_pwrSd : cardOf 0x4000002C = some pwrSdCard := rfl

/-- R58: PWR_SD[5:3] are withheld from every initiator but Belfry. -/
theorem Chip.withholds_pwrSd (c : Chip) {port : Nat} (h : port ≠ 40) : c.Withholds pwrSdCard port 0x4000002C 3 3 := by
  have hown : ∀ i < 6, 3 ≤ i → Machine.bel i 1 ∈ pwrSdCard.flds := by decide
  have hbel : ∀ f ∈ pwrSdCard.flds, 3 < f.lo + f.w → f.acc = .bel := by decide
  intro i hlo hi
  refine ⟨⟨Machine.bel i 1, hown i hi hlo, Nat.le_refl i, Nat.lt_succ_self i⟩, fun f hf hfi => ?_⟩
  simp [Chip.refusesFld, hbel f hf (Nat.lt_of_le_of_lt hlo hfi.2), h]

/-- What a PWR_SD store leaves that passes the fabric. -/
theorem execPwrSdWrite_of_canStore {port : Nat} {s : State} (v : Word) (h : s.chip.canStore port 0x4000002C) :
    execPwrSdWrite port v s =
      .next { s with chip := (Chip.storeReg { s.chip with bus := ⟨[], false⟩ } port 0x4000002C v).applySd } := by
  rw [execPwrSdWrite, State.onChip_eq, Chip.store_of_canStore _ h]

/-- Settles O9: the store leaves the withheld fields and sets MISUSE, and switching the domains reaches neither register. -/
theorem belfryFieldsIgnoreOtherInitiators : Obligations.BelfryFieldsIgnoreOtherInitiators := by
  unfold Obligations.BelfryFieldsIgnoreOtherInitiators
  intro port v s hport hcan hne
  have hother : port ≠ 40 := by omega
  obtain ⟨hkept, hmisuse⟩ := Chip.storeReg_of_withholds (c := { s.chip with bus := ⟨[], false⟩ }) cardOf_pwrSd rfl (by decide)
    (Chip.withholds_pwrSd _ hother) hne
  refine ⟨_, execPwrSdWrite_of_canStore v hcan, ?_, ?_⟩
  · rw [(Chip.applySd_kept _ 0x4000002C (by simp [isDomOrSense])).1]
    exact hkept
  · rw [(Chip.applySd_kept _ 0x40000004 (by simp [isDomOrSense])).1]
    exact hmisuse

/-! ### CLK_ADC -/

/-- The divider of pair `n`, a field of CLK_ADC. -/
def divFld (n : Nat) : Fld := rw (16 * n) 10 16 [(16, 640)]

/-- The card of CLK_ADC. -/
def clkAdcCard : Card := reg1 "CLK_ADC" 0x40000104 ((List.range 2).map divFld) true

theorem cardOf_clkAdc : cardOf 0x40000104 = some clkAdcCard := rfl

theorem mem_clkAdc_flds {f : Fld} : f ∈ clkAdcCard.flds ↔ ∃ n < 2, f = divFld n := by
  simp [clkAdcCard, reg1, eq_comm]

/-- R82: the divider of pair `n` is frozen just while sequencer `n` is not stopped. -/
theorem Chip.frozenFld_clkAdc (c : Chip) (n : Nat) : c.frozenFld 0x40000104 (16 * n) = decide ((c.seq n).phase ≠ .stopped) := by
  unfold Chip.seq
  by_cases h : (nth c.sense.seqs n Seq.fresh).phase = .stopped <;> simp [Chip.frozenFld, vringAt, h]

/-- While sequencer `n` runs, its pair's divider is withheld from every initiator. -/
theorem Chip.withholds_clkAdc {c : Chip} {n : Nat} (port : Nat) (hn : n < 2) (h : (c.seq n).phase ≠ .stopped) :
    c.Withholds clkAdcCard port 0x40000104 (16 * n) 10 := by
  intro i hlo hi
  refine ⟨⟨divFld n, mem_clkAdc_flds.2 ⟨n, hn, rfl⟩, hlo, hi⟩, fun f hf hfi => ?_⟩
  obtain ⟨m, -, rfl⟩ := mem_clkAdc_flds.1 hf
  have hmn : m = n := by
    simp only [Fld.covers, divFld, rw] at hfi
    omega
  exact hmn ▸ (c.frozenFld_clkAdc n).trans (decide_eq_true h)

/-- A divider of 16 to 640 is taken while its sequencer is stopped. -/
theorem Chip.takesFld_clkAdc {c : Chip} {v : Word} {n : Nat} (h : (c.seq n).phase = .stopped)
    (hdiv : 16 ≤ Machine.fld v (16 * n) 10 ∧ Machine.fld v (16 * n) 10 ≤ 640) : c.TakesFld 0x40000104 v (divFld n) where
  acc := rfl
  free := (c.frozenFld_clkAdc n).trans (decide_eq_false (not_not_intro h))
  value := by simp [Chip.refusedValue]
  defined := by simp [Fld.defined, divFld, rw, hdiv]
  here := by simp [Chip.reservedHere]

/-- CLK_ADC's reserved bits are [15:10] and [31:26] (R10). -/
theorem and_not_cover_clkAdc {v : Word} (h0 : fld v 10 6 = 0) (h1 : fld v 26 6 = 0) : v &&& ~~~ clkAdcCard.cover = 0 := by
  rw [show ~~~ clkAdcCard.cover = fldMask 10 6 ||| fldMask 26 6 by decide, BitVec.and_or_distrib_left, and_fldMask_eq_zero h0,
    and_fldMask_eq_zero h1, BitVec.or_self]

/-- Both dividers taken, each reads what was stored. -/
theorem fld_take_clkAdc (v : Word) (r : StoreRes) {n : Nat} (hn : n < 2) :
    fld (clkAdcCard.flds.foldl (StoreRes.take v) r).reads (16 * n) 10 = fld v (16 * n) 10 := by
  show fld (putFld (putFld r.reads 0 10 (fld v 0 10)) 16 10 (fld v 16 10)) (16 * n) 10 = _
  obtain rfl | rfl : n = 0 ∨ n = 1 := by omega
  · rw [fld_putFld_other _ _ (.inr (by decide)), fld_putFld_self _ _ (by decide), Nat.mod_eq_of_lt (fld_lt v 0 10)]
  · rw [fld_putFld_self _ _ (by decide), Nat.mod_eq_of_lt (fld_lt v 16 10)]

/-- What a CLK_ADC store leaves that passes the fabric. -/
theorem execClkAdcWrite_of_canStore {port : Nat} {s : State} (v : Word) (h : s.chip.canStore port 0x40000104) :
    execClkAdcWrite port v s = .next { s with chip := Chip.storeReg { s.chip with bus := ⟨[], false⟩ } port 0x40000104 v } := by
  rw [execClkAdcWrite, State.onChip_eq, Chip.store_of_canStore _ h]

/-- Settles O10: a running pair's divider is withheld; with both sequencers stopped the store is taken whole. -/
theorem runningPairKeepsItsDivider : Obligations.RunningPairKeepsItsDivider := by
  unfold Obligations.RunningPairKeepsItsDivider
  intro port v s hcan
  have hexec := execClkAdcWrite_of_canStore v hcan
  constructor
  · intro n hn hrun hne
    exact ⟨_, hexec, Chip.storeReg_of_withholds cardOf_clkAdc rfl (by decide)
      (Chip.withholds_clkAdc (c := { s.chip with bus := ⟨[], false⟩ }) port hn hrun) hne⟩
  · intro h0 h1 hdiv hr0 hr1
    have htakes : ∀ f ∈ clkAdcCard.flds, Chip.TakesFld { s.chip with bus := ⟨[], false⟩ } 0x40000104 v f := by
      intro f hf
      obtain ⟨n, hn, rfl⟩ := mem_clkAdc_flds.1 hf
      have hstop : (s.chip.seq n).phase = .stopped := by
        obtain rfl | rfl : n = 0 ∨ n = 1 := by omega
        · exact h0
        · exact h1
      exact Chip.takesFld_clkAdc hstop (hdiv n hn)
    have hres := Chip.storeRes_of_takes port (Chip.frozenReg_sys _ port rfl) htakes (and_not_cover_clkAdc hr0 hr1)
    have hquiet := (congrArg StoreRes.misuse hres).trans rfl
    refine ⟨_, hexec, ⟨rfl, rfl, rfl, rfl⟩, fun n hn => ?_, fun a ha => ?_⟩
    · rw [Chip.reg_storeReg_self port v cardOf_clkAdc (by decide), hres, fld_take_clkAdc v _ hn]
    · exact (Chip.touch_storeReg cardOf_clkAdc hquiet).kept a (by simpa using ha)

/-! ### SRAM groups that are off -/

/-- R62 is the last check of an access to shared SRAM: permitted every line, it fails there where a line's group is off. -/
theorem Chip.gate_groupOff (c : Chip) (port cls : Nat) {a n : Nat} (wr : Bool) (ha : a < 0x800000 ∨ (0x08000000 ≤ a ∧ a < 0x08800000))
    (hn : inArea a n = true) (hl : ∀ l ∈ linesOf a n, c.lineRefused port cls l wr = none)
    (hoff : ∃ l ∈ linesOf a n, nth c.power.grp (grpOf l) .off = .off) : c.gate port cls a n wr = .groupOff := by
  have hreg : isReg a = false := by simp only [isReg, decide_eq_false_iff_not]; omega
  have hbel : belfryOnly a n wr = false := by
    simp only [belfryOnly, Bool.and_eq_false_iff, decide_eq_false_iff_not]; omega
  have hpart : ((linesOf a n).findSome? fun l => (c.lineRefused port cls l wr).map fun r => (r, l)) = none :=
    List.findSome?_eq_none_iff.2 fun l h => by rw [hl l h]; rfl
  have hsram : (decide (a < 0x800000) || decide (0x08000000 ≤ a ∧ a < 0x08800000)) = true := by simpa using ha
  have hany : ((linesOf a n).any fun l => decide (nth c.power.grp (grpOf l) .off = GrpState.off)) = true := by simpa using hoff
  simp only [Chip.gate, hn, hreg, hbel, hpart, hsram, hany, Bool.not_true, Bool.false_and, Bool.and_self, Bool.false_eq_true, and_false,
    if_false, if_true]

/-- Settles O24: R62's check fails the access, and its failure sets PWR_STATUS.MISUSE and answers a bus error. -/
theorem accessesToOffGroupsAreNotPerformed : Obligations.AccessesToOffGroupsAreNotPerformed := by
  unfold Obligations.AccessesToOffGroupsAreNotPerformed
  intro x s hp ha hn hl hoff
  obtain ⟨e, hexec⟩ := execFabricAccess_of_gate x s hp (s.chip.gate_groupOff _ _ _ ha hn hl hoff) (by decide)
  refine ⟨_, hexec, s.keeps_of_touch e _ (Chip.misuse_touch _ 0x40000000), rfl, fun hk => ?_, Chip.bit_misuse (a := 0x40000000) _ rfl⟩
  simp [hk, Chip.busError]

end Sys2Proof.Machine
end

section
/-! SUPPORT. Register stores: what the block acts on after a field has been taken. -/
namespace Sys2Proof.Machine

/-- A store that takes a field makes the block act on the bits stored. -/
theorem Chip.bit_acts_storeFld_of_takes {c : Chip} {port a i : Nat} {v : Word} {f : Fld} (r : StoreRes) (h : c.TakesFld a v f)
    (hf : f.covers i) (hi : i < 32) : Machine.bit (c.storeFld port a v r f).acts i = Machine.bit v i := by
  obtain ⟨hlo, hhi⟩ := hf
  rw [Chip.storeFld_of_takes port r h]
  simp [StoreRes.take, bit_putFld, testBit_fld, hlo, hhi, hi, show i - f.lo < f.w by omega]

/-- A store to one field leaves what the block acts on outside it. -/
theorem Chip.bit_acts_storeFld_other {c : Chip} {port a i : Nat} {v : Word} {f : Fld} (r : StoreRes) (h : ¬ f.covers i) :
    Machine.bit (c.storeFld port a v r f).acts i = Machine.bit r.acts i := by
  unfold Fld.covers at h
  have hput (x : Nat) : Machine.bit (putFld r.acts f.lo f.w x) i = Machine.bit r.acts i := by rw [bit_putFld, if_neg (by omega)]
  unfold Chip.storeFld
  dsimp only
  cases f.acc
  case ro => rfl
  case w1c => exact bit_clear_other _ _ h
  case rw | rl | bel | wo => grind

/-- A bit that the block acts on as stored stays so over fields that are taken or lie elsewhere. -/
theorem Chip.bit_acts_foldl_storeFld {c : Chip} {port a i : Nat} {v : Word} (hi : i < 32) {l : List Fld} {r : StoreRes}
    (h : ∀ f ∈ l, f.covers i → c.TakesFld a v f) (hr : Machine.bit r.acts i = Machine.bit v i) :
    Machine.bit (l.foldl (c.storeFld port a v) r).acts i = Machine.bit v i := by
  induction l generalizing r with
  | nil => exact hr
  | cons f l ih =>
    refine ih (fun g hg => h g (List.mem_cons_of_mem _ hg)) ?_
    by_cases hf : f.covers i
    · exact Chip.bit_acts_storeFld_of_takes r (h f List.mem_cons_self hf) hf hi
    · rw [Chip.bit_acts_storeFld_other r hf, hr]

/-- The block acts on a stored bit that lies in a field, where every such field is taken. -/
theorem Chip.bit_acts_foldl_storeFld_of_takes {c : Chip} {port a i : Nat} {v : Word} (hi : i < 32) {l : List Fld} {r : StoreRes}
    (hin : ∃ f ∈ l, f.covers i) (h : ∀ f ∈ l, f.covers i → c.TakesFld a v f) :
    Machine.bit (l.foldl (c.storeFld port a v) r).acts i = Machine.bit v i := by
  induction l generalizing r with
  | nil => simp at hin
  | cons f l ih =>
    have hl : ∀ g ∈ l, g.covers i → c.TakesFld a v g := fun g hg => h g (List.mem_cons_of_mem _ hg)
    by_cases hf : f.covers i
    · rw [List.foldl_cons]
      exact Chip.bit_acts_foldl_storeFld hi hl (Chip.bit_acts_storeFld_of_takes r (h f List.mem_cons_self hf) hf hi)
    · have hin : ∃ f ∈ l, f.covers i := by simpa [hf] using hin
      exact ih hin hl

/-- A store touches its register, and the one where its block shows MISUSE. -/
theorem Chip.storeReg_touch (c : Chip) (port a : Nat) (v : Word) :
    Touch (fun r => r = a ∨ r ∈ ((misuseAt a).map (·.1)).toList) c (c.storeReg port a v) := by
  unfold Chip.storeReg Chip.storeCard
  have hset (r e : Word) : Touch (fun r => r = a ∨ r ∈ ((misuseAt a).map (·.1)).toList) c (c.setRegAct a r e) :=
    (Touch.refl _ c).setRegAct r e (.inl rfl)
  split
  · exact .ite ((hset _ _).trans ((Chip.misuse_touch _ a).mono fun r => .inr)) (hset _ _)
  · exact Touch.refl _ c

/-- What a store leaves its block to act on, unless that register is where the block shows MISUSE. -/
theorem Chip.act_storeReg_self {c : Chip} {k : Card} {a : Nat} (port : Nat) (v : Word) (hk : cardOf a = some k)
    (hm : (misuseAt a).map (·.1) ≠ some a) : (c.storeReg port a v).act a = (c.storeRes k port a v).acts := by
  have hown : a ∉ ((misuseAt a).map (·.1)).toList := fun h => hm (Option.mem_toList.1 h)
  simp only [Chip.storeReg, hk, Chip.storeCard]
  split
  · rw [((Chip.misuse_touch _ a).kept a hown).2, Chip.act_setRegAct_self]
  · rw [Chip.act_setRegAct_self]

/-- After a store a block acts on the bits of the fields it has taken. -/
theorem Chip.bit_act_storeReg_of_takes {c : Chip} {k : Card} {port a i : Nat} {v : Word} (hk : cardOf a = some k)
    (hm : (misuseAt a).map (·.1) ≠ some a) (hreg : c.frozenReg port a = false) (hi : i < 32) (hin : ∃ f ∈ k.flds, f.covers i)
    (h : ∀ f ∈ k.flds, f.covers i → c.TakesFld a v f) : Machine.bit ((c.storeReg port a v).act a) i = Machine.bit v i := by
  rw [Chip.act_storeReg_self port v hk hm, Chip.storeRes_of_not_frozen k v hreg]
  exact Chip.bit_acts_foldl_storeFld_of_takes hi hin h

/-- A register read that passes the checks of R796 is carried out. -/
theorem Chip.load_of_canLoad {c : Chip} {port a : Nat} (f : Chip → Chip) (h : c.canLoad port a) : c.load port a f = f c := by
  unfold Chip.canLoad at h
  simp [Chip.load, h]

end Sys2Proof.Machine
end

section
/-! SUPPORT. Converter pairs and their sequencers: which operations of the sense die leave pair `n`'s power, its sequencer and its RUN
bit as they are, and what switching the pair off leaves of them (R221). -/
namespace Sys2Proof.Machine

/-! ### One sequencer changed -/

/-- The sequencer changed. -/
theorem Chip.seq_onSeq_self {c : Chip} {n : Nat} (f : Seq → Seq) (h : n < c.sense.seqs.length) : (c.onSeq n f).seq n = f (c.seq n) :=
  nth_upd_self f _ h

/-- The other one. -/
theorem Chip.seq_onSeq_other (c : Chip) {m n : Nat} (f : Seq → Seq) (h : m ≠ n) : (c.onSeq m f).seq n = c.seq n :=
  nth_upd_other _ f _ h

/-- Registers of two sequencers, or two of one sequencer, have different addresses. -/
theorem seqReg_ne {m n o p : Nat} (ho : o < 0x1000) (hp : p < 0x1000) (h : m ≠ n ∨ o ≠ p) : seqReg m o ≠ seqReg n p := by
  unfold seqReg
  omega

theorem lt_seqReg {a : Nat} (n o : Nat) (h : a < 0x40011000) : a ≠ seqReg n o := by
  unfold seqReg
  omega

/-! ### What leaves a pair and its sequencer -/

/-- Pair `n`'s power, its sequencer and its SEQn_CTL are in `d` as in `c`, and there are as many sequencers. -/
structure PairKept (n : Nat) (c d : Chip) : Prop where
  up : d.pairUp n = c.pairUp n
  seq : d.seq n = c.seq n
  ctl : d.reg (seqReg n 0) = c.reg (seqReg n 0)
  len : d.sense.seqs.length = c.sense.seqs.length

/-- PWR_DSTAT1 shows the pairs (Table 02-3). -/
theorem Chip.pairUp_eq (c : Chip) (n : Nat) : c.pairUp n = Machine.bit (c.reg 0x40000038) (54 + 2 * n - 32) :=
  if_neg (by omega)

namespace PairKept

variable {n : Nat} {c d e : Chip}

theorem refl (n : Nat) (c : Chip) : PairKept n c c := ⟨rfl, rfl, rfl, rfl⟩

theorem trans (h : PairKept n c d) (k : PairKept n d e) : PairKept n c e :=
  ⟨k.up.trans h.up, k.seq.trans h.seq, k.ctl.trans h.ctl, k.len.trans h.len⟩

/-- Where PWR_DSTAT1, SEQn_CTL and the sequencers are the same, whatever else differs. -/
theorem same (h : PairKept n c d) (hd : e.reg 0x40000038 = d.reg 0x40000038) (hr : e.reg (seqReg n 0) = d.reg (seqReg n 0))
    (hs : e.sense.seqs = d.sense.seqs) : PairKept n c e :=
  h.trans ⟨by simp only [Chip.pairUp_eq, hd], by simp only [Chip.seq, hs], hr, by rw [hs]⟩

theorem ite {p : Prop} [Decidable p] (h : PairKept n c d) (k : PairKept n c e) : PairKept n c (if p then d else e) := by
  split
  · exact h
  · exact k

/-- A domain switched on, switched off if it was on, or left. -/
theorem switch {on off : Chip} {p q : Prop} [Decidable p] [Decidable q] (h : PairKept n c d) (hon : PairKept n d on)
    (hoff : PairKept n d off) : PairKept n c (if p then on else if q then off else d) :=
  ite (h.trans hon) (ite (h.trans hoff) h)

theorem touch {P : Nat → Prop} (h : PairKept n c d) (k : Touch P d e) (hd : ¬ P 0x40000038) (hn : ¬ P (seqReg n 0)) : PairKept n c e :=
  h.same (k.kept _ hd).1 (k.kept _ hn).1 (by rw [k.rest])

theorem setReg {a : Nat} (h : PairKept n c d) (v : Word) (hd : a ≠ 0x40000038) (hn : a ≠ seqReg n 0) : PairKept n c (d.setReg a v) :=
  h.touch ((Touch.refl (· = a) d).setReg v rfl) hd.symm hn.symm

/-- Registers of the sense die below the sequencers' are no part of it. -/
theorem setFld {a : Nat} (h : PairKept n c d) (lo w x : Nat) (ha : 0x40010000 ≤ a ∧ a < 0x40011000) :
    PairKept n c (d.setFld a lo w x) :=
  h.touch ((Touch.refl (· = a) d).setFld lo w x rfl) (by omega) (lt_seqReg n 0 ha.2).symm

theorem setBit {a : Nat} (h : PairKept n c d) (i : Nat) (b : Bool) (ha : 0x40010000 ≤ a ∧ a < 0x40011000) :
    PairKept n c (d.setBit a i b) :=
  h.setFld i 1 _ ha

/-! ### Other domains -/

theorem setDom {i : Nat} (h : PairKept n c d) (b : Bool) (hi : i ≠ 54 + 2 * n) : PairKept n c (d.setDom i b) := by
  unfold Chip.setDom
  split
  · exact h.same (Chip.reg_setBit_other _ _ _ (by decide)) (Chip.reg_setBit_other _ _ _ (lt_seqReg n 0 (by decide))) rfl
  · refine h.trans ⟨?_, rfl, Chip.reg_setBit_other _ _ _ (lt_seqReg n 0 (by decide)), rfl⟩
    rw [Chip.pairUp_eq, Chip.pairUp_eq]
    exact Chip.bit_setBit_other _ _ _ (by omega)

theorem setDoms {is : List Nat} (h : PairKept n c d) (b : Bool) (hi : ∀ i ∈ is, i ≠ 54 + 2 * n) : PairKept n c (d.setDoms is b) := by
  unfold Chip.setDoms
  induction is generalizing d with
  | nil => exact h
  | cons i r ih => exact ih (h.setDom b (hi i List.mem_cons_self)) fun j hj => hi j (List.mem_cons_of_mem _ hj)

theorem tdacDrive (h : PairKept n c d) : PairKept n c d.tdacDrive := h.same rfl rfl rfl

theorem balDrive (h : PairKept n c d) : PairKept n c d.balDrive := h.same rfl rfl rfl

theorem balLive (h : PairKept n c d) : PairKept n c d.balLive := h.setBit _ _ (by decide)

theorem gatesLow (h : PairKept n c d) : PairKept n c d.gatesLow := by
  refine PairKept.setBit (a := 0x40010000) ?_ 4 false (by decide)
  exact h.same rfl rfl rfl

theorem setRefA (h : PairKept n c d) (b : Bool) : PairKept n c (d.setRefA b) := by
  unfold Chip.setRefA
  refine PairKept.setBit ?_ _ _ (by decide)
  split
  · exact h.same rfl rfl rfl
  · exact h.same rfl rfl rfl

theorem setRefB (h : PairKept n c d) (b : Bool) : PairKept n c (d.setRefB b) := by
  unfold Chip.setRefB
  refine PairKept.setBit ?_ _ _ (by decide)
  split
  · exact h.same rfl rfl rfl
  · exact h.same rfl rfl rfl

/-! ### The calibration -/

theorem calStat {p : Nat} (h : PairKept n c d) (code : Nat) : PairKept n c (d.calStat p code) := h.setFld _ _ _ (by decide)

theorem calReach (h : PairKept n c d) (k : Nat) : PairKept n c (d.calReach k) := by
  induction k generalizing d with
  | zero => exact h
  | succ k ih =>
    unfold Chip.calReach
    split
    · split
      · refine ih (PairKept.calStat ?_ 5)
        exact h.same rfl rfl rfl
      · refine PairKept.setBit (.ite (.ite ?_ ?_) ?_) _ _ (by decide)
        · exact (h.calStat 1).calStat 1
        · refine PairKept.calStat ?_ 5
          exact (h.calStat 1).same rfl rfl rfl
        · exact h.calStat 1
    · exact h.setBit _ _ (by decide)

theorem calNext (h : PairKept n c d) : PairKept n c d.calNext := .ite (h.calReach 6) h

theorem calPhase (h : PairKept n c d) (p code : Nat) : PairKept n c (d.calPhase p code) := by
  refine tdacDrive (calNext (calStat ?_ code))
  exact h.same rfl rfl rfl

/-- A phase of a calibration that ends for want of power stops no sequencer. -/
theorem calPowerLost (h : PairKept n c d) : PairKept n c d.calPowerLost := by
  unfold Chip.calPowerLost
  split
  · exact h
  · split
    · have h3 : PairKept n c (if d.calPowered 3 then d else d.calPhase 3 5) := .ite h (h.calPhase 3 5)
      exact .ite h3 (h3.calPhase 4 5)
    · exact .ite h (h.calPhase _ 5)
    · exact h

/-! ### The other pair -/

variable {m : Nat}

theorem onSeq (h : PairKept n c d) (f : Seq → Seq) (hm : m ≠ n) : PairKept n c (d.onSeq m f) :=
  h.trans ⟨rfl, d.seq_onSeq_other f hm, rfl, length_upd ..⟩

theorem seqShow (h : PairKept n c d) (m : Nat) : PairKept n c (d.seqShow m) :=
  h.setReg _ (by unfold seqReg; omega) (seqReg_ne (by decide) (by decide) (.inr (by decide)))

theorem clearRun (h : PairKept n c d) (hm : m ≠ n) : PairKept n c (d.setBit (seqReg m 0) 0 false) :=
  h.touch ((Touch.refl (· = seqReg m 0) d).setBit 0 false rfl) (by unfold seqReg; omega)
    (seqReg_ne (by decide) (by decide) (.inl hm.symm))

theorem beginBead (h : PairKept n c d) (bead : Nat) (pend : Bool) (t : Nat) (hm : m ≠ n) :
    PairKept n c (d.beginBead m bead pend t) := ((h.onSeq _ hm).seqShow m).balDrive

theorem arriveBead (h : PairKept n c d) (bead : Nat) (hm : m ≠ n) : PairKept n c (d.arriveBead m bead) :=
  .ite (h.beginBead bead false _ hm) ((h.onSeq _ hm).seqShow m)

theorem seqStop (h : PairKept n c d) (lose : Bool) (hm : m ≠ n) : PairKept n c (d.seqStop m lose) :=
  (((h.onSeq _ hm).clearRun hm).seqShow m).balDrive

theorem setPair (h : PairKept n c d) (b : Bool) (hm : m ≠ n) : PairKept n c (d.setDoms [54 + 2 * m, 55 + 2 * m] b) :=
  h.setDoms b fun i hi => by
    simp only [List.mem_cons, List.not_mem_nil, or_false] at hi
    omega

theorem pairOn (h : PairKept n c d) (hm : m ≠ n) : PairKept n c (d.pairOn m) :=
  have hup := (h.setPair true hm).onSeq _ hm
  .ite (hup.arriveBead 0 hm) hup

theorem pairOff (h : PairKept n c d) (hm : m ≠ n) : PairKept n c (d.pairOff m) :=
  have hdown := (h.setPair false hm).calPowerLost
  .ite (hdown.clearRun hm) (hdown.seqStop true hm)

end PairKept

/-! ### A pair switched off -/

/-- Sequencer `n` is stopped with RUN = 0 and no word in the converter pipeline. -/
structure Chip.SeqHalted (c : Chip) (n : Nat) : Prop where
  phase : (c.seq n).phase = .stopped
  run : Machine.bit (c.reg (seqReg n 0)) 0 = false
  runs : (c.seq n).runs = []

theorem PairKept.seqHalted {n : Nat} {c d : Chip} (h : PairKept n c d) (hc : c.SeqHalted n) : d.SeqHalted n :=
  ⟨h.seq ▸ hc.phase, h.ctl ▸ hc.run, h.seq ▸ hc.runs⟩

/-- R221: a stop that loses the words in the pipeline halts the sequencer. -/
theorem Chip.seqStop_seqHalted {c : Chip} {n : Nat} (h : n < c.sense.seqs.length) : (c.seqStop n true).SeqHalted n := by
  refine PairKept.seqHalted ((PairKept.refl n _).seqShow n).balDrive ⟨?_, Chip.bit_setBit_self _ _ false (by decide), ?_⟩
  · exact congrArg Seq.phase (c.seq_onSeq_self _ h)
  · exact congrArg Seq.runs (c.seq_onSeq_self _ h)

/-- Switching domains changes nothing but registers. -/
theorem Chip.sense_setDoms (c : Chip) (is : List Nat) (b : Bool) : (c.setDoms is b).sense = c.sense :=
  foldl_keeps Chip.sense (fun c i => c.setDom i b) is (fun c i => by unfold Chip.setDom; split <;> rfl) c

/-- R221: switching a pair off halts its running sequencer. -/
theorem Chip.pairOff_seqHalted {c : Chip} {n : Nat} (h : n < c.sense.seqs.length) (hrun : (c.seq n).phase ≠ .stopped) :
    (c.pairOff n).SeqHalted n := by
  have hlost := (PairKept.refl n (c.setDoms [54 + 2 * n, 55 + 2 * n] false)).calPowerLost
  have hsense := c.sense_setDoms [54 + 2 * n, 55 + 2 * n] false
  have hseq : (c.setDoms [54 + 2 * n, 55 + 2 * n] false).calPowerLost.seq n = c.seq n :=
    hlost.seq.trans (congrArg (fun x : Sense => nth x.seqs n Seq.fresh) hsense)
  unfold Chip.pairOff
  rw [if_neg (by rwa [hseq])]
  exact Chip.seqStop_seqHalted (by rwa [hlost.len, hsense])

/-! ### PWR_SD followed -/

/-- Pair `n` brought to its bit of PWR_SD, whose value acted on is `v` (R64, R221). -/
def Chip.followPair (v : Word) (c : Chip) (n : Nat) : Chip :=
  if Machine.bit v n = c.pairUp n then c else if Machine.bit v n then c.pairOn n else c.pairOff n

theorem PairKept.followPair {m n : Nat} {c d : Chip} (h : PairKept n c d) (v : Word) (hm : m ≠ n) : PairKept n c (d.followPair v m) :=
  .ite h (.ite (h.pairOn hm) (h.pairOff hm))

/-- Pair `n`, up with its bit of PWR_SD clear and its sequencer running, is switched off. -/
theorem Chip.followPair_seqHalted {v : Word} {c : Chip} {n : Nat} (h : n < c.sense.seqs.length) (hup : c.pairUp n = true)
    (hrun : (c.seq n).phase ≠ .stopped) (hv : Machine.bit v n = false) : (c.followPair v n).SeqHalted n := by
  rw [Chip.followPair, hup, hv, if_neg (by decide), if_neg (by decide)]
  exact Chip.pairOff_seqHalted h hrun

/-- Once PWR_SD has switched the pairs, its other domains leave them and their sequencers. -/
theorem Chip.applySd_pairKept (c : Chip) {n : Nat} (hn : n < 2) :
    PairKept n ((c.followPair (c.act 0x4000002C) 0).followPair (c.act 0x4000002C) 1) c.applySd := by
  have hdom {i : Nat} (d : Chip) (b : Bool) (hi : 58 ≤ i) : PairKept n d (d.setDom i b) := (PairKept.refl n d).setDom b (by omega)
  refine PairKept.tdacDrive (PairKept.balLive (PairKept.switch (PairKept.setDom (PairKept.switch (PairKept.switch (.refl n _) ?_ ?_) ?_ ?_)
    (i := 58) _ (by omega)) ?_ ?_))
  · exact hdom _ _ (by decide)
  · exact (hdom _ _ (by decide)).gatesLow
  · exact hdom _ _ (by decide)
  · exact ((hdom _ _ (by decide)).setRefA false).tdacDrive
  · exact hdom _ _ (by decide)
  · exact (hdom _ _ (by decide)).setRefB false

/-- R221: where PWR_SD's bit of a pair that is up reads 0, following it halts the pair's running sequencer. -/
theorem Chip.applySd_seqHalted {c : Chip} {n : Nat} (hn : n < 2) (hlen : c.sense.seqs.length = 2) (hup : c.pairUp n = true)
    (hrun : (c.seq n).phase ≠ .stopped) (hv : Machine.bit (c.act 0x4000002C) n = false) : c.applySd.SeqHalted n := by
  refine (c.applySd_pairKept hn).seqHalted ?_
  obtain rfl | rfl : n = 0 ∨ n = 1 := by omega
  · exact ((PairKept.refl 0 _).followPair _ (by decide)).seqHalted (Chip.followPair_seqHalted (hlen ▸ hn) hup hrun hv)
  · have h0 : PairKept 1 c (c.followPair (c.act 0x4000002C) 0) := (PairKept.refl 1 c).followPair _ (by decide)
    exact Chip.followPair_seqHalted (by rw [h0.len, hlen]; exact hn) (h0.up.trans hup) (by rwa [h0.seq]) hv

end Sys2Proof.Machine
end

section
/-! PROOFS. Chapter 06: a pair switched off while its sequencer runs, and the reads of the event FIFO. -/
namespace Sys2Proof.Machine

/-! ### A pair switched off -/

/-- A read-write bit of PWR_SD takes whatever a store has for it. -/
theorem Chip.takesFld_pwrSd (c : Chip) (v : Word) (n : Nat) : c.TakesFld 0x4000002C v (rw n 1) where
  acc := rfl
  free := by
    have hring : vringAt 0x4000002C = none := by decide
    simp [Chip.frozenFld, hring, rw]
  value := by simp [Chip.refusedValue]
  defined := rfl
  here := by simp [Chip.reservedHere]

/-- The block acts on the pairs' bits of PWR_SD as they are stored. -/
theorem Chip.bit_act_pwrSd (c : Chip) (port : Nat) (v : Word) {n : Nat} (hn : n < 2) :
    Machine.bit ((c.storeReg port 0x4000002C v).act 0x4000002C) n = Machine.bit v n := by
  have honly : ∀ n < 2, ∀ f ∈ pwrSdCard.flds, f.lo ≤ n → n < f.lo + f.w → f = rw n 1 := by decide
  have hown : ∀ n < 2, rw n 1 ∈ pwrSdCard.flds := by decide
  refine Chip.bit_act_storeReg_of_takes cardOf_pwrSd (by decide) (c.frozenReg_sys port rfl) (by omega)
    ⟨rw n 1, hown n hn, Nat.le_refl n, Nat.lt_succ_self n⟩ fun f hf hfn => ?_
  rw [honly n hn f hf hfn.1 hfn.2]
  exact c.takesFld_pwrSd v n

/-- Settles O13: the store clears the pair's bit and leaves its sequencer running; following PWR_SD then halts it. -/
theorem pairOffStopsItsSequencer : Obligations.PairOffStopsItsSequencer := by
  unfold Obligations.PairOffStopsItsSequencer
  intro port n v s hn hcan hlen hup hrun hv
  have hstore : PairKept n s.chip (Chip.storeReg { s.chip with bus := ⟨[], false⟩ } port 0x4000002C v) := by
    have hanswer : PairKept n s.chip { s.chip with bus := ⟨[], false⟩ } := (PairKept.refl n s.chip).same rfl rfl rfl
    refine hanswer.touch (Chip.storeReg_touch _ port 0x4000002C v) (by decide) ?_
    simp [misuseAt, (lt_seqReg n 0 (a := 0x4000002C) (by decide)).symm, (lt_seqReg n 0 (a := 0x40000004) (by decide)).symm]
  obtain ⟨hphase, hctl, hruns⟩ := Chip.applySd_seqHalted hn (hstore.len.trans hlen) (hstore.up.trans hup) (by rwa [hstore.seq])
    ((Chip.bit_act_pwrSd _ port v hn).trans hv)
  exact ⟨_, execPwrSdWrite_of_canStore v hcan, hphase, hctl, hruns⟩

/-! ### The event FIFO -/

/-- What a read of SEQn_EVT_LO leaves that passes the fabric. -/
theorem execEvtLoRead_of_canLoad {port n : Nat} {s : State} (hn : n < 2) (h : s.chip.canLoad port (seqReg n 0x30)) :
    execEvtLoRead port n s =
      .next { s with chip := (s.chip.evtLoad n).2.respond (leBytes 4 (s.chip.evtLoad n).1) } := by
  rw [execEvtLoRead, State.onChip_eq, if_neg (by omega), Chip.load_of_canLoad _ h]

/-- A read of the FIFO drops its oldest record. -/
theorem Chip.seq_evtLoad_self {c : Chip} {n : Nat} (h : n < c.sense.seqs.length) :
    (c.evtLoad n).2.seq n = { c.seq n with evt := (c.seq n).evt.drop 1 } :=
  c.seq_onSeq_self _ h

theorem Chip.seq_evtLoad_other (c : Chip) {m n : Nat} (h : m ≠ n) : (c.evtLoad m).2.seq n = c.seq n := c.seq_onSeq_other _ h

/-- SEQn_EVT_HI latches the upper half of the oldest record, or 0. -/
theorem Chip.reg_evtLoad_hi (c : Chip) (n : Nat) :
    (c.evtLoad n).2.reg (seqReg n 0x34) = BitVec.ofNat 32 ((c.seq n).evt.headD 0 / 2 ^ 32) :=
  Chip.reg_setReg_self ..

/-- Settles O20: the read answers and latches the two halves of the oldest record, or of 0, and drops it. -/
theorem eventReadRemovesAndLatches : Obligations.EventReadRemovesAndLatches := by
  unfold Obligations.EventReadRemovesAndLatches
  intro port n s hn hlen hcan
  have hself := Chip.seq_evtLoad_self (c := s.chip) (n := n) (by omega)
  have hhi := s.chip.reg_evtLoad_hi n
  refine ⟨_, execEvtLoRead_of_canLoad hn hcan, ⟨⟨rfl, rfl, rfl, rfl⟩, fun a ha => ?_, fun _ => rfl⟩,
    s.chip.seq_evtLoad_other (by omega), fun e r he => ?_, fun he => ?_⟩
  · have hne : seqReg n 0x34 ≠ a := fun h => ha (by simp [h])
    exact ⟨Chip.reg_setReg_other _ _ hne, Chip.act_setReg_other _ _ hne⟩
  · rw [he] at hself hhi
    refine ⟨hself, ?_, ?_⟩
    · simp [Chip.evtLoad, Chip.respond, he]
    · exact (congrArg BitVec.toNat hhi).trans (BitVec.toNat_ofNat ..)
  · rw [he] at hself hhi
    have hzero : (s.chip.evtLoad n).2.reg (seqReg n 0x34) = 0 := hhi
    refine ⟨hself.trans ?_, ?_, hzero, (congrArg (bit · 15) hzero).trans rfl⟩
    · rw [List.drop_nil, ← he]
    · simp [Chip.evtLoad, Chip.respond, he, leBytes]

end Sys2Proof.Machine
end

section
/-! SUPPORT. What a command may do besides changing the chip: `Edits s t` says that `t` comes from `s` by changes of the chip and by the
NVM's and the OTP's own operations, in the order in which the commands' meanings are built. An invariant of the NVM or the OTP has to be
proved for these operations alone. -/
namespace Sys2Proof.Machine

/-- ROLLBACK of both copies advanced by `k` bits (R148). -/
def State.otpAdvance (s : State) (k : Nat) : State :=
  let bits := advanceRollback (Nat.lor s.otpA.rollback s.otpB.rollback) k
  { s with otpA := { s.otpA with rollback := bits }, otpB := { s.otpB with rollback := bits } }

/-- One change: of the chip alone, of the NVM by a program or an erase, or of the OTP by a programmed word or an advanced ROLLBACK. -/
inductive Edit : State → State → Prop
  | chip {s t : State} (h : s.sameStores t) : Edit s t
  | put (s : State) (a : Nat) (d : List Byte) : Edit s (s.nvmPut a d)
  | erase (s : State) (a n : Nat) : Edit s (s.nvmErase a n)
  | program (s : State) (off data : Nat) : Edit s (s.otpProgram off data)
  | advance (s : State) (k : Nat) : Edit s (s.otpAdvance k)

/-- Changes one after another. -/
abbrev Edits : State → State → Prop := Relation.ReflTransGen Edit

/-- Every state the outcome can be comes from `s` by such changes. -/
structure EditsTo (s : State) (o : Host.Outcome State Fault Refusal) : Prop where
  edits : ∀ t, o = .next t → Edits s t

section
variable {s t u : State}

theorem Edits.same (h : Edits s t) (k : t.sameStores u) : Edits s u := h.tail (.chip k)

theorem Edits.chip (h : Edits s t) (c : Chip) : Edits s { t with chip := c } := h.same ⟨rfl, rfl, rfl, rfl⟩

theorem Edits.ite {p : Prop} [Decidable p] (h : Edits s t) (k : Edits s u) : Edits s (if p then t else u) := by
  split
  · exact h
  · exact k

/-- What is left of an operation that answers with a value. -/
theorem Edits.of_pair {α : Type} {p : α × State} {x : α} (h : Edits s p.2) (he : p = (x, u)) : Edits s u := by
  rw [he] at h
  exact h

theorem Edits.foldl {α : Type} {f : State → α → State} {l : List α} (h : Edits s t) (hf : ∀ e x, Edits e (f e x)) :
    Edits s (l.foldl f t) := by
  induction l generalizing t with
  | nil => exact h
  | cons x r ih => exact ih (h.trans (hf t x))

theorem EditsTo.next (h : Edits s t) : EditsTo s (.next t) := ⟨fun _ ht => Host.Outcome.next.inj ht ▸ h⟩

/-- A command that acts on the chip alone. -/
theorem EditsTo.chip {o : Host.Outcome State Fault Refusal} {c : Chip} (h : o = .next { s with chip := c }) : EditsTo s o :=
  h ▸ .next (.chip .refl c)

theorem EditsTo.ite {p : Prop} [Decidable p] {o q : Host.Outcome State Fault Refusal} (h : EditsTo s o) (k : EditsTo s q) :
    EditsTo s (if p then o else q) := by
  split
  · exact h
  · exact k

theorem Edits.store (h : Edits s t) (port a : Nat) {f : State → State} (hf : ∀ e, Edits e (f e)) : Edits s (t.store port a f) := by
  unfold State.store
  dsimp only
  split
  · exact (h.chip _).trans (hf _)
  · exact h.chip _

/-! ### The NVM -/

theorem Edits.nvmPut (h : Edits s t) (a : Nat) (d : List Byte) : Edits s (t.nvmPut a d) := h.tail (.put t a d)

theorem Edits.nvmErase (h : Edits s t) (a n : Nat) : Edits s (t.nvmErase a n) := h.tail (.erase t a n)

theorem Edits.nvmOpen (h : Edits s t) (a n : Nat) : Edits s (t.nvmOpen a n) := (h.chip _).nvmPut a _

theorem State.sameStores_slotsByAge (s : State) (slot : Nat → SlotAt) (store entry : Nat) :
    s.sameStores (s.slotsByAge slot store entry).2 := by
  unfold State.slotsByAge
  repeat' split
  all_goals exact ⟨rfl, rfl, rfl, rfl⟩

theorem Edits.slotsByAge (h : Edits s t) (slot : Nat → SlotAt) (store entry : Nat) : Edits s (t.slotsByAge slot store entry).2 :=
  h.same (t.sameStores_slotsByAge slot store entry)

theorem Edits.storeWrite (h : Edits s t) (slot : Nat → SlotAt) (store entry : Nat) (d : List Byte) :
    Edits s (t.storeWrite slot store entry d).2 :=
  (((h.slotsByAge slot store entry).nvmErase _ _).nvmPut _ _).nvmPut _ _

theorem Edits.xspiStore (h : Edits s t) (op : Nat) : Edits s (t.xspiStore op) := by
  unfold State.xspiStore
  dsimp only
  refine .ite (h.chip _) (.ite (h.chip _) (.ite (h.chip _) ?_))
  split
  · exact h.chip _
  · split
    · exact (h.chip _).nvmOpen _ _
    · exact h.chip _
  · exact (h.chip _).nvmOpen _ _

/-! ### Resets and the OTP -/

theorem Edits.sysReset (h : Edits s t) : Edits s t.sysReset := .ite h (h.chip _)

theorem Edits.wdtReset (h : Edits s t) (core : Nat) : Edits s (t.wdtReset core) := (h.chip _).sysReset

theorem Edits.otpProgram (h : Edits s t) (off data : Nat) : Edits s (t.otpProgram off data) := h.tail (.program t off data)

theorem Edits.otpAdvance (h : Edits s t) (k : Nat) : Edits s (t.otpAdvance k) := h.tail (.advance t k)

theorem Edits.revokeStore (h : Edits s t) (port : Nat) (v : Word) : Edits s (t.revokeStore port v) :=
  .ite (h.chip _) ((h.otpProgram _ _).chip _)

/-! ### The boot ROM -/

theorem Edits.bootCommit (h : Edits s t) (b : Nat) : Edits s (t.bootCommit b) := by
  unfold State.bootCommit
  dsimp only
  split
  · split
    · exact (h.nvmPut _ _).chip _
    · exact h
  · exact .ite (((h.chip _).otpAdvance _).chip _) (h.chip _)

theorem Edits.bootLoad (h : Edits s t) (b : Nat) (rest : List Nat) : Edits s (t.bootLoad b rest) := (h.bootCommit b).chip _

theorem Edits.bootTry (h : Edits s t) (bs : List Nat) : Edits s (t.bootTry bs) := by
  induction bs generalizing t with
  | nil => exact h.chip _
  | cons b rest ih =>
    unfold State.bootTry
    split
    · exact ih (h.chip _)
    · exact h.bootLoad b rest

theorem Edits.bootStart (h : Edits s t) (profile1 : Bool) : Edits s (t.bootStart profile1) :=
  (((h.chip _).slotsByAge imageSlot 1 0).chip _).bootTry _

theorem State.sameStores_loadSection (s : State) (slot : Nat) (ks : List Section) (k : Section) :
    s.sameStores (s.loadSection slot ks k).2 := by
  unfold State.loadSection
  dsimp only
  repeat' split
  all_goals exact ⟨rfl, rfl, rfl, rfl⟩

theorem Edits.loadSection (h : Edits s t) (slot : Nat) (ks : List Section) (k : Section) : Edits s (t.loadSection slot ks k).2 :=
  h.same (t.sameStores_loadSection slot ks k)

theorem Edits.loadAll (h : Edits s t) (ks l : List Section) : Edits s (t.loadAll ks l).2 := by
  induction l generalizing t with
  | nil => exact h
  | cons k r ih =>
    have hk := h.loadSection t.chip.boot.slot ks k
    unfold State.loadAll
    split
    · next he => exact ih (hk.of_pair he)
    · next he => exact hk.of_pair he

theorem Edits.imageLoad (h : Edits s t) (part : List (Nat × Word)) : Edits s (t.imageLoad part).2 := by
  have hl := h.loadAll t.sections t.sections
  unfold State.imageLoad
  dsimp only
  split
  · exact (h.chip _).bootTry _
  · split
    · next he => exact Edits.bootTry (.chip (hl.of_pair he) _) _
    · next he => exact .chip (hl.of_pair he) _

/-! ### Accesses -/

theorem Edits.storeAny (h : Edits s t) (port cls a : Nat) (v : Word) : Edits s (t.storeAny port cls a v) := by
  unfold State.storeAny
  dsimp only
  split
  case h_6 => exact .ite (.ite ((h.chip _).xspiStore _) (h.chip _)) (h.chip _)
  case h_8 => exact .ite (h.revokeStore port v) (h.chip _)
  all_goals exact h.chip _

theorem Edits.writeOpen (h : Edits s t) (port cls a : Nat) (d : List Byte) : Edits s (t.writeOpen port cls a d).2 := by
  unfold State.writeOpen
  split
  · exact h.foldl fun _ _ => .storeAny .refl ..
  · exact h.chip _

theorem Edits.busRead (h : Edits s t) (port cls a n srcId : Nat) : Edits s (t.busRead port cls a n srcId).2 := by
  unfold State.busRead
  split
  · split
    · exact h.chip _
    · exact h.chip _
  · exact h.chip _
  · exact h.chip _

theorem Edits.busWrite (h : Edits s t) (port cls a : Nat) (d : List Byte) (srcId : Nat) :
    Edits s (t.busWrite port cls a d srcId).2 := by
  have hw := h.writeOpen port cls a d
  unfold State.busWrite
  split
  · split
    · next he => exact hw.of_pair he
    · next he => exact hw.of_pair he
  · exact h.chip _
  · exact h.chip _

theorem Edits.performAccess (h : Edits s t) (x : Access) (cls : Nat) : Edits s (t.performAccess x cls) := by
  have hw := h.writeOpen x.port cls x.addr (padTo x.len x.data)
  unfold State.performAccess
  dsimp only
  split
  case h_2 =>
    split
    · next he => exact .chip (hw.of_pair he) _
    · next he => exact .chip (hw.of_pair he) _
  case h_5 => exact .ite (by split <;> exact h.chip _) (h.chip _)
  all_goals
    split
    · exact h.chip _
    · exact h.chip _

theorem Edits.access (h : Edits s t) (x : Access) : Edits s (t.access x) := by
  unfold State.access
  dsimp only
  split
  · exact .ite (h.chip _) (.ite (h.chip _) (h.performAccess ..))
  · exact h.chip _

theorem Edits.serveGrp (h : Edits s t) (g : Nat) : Edits s (t.serveGrp g) :=
  (h.chip _).foldl fun _ x => .performAccess .refl x _

/-! ### Firmware -/

theorem Edits.calRestore (h : Edits s t) : Edits s t.calRestore := by
  have hs := h.slotsByAge calSlot 2 0
  unfold State.calRestore
  generalize t.slotsByAge calSlot 2 0 = p at hs ⊢
  obtain ⟨age, t1⟩ := p
  dsimp only
  split
  · exact hs
  · exact .ite (hs.chip _) (hs.chip _)

theorem Edits.startCell (h : Edits s t) (k : SysConf) (volts : List Nat) (amps tap : Nat) :
    Edits s (t.startCell k volts amps tap) :=
  (h.slotsByAge (locketSlot tap) 3 tap).chip _

theorem Edits.seekLockets (h : Edits s t) (k : SysConf) (id : Nat) (old : Option Nat × Bool) : Edits s (t.seekLockets k id old) := by
  unfold State.seekLockets
  dsimp only
  split
  · exact h
  · exact h.chip _

end

end Sys2Proof.Machine
end

section
/-! SUPPORT. The works of the data movers, and the link's requests and responses, make no other changes. -/
namespace Sys2Proof.Machine

/-- A data mover's work that makes no other changes, wherever it ends. -/
structure DmeM.Plain {α : Type} (m : DmeM α) : Prop where
  edits : ∀ s, Edits s (m.run s).2

section
variable {α β : Type}

theorem DmeM.plain_pure (x : α) : DmeM.Plain (pure x : DmeM α) := ⟨fun _ => .refl⟩

theorem DmeM.plain_throw (r : OpRes) : DmeM.Plain (throw r : DmeM α) := ⟨fun _ => .refl⟩

theorem StateM.bind_apply {σ α β : Type} (m : StateM σ α) (f : α → StateM σ β) (s : σ) : (m >>= f) s = f (m s).1 (m s).2 := rfl

theorem DmeM.plain_bind {m : DmeM α} {f : α → DmeM β} (h : DmeM.Plain m) (k : ∀ x, DmeM.Plain (f x)) : DmeM.Plain (m >>= f) := by
  refine ⟨fun s => ?_⟩
  have hm := h.edits s
  rw [ExceptT.run_bind, StateM.bind_apply]
  cases (m.run s).1 with
  | ok x => exact hm.trans ((k x).edits _)
  | error r => exact hm

theorem DmeM.plain_tryCatch {m : DmeM α} {f : OpRes → DmeM α} (h : DmeM.Plain m) (k : ∀ r, DmeM.Plain (f r)) :
    DmeM.Plain (tryCatch m f) := by
  refine ⟨fun s => ?_⟩
  have hm := h.edits s
  rw [ExceptT.run_tryCatch, StateM.bind_apply]
  cases (m.run s).1 with
  | ok x => exact hm
  | error r => exact hm.trans ((k r).edits _)

theorem DmeM.plain_update {f : State → State} {k : State → DmeM α} (hf : ∀ s, Edits s (f s)) (hk : ∀ s, DmeM.Plain (k s)) :
    DmeM.Plain (do let s ← get; set (f s); k s) := ⟨fun s => (hf s).trans ((hk s).edits _)⟩

theorem DmeM.plain_ite {p : Prop} [Decidable p] {m k : DmeM α} (h : DmeM.Plain m) (g : DmeM.Plain k) :
    DmeM.Plain (if p then m else k) := by
  split
  · exact h
  · exact g

theorem DmeM.plain_dread (w : Who) (a n : Nat) : DmeM.Plain (dread w a n) := by
  refine DmeM.plain_update (f := fun s => (s.busRead w.e w.cls a n 0).2) (fun _ => .busRead .refl ..) fun s => ?_
  split
  · exact DmeM.plain_pure _
  · exact DmeM.plain_pure _
  · exact DmeM.plain_throw _
  · exact DmeM.plain_throw _

theorem DmeM.plain_dwrite (w : Who) (a : Nat) (d : List Byte) : DmeM.Plain (dwrite w a d) := by
  refine DmeM.plain_update (f := fun s => (s.busWrite w.e w.cls a d 0).2) (fun _ => .busWrite .refl ..) fun s => ?_
  split
  · exact DmeM.plain_pure _
  · exact DmeM.plain_pure _
  · exact DmeM.plain_throw _
  · exact DmeM.plain_throw _

theorem DmeM.plain_dcopy (w : Who) (k src dst n : Nat) : DmeM.Plain (dcopy w k src dst n) := by
  induction k generalizing src dst n with
  | zero => exact DmeM.plain_pure _
  | succ k ih =>
    exact DmeM.plain_ite (DmeM.plain_pure _)
      (DmeM.plain_bind (DmeM.plain_dread ..) fun _ => DmeM.plain_bind (DmeM.plain_dwrite ..) fun _ => ih ..)

theorem DmeM.plain_dfetch (w : Who) (k a n : Nat) : DmeM.Plain (dfetch w k a n) := by
  induction k generalizing a n with
  | zero => exact DmeM.plain_pure _
  | succ k ih =>
    exact DmeM.plain_ite (DmeM.plain_pure _)
      (DmeM.plain_bind (DmeM.plain_dread ..) fun _ => DmeM.plain_bind (ih ..) fun _ => DmeM.plain_pure _)

theorem DmeM.plain_dput (w : Who) (k a : Nat) (d : List Byte) : DmeM.Plain (dput w k a d) := by
  induction k generalizing a d with
  | zero => exact DmeM.plain_pure _
  | succ k ih => exact DmeM.plain_ite (DmeM.plain_pure _) (DmeM.plain_bind (DmeM.plain_dwrite ..) fun _ => ih ..)

theorem DmeM.plain_dmove (w : Who) (fr to' : Option Nat) (src dst n : Nat) : DmeM.Plain (dmove w fr to' src dst n) := by
  unfold dmove
  split
  · exact DmeM.plain_pure _
  · exact DmeM.plain_pure _
  · exact DmeM.plain_bind (DmeM.plain_dcopy ..) fun _ => DmeM.plain_pure _

theorem DmeM.plain_entryMove (w : Who) (fr to' : Option Nat) (src dst n : Nat) : DmeM.Plain (entryMove w fr to' src dst n) := by
  refine DmeM.plain_ite ?_ (DmeM.plain_throw _)
  split
  · exact DmeM.plain_bind (DmeM.plain_dfetch ..) fun _ => DmeM.plain_bind (DmeM.plain_dput ..) fun _ => DmeM.plain_pure _
  · exact DmeM.plain_dmove ..

theorem DmeM.plain_listMoves (w : Who) (list : Nat) {f : Nat → Nat → Nat → DmeM (List Move)}
    (hf : ∀ a off n, DmeM.Plain (f a off n)) (k i off : Nat) : DmeM.Plain (listMoves w list f k i off) := by
  induction k generalizing i off with
  | zero => exact DmeM.plain_pure _
  | succ k ih =>
    refine DmeM.plain_tryCatch ?_ fun _ => DmeM.plain_pure _
    exact DmeM.plain_bind (DmeM.plain_dfetch ..) fun _ => DmeM.plain_bind (hf ..) fun _ => DmeM.plain_bind (ih ..) fun _ =>
      DmeM.plain_pure _

/-! ### Works -/

theorem DmeM.plain_copyWork (w : Who) (o : Opnd) (fr to' : Option Nat) : DmeM.Plain (copyWork w o fr to') :=
  DmeM.plain_bind (DmeM.plain_dmove ..) fun _ => DmeM.plain_pure _

theorem DmeM.plain_fillWork (w : Who) (o : Opnd) (fr to' : Option Nat) : DmeM.Plain (fillWork w o fr to') := by
  cases to' with
  | some d => exact DmeM.plain_pure _
  | none => exact DmeM.plain_bind (DmeM.plain_dput ..) fun _ => DmeM.plain_pure _

theorem DmeM.plain_dmeGatherWork (w : Who) (o : Opnd) (fr to' : Option Nat) : DmeM.Plain (dmeGatherWork w o fr to') :=
  DmeM.plain_listMoves w _ (fun _ _ _ => DmeM.plain_entryMove ..) ..

theorem DmeM.plain_scatterWork (w : Who) (o : Opnd) (fr to' : Option Nat) : DmeM.Plain (scatterWork w o fr to') :=
  DmeM.plain_listMoves w _ (fun _ _ _ => DmeM.plain_entryMove ..) ..

theorem DmeM.plain_fetchAddWork (w : Who) (o : Opnd) (fr to' : Option Nat) : DmeM.Plain (fetchAddWork w o fr to') := by
  refine DmeM.plain_bind (DmeM.plain_dfetch ..) fun add => ?_
  cases fr with
  | some d => exact DmeM.plain_pure _
  | none =>
    refine DmeM.plain_bind (DmeM.plain_dread ..) fun old => DmeM.plain_bind (DmeM.plain_dwrite ..) fun _ => ?_
    cases to' with
    | some d => exact DmeM.plain_pure _
    | none => exact DmeM.plain_bind (DmeM.plain_dput ..) fun _ => DmeM.plain_pure _

end

section
variable {s t u : State}

/-! ### Transactions of the data movers -/

theorem Edits.run {α : Type} {m : DmeM α} (h : Edits s t) (hm : m.Plain) : Edits s (m.run t).2 := h.trans (hm.edits t)

/-- What is left of a work that has been run. -/
theorem Edits.of_run {α : Type} {m : DmeM α} {x : Except OpRes α} (h : Edits s t) (hm : m.Plain) (he : m.run t = (x, u)) : Edits s u :=
  (h.run hm).of_pair he

theorem Edits.onRun (h : Edits s t) (e : Nat) (f : Running → Running) : Edits s (t.onRun e f) := h.chip _

theorem Edits.dmeIssue (h : Edits s t) (e : Nat) (r : Running) (m : Move) : Edits s (t.dmeIssue e r m).2 := by
  unfold State.dmeIssue
  dsimp only
  have hx : Edits s (if m.kind = 1 ∧ m.data = [] then (dfetch ⟨e, r.d.cls⟩ m.len m.here m.len).run t else (.ok m.data, t)).2 := by
    split
    · exact h.run (DmeM.plain_dfetch ..)
    · exact h
  generalize (if m.kind = 1 ∧ m.data = [] then (dfetch ⟨e, r.d.cls⟩ m.len m.here m.len).run t else (.ok m.data, t)) = p at hx ⊢
  obtain ⟨x, t1⟩ := p
  cases x with
  | error res => exact hx.onRun e _
  | ok pay =>
    dsimp only
    split
    · exact hx.chip _
    · exact (hx.chip _).onRun e _

theorem Edits.dmePump (h : Edits s t) (e k : Nat) : Edits s (t.dmePump e k) := by
  induction k generalizing t with
  | zero => exact h
  | succ k ih =>
    unfold State.dmePump
    split
    · split
      · next r _ _ m _ _ =>
        have hi := h.dmeIssue e r m
        refine .ite h ?_
        split
        · next he => exact ih (hi.of_pair he)
        · next he => exact hi.of_pair he
      · exact h
    · exact h

theorem Edits.dmeAnswer (h : Edits s t) (e tag cause : Nat) (data : List Byte) : Edits s (t.dmeAnswer e tag cause data) := by
  unfold State.dmeAnswer
  split
  · exact h
  · split
    · exact h
    · refine .ite ((h.onRun e _).onRun e _) (.ite ((h.onRun e _).onRun e _) ?_)
      split
      · next he => exact ((h.onRun e _).of_run (DmeM.plain_dput ..) he).onRun e _
      · next he => exact ((h.onRun e _).of_run (DmeM.plain_dput ..) he).onRun e _

theorem Edits.dmePerform {work : Who → Opnd → Option Nat → Option Nat → DmeM (List Move × Option OpRes)}
    (hw : ∀ w o fr to', DmeM.Plain (work w o fr to')) (h : Edits s t) (e op : Nat) : Edits s (t.dmePerform e op work) := by
  unfold State.dmePerform
  split
  · exact h
  · next r _ =>
    refine .ite h (.ite (h.onRun e _) ?_)
    dsimp only
    split
    next x t1 he =>
    have ht := (h.chip _).of_run (hw ..) he
    split
    · exact ((ht.chip _).onRun e _).onRun e _
    · exact (((ht.chip _).onRun e _).onRun e _).dmePump e 33

/-! ### Requests -/

theorem Edits.perform (h : Edits s t) (d : Delivered) : Edits s (t.perform d).2.2 := by
  unfold State.perform
  dsimp only
  split
  · exact h.busRead ..
  · split
    · exact h
    · have hr := h.busRead (43 + d.port) d.pkt.fabricCls d.pkt.addr 8 d.pkt.src
      split
      · next he => exact (hr.of_pair he).busWrite ..
      · next he => exact hr.of_pair he
  · exact h.busWrite ..

theorem Edits.answer (h : Edits s t) (d : Delivered) : Edits s (t.answer d).2 := h.perform d

theorem Edits.answerOnce (h : Edits s t) (d : Delivered) : Edits s (t.answerOnce d) :=
  .ite (h.chip _) (((h.chip _).answer d).chip _)

theorem Edits.suppress (h : Edits s t) (d : Delivered) (always : Bool) : Edits s (t.suppress d always) := by
  unfold State.suppress
  dsimp only
  split
  · split
    · exact h.chip _
    · exact h
  · exact .ite (h.answerOnce d) ((h.answer d).chip _)

theorem Edits.onRequest (h : Edits s t) (kind : Nat) {f : State → Delivered → State} (hf : ∀ e d, Edits e (f e d)) :
    Edits s (t.onRequest kind f) := by
  unfold State.onRequest
  split
  · exact h
  · exact .ite (h.chip _) ((h.chip _).trans (hf ..))

/-! ### Responses -/

theorem Edits.tagsFreed (h : Edits s t) : Edits s t.tagsFreed := (h.chip _).foldl fun _ e => .dmePump .refl e 33

theorem Edits.finishXact (h : Edits s t) (x : Xact) (cause : Nat) : Edits s (t.finishXact x cause) := by
  unfold State.finishXact
  refine Edits.tagsFreed ?_
  split
  · exact (h.chip _).chip _
  · exact (h.chip _).dmeAnswer ..

end

end Sys2Proof.Machine
end

section
/-! SUPPORT. Every command's changes: most act on the chip alone, and the others are taken one by one. -/
namespace Sys2Proof.Machine

section
variable (s : State)

/-! ### Resets, the boot ROM and the dump -/

theorem execPowerOnReset_edits : EditsTo s (execPowerOnReset s) := .next (.chip .refl _)

theorem execExternalReset_edits : EditsTo s (execExternalReset s) := .ite (.next .refl) (.next (.chip .refl _))

theorem execStwWdtExpiry_edits (core : Nat) : EditsTo s (execStwWdtExpiry core s) :=
  .ite (.next .refl) (.ite (.ite (.next (.chip .refl _)) (.next (.wdtReset (.chip .refl _) core))) (.next (.wdtReset .refl core)))

theorem execGlitch_edits : EditsTo s (execGlitch s) := .ite (.next (.sysReset (.chip .refl _))) (.next .refl)

theorem execDumpDone_edits : EditsTo s (execDumpDone s) := by
  unfold execDumpDone
  refine .ite ?_ (.next .refl)
  dsimp only
  split
  · exact .next (.wdtReset (.chip .refl _) _)
  · exact .next (.chip .refl _)

theorem execDumpSave_edits : EditsTo s (execDumpSave s) :=
  .ite (.next (.chip (.storeWrite .refl dumpSlot 4 0 _) _)) (.next .refl)

theorem execSecToken_edits (token : List Byte) : EditsTo s (execSecToken token s) := by
  unfold execSecToken
  refine .ite (.next .refl) ?_
  split
  · exact .next (.sysReset (.chip .refl _))
  · exact .chip rfl

theorem execSyspllLock_edits (profile1 phaseB : Bool) : EditsTo s (execSyspllLock profile1 phaseB s) := by
  unfold execSyspllLock
  refine .ite (.next .refl) (.ite (.chip rfl) ?_)
  dsimp only
  split
  · exact .ite (.next (.chip .refl _)) (.ite (.next (.chip .refl _)) (.next (.chip (.bootStart (.chip .refl _) profile1) _)))
  · exact .next (.chip .refl _)
  · exact .next (.chip .refl _)

theorem execResetCmd_edits (src : Nat) : EditsTo s (execResetCmd src s) := by
  unfold execResetCmd
  split
  · exact .ite (.next (.wdtReset (.chip .refl _) 0)) (.next (.chip .refl _))
  · exact .next (.chip .refl _)

/-! ### The NVM and the OTP -/

theorem State.xspiCmd_edits (port op : Nat) : EditsTo s (s.xspiCmd port op) := .next (.store .refl port _ fun _ => .xspiStore .refl op)

theorem execXspiCmdComplete_edits (ok : Bool) : EditsTo s (execXspiCmdComplete ok s) := by
  unfold execXspiCmdComplete
  split
  · exact .next .refl
  · refine .ite (.next (.chip .refl _)) ?_
    split
    · exact .next (.chip .refl _)
    · exact .next (.chip (.nvmPut .refl _ _) _)
    · exact .next (.chip (.nvmErase .refl _ _) _)

theorem execOtpProgramDone_edits : EditsTo s (execOtpProgramDone s) := by
  unfold execOtpProgramDone
  split
  · exact .next .refl
  · exact .next (.chip (.otpProgram (.chip .refl _) _ _) _)

theorem execSecRevoke_edits (port : Nat) (v : Word) : EditsTo s (execSecRevoke port v s) :=
  .next (.store .refl port _ fun _ => .revokeStore .refl port v)

/-! ### Accesses -/

theorem execRegisterWrite_edits (port addr size : Nat) (v : Word) : EditsTo s (execRegisterWrite port addr size v s) := by
  unfold execRegisterWrite
  dsimp only
  split
  · exact .ite (.next (.storeAny (.chip .refl _) ..)) (.next .refl)
  · exact .chip rfl

theorem execFabricAccess_edits (x : Access) : EditsTo s (execFabricAccess x s) :=
  .ite (.next .refl) (.next (.access (.chip .refl _) x))

theorem execGroupRetentionExit_edits (g : Nat) : EditsTo s (execGroupRetentionExit g s) :=
  have h : Edits s (State.serveGrp { s with chip := s.chip.setGrp g .awake } g) := .serveGrp (.chip .refl _) g
  .ite (.next .refl) (.next (.ite (h.chip _) h))

theorem execGroupZeroFillDone_edits (g : Nat) : EditsTo s (execGroupZeroFillDone g s) :=
  .ite (.next .refl) (.ite (.next (.chip .refl _)) (.next (.serveGrp (.chip .refl _) g)))

/-! ### Firmware -/

theorem execCalEnd_edits : EditsTo s (execCalEnd s) :=
  .ite (.next .refl) (.ite (.next (.storeWrite (.chip (.chip .refl _) _) calSlot 2 0 _)) (.next (.chip .refl _)))

theorem execImageLoaded_edits (part : List (Nat × Word)) (conf : SysConf) (tags : List (Option (List Byte))) (volts : List Nat)
    (amps : Nat) : EditsTo s (execImageLoaded part conf tags volts amps s) := by
  have hl : Edits s (s.imageLoad part).2 := .imageLoad .refl part
  unfold execImageLoaded
  refine .ite (.next .refl) ?_
  split
  · next he => exact .next (hl.of_pair he)
  · next he =>
    have hf (e : State) (i : Nat) : Edits e (e.startCell conf volts amps i) := .startCell .refl ..
    exact .next ((Edits.foldl (.chip (.calRestore (.chip (hl.of_pair he) _)) _) hf).chip _)

theorem execLocketCapture_edits (i : Nat) : EditsTo s (execLocketCapture i s) := by
  unfold execLocketCapture
  dsimp only
  split
  · exact .next .refl
  · exact .ite (.next .refl) (.next (.chip (.storeWrite .refl (locketSlot i) 3 i _) _))

theorem execEnumeration_edits (w : List Seen) (keys : List KeyTry) (olds : List (Nat × Option Nat × Bool)) :
    EditsTo s (execEnumeration w keys olds s) := by
  unfold execEnumeration
  dsimp only
  split
  · exact .ite (.next .refl) (.next (.foldl (.chip .refl _) fun _ id => .seekLockets .refl _ id _))
  · exact .next .refl

/-! ### The link -/

theorem execRd_edits : EditsTo s (execRd s) := .next (.onRequest .refl 0 fun _ d => .chip (.answer .refl d) _)

theorem execWr_edits : EditsTo s (execWr s) := .next (.onRequest .refl 1 fun _ d => .suppress .refl d _)

theorem execFadd_edits : EditsTo s (execFadd s) := .next (.onRequest .refl 2 fun _ d => .suppress .refl d true)

theorem execPwr_edits : EditsTo s (execPwr s) := by
  unfold execPwr
  split
  · exact .next .refl
  · next d c _ =>
    have h : Edits s (State.perform { s with chip := c } d).2.2 := .perform (.chip .refl c) d
    exact .next (.ite h (h.chip _))

theorem execResp_edits : EditsTo s (execResp s) := by
  unfold execResp
  split
  · exact .next .refl
  · dsimp only
    split
    · exact .next (.chip .refl _)
    · refine .ite (.next (.chip .refl _)) (.ite (.next (.ite ?_ ?_)) (.ite (.next (.chip .refl _)) (.next (.chip .refl _))))
      · exact .finishXact (.chip (.chip .refl _) _) _ _
      · exact .chip (.chip .refl _) _

theorem execTransactionComplete_edits : EditsTo s (execTransactionComplete s) := by
  unfold execTransactionComplete
  split
  · exact .next .refl
  · exact .next (.finishXact .refl _ _)

theorem execTagReturn_edits : EditsTo s (execTagReturn s) := .next (.tagsFreed (.chip .refl _))

theorem execEnumRd_edits : EditsTo s (execEnumRd s) :=
  .next (.onRequest .refl 5 fun _ _ => .ite (.chip .refl _) (.chip .refl _))

theorem execEnumWr_edits : EditsTo s (execEnumWr s) :=
  .next (.onRequest .refl 6 fun _ _ => .ite (.chip .refl _) (.ite (.chip .refl _) (.chip (.storeAny .refl ..) _)))

/-! ### All commands -/

/-- Every command's changes; those not named act on the chip alone. -/
theorem exec_edits (i : Instr) : EditsTo s (exec i s) := by
  cases i
  case registerWrite => exact execRegisterWrite_edits s ..
  case powerOnReset => exact execPowerOnReset_edits s
  case externalReset => exact execExternalReset_edits s
  case stwWdtExpiry => exact execStwWdtExpiry_edits s _
  case glitch => exact execGlitch_edits s
  case syspllLock => exact execSyspllLock_edits s ..
  case imageLoaded => exact execImageLoaded_edits s ..
  case groupRetentionExit => exact execGroupRetentionExit_edits s _
  case groupZeroFillDone => exact execGroupZeroFillDone_edits s _
  case calEnd => exact execCalEnd_edits s
  case fabricAccess => exact execFabricAccess_edits s _
  case copy e => exact .next (.dmePerform DmeM.plain_copyWork .refl e 1)
  case fill e => exact .next (.dmePerform DmeM.plain_fillWork .refl e 2)
  case dmeGather e => exact .next (.dmePerform DmeM.plain_dmeGatherWork .refl e 3)
  case scatter e => exact .next (.dmePerform DmeM.plain_scatterWork .refl e 4)
  case fetchAdd e => exact .next (.dmePerform DmeM.plain_fetchAddWork .refl e 5)
  case locketCapture => exact execLocketCapture_edits s _
  case rd => exact execRd_edits s
  case wr => exact execWr_edits s
  case fadd => exact execFadd_edits s
  case pwr => exact execPwr_edits s
  case resp => exact execResp_edits s
  case enumRd => exact execEnumRd_edits s
  case enumWr => exact execEnumWr_edits s
  case transactionComplete => exact execTransactionComplete_edits s
  case tagReturn => exact execTagReturn_edits s
  case resetCmd => exact execResetCmd_edits s _
  case enumeration => exact execEnumeration_edits s ..
  case secRevoke => exact execSecRevoke_edits s ..
  case secToken => exact execSecToken_edits s _
  case dumpDone => exact execDumpDone_edits s
  case dumpSave => exact execDumpSave_edits s
  case xspiRead port => exact s.xspiCmd_edits port 1
  case xspiProgram port => exact s.xspiCmd_edits port 2
  case erase4k port => exact s.xspiCmd_edits port 3
  case erase64k port => exact s.xspiCmd_edits port 4
  case xspiCmdComplete => exact execXspiCmdComplete_edits s _
  case otpProgramDone => exact execOtpProgramDone_edits s
  all_goals exact .chip rfl

end

/-- What a step can do: its command's changes, on the rest of the queue, or a clock of the chip. -/
theorem step_edits {s t : State} (h : step s = .next t) : ∃ q, Edits { s with pending := q } t := by
  unfold step at h
  split at h
  · next r _ => exact ⟨r, (exec_edits _ _).edits t h⟩
  · exact ⟨s.pending, (EditsTo.chip rfl).edits t h⟩

end Sys2Proof.Machine
end

section
/-! PROOFS. Chapter 20: LOCKED. -/
namespace Sys2Proof.Machine

/-! ### What keeps LOCKED -/

/-- LOCKED is bit 0 of LIFECYCLE in either copy. -/
theorem State.locked_iff (s : State) :
    s.otp.locked = true ↔ s.otpA.lifecycle.getLsbD 0 = true ∨ s.otpB.lifecycle.getLsbD 0 = true := by
  show Nat.testBit (s.otpA.lifecycle ||| s.otpB.lifecycle).toNat 0 = true ↔ _
  rw [BitVec.testBit_toNat, BitVec.getLsbD_or, Bool.or_eq_true]

/-- A programmed word only sets bits of LIFECYCLE. -/
theorem OtpCopy.getLsbD_lifecycle_program {k : OtpCopy} {j : Nat} (off data : Nat) (h : k.lifecycle.getLsbD j = true) :
    (k.program off data).lifecycle.getLsbD j = true := by
  unfold OtpCopy.program
  repeat' split
  all_goals simp only [BitVec.getLsbD_or, h, Bool.true_or]

theorem Edit.locked {s t : State} (h : Edit s t) (hs : s.otp.locked = true) : t.otp.locked = true := by
  cases h with
  | chip h =>
    obtain ⟨-, -, hA, hB⟩ := h
    rwa [State.otp, hA, hB]
  | put | erase | advance => exact hs
  | program off data =>
    rw [State.locked_iff] at hs ⊢
    exact hs.imp (OtpCopy.getLsbD_lifecycle_program off data) (OtpCopy.getLsbD_lifecycle_program off data)

theorem Edits.locked {s t : State} (h : Edits s t) (hs : s.otp.locked = true) : t.otp.locked = true := by
  induction h with
  | refl => exact hs
  | tail _ e ih => exact e.locked ih

/-- R718: no step ends LOCKED. -/
theorem step_locked {s t : State} (hs : s.otp.locked = true) (h : step s = .next t) : t.otp.locked = true := by
  obtain ⟨q, he⟩ := step_edits h
  exact he.locked hs

/-! ### What refuses to set it -/

/-- R718: a word that sets LOCKED is refused while a device secret or a programmed root slot is missing. -/
theorem OtpView.refuses_lock {o : OtpView} {data : Nat} (port : Nat) (ho : ¬ (o.secretProg = true ∧ o.prog ≠ 0))
    (hd : nbit data 0 = true) : o.refuses 0xC0 data port = true := by
  have hmiss : (o.secretProg && decide (o.prog ≠ 0)) = false := by
    rw [Bool.eq_false_iff]
    simpa using ho
  rw [OtpView.refuses, hd, hmiss]
  simp

/-- A refused OTP command sets MISUSE alone. -/
theorem State.otpCmd_of_refuses {s : State} {port off data : Nat} (hcan : s.chip.canStore port 0x400600B8)
    (h : s.otp.refuses off data port = true) :
    s.otpCmd port off data = .next { s with chip := Chip.misuse { s.chip with bus := ⟨[], false⟩ } 0x400600B8 } := by
  rw [State.otpCmd, State.onChip_eq, Chip.store_of_canStore _ hcan, Chip.otpStore, h, Bool.or_true, if_pos rfl]

/-- What MISUSE of the security block leaves, after a store that the fabric has let through. -/
theorem State.keeps_secMisuse (s : State) :
    s.keeps { s with chip := Chip.misuse { s.chip with bus := ⟨[], false⟩ } 0x400600B8 } [0x40060004] :=
  have h := Chip.misuse_touch { s.chip with bus := ⟨[], false⟩ } 0x400600B8
  ⟨⟨rfl, rfl, rfl, rfl⟩, h.kept, h.peek⟩

/-- Settles O55: the word that would set LOCKED is refused with MISUSE alone, and no change that a command makes clears LOCKED. -/
theorem lockedNeedsSecretAndRootAndStays : Obligations.LockedNeedsSecretAndRootAndStays := by
  unfold Obligations.LockedNeedsSecretAndRootAndStays
  refine ⟨fun port i s hcan hneed hi => ?_, fun s t => step_locked⟩
  have hexec : exec i s = .next { s with chip := Chip.misuse { s.chip with bus := ⟨[], false⟩ } 0x400600B8 } := by
    obtain rfl | ⟨rfl, haddr, hdata⟩ := hi
    · exact State.otpCmd_of_refuses hcan (OtpView.refuses_lock port hneed rfl)
    · have href := OtpView.refuses_lock port hneed (data := (s.chip.act 0x400600B4).toNat) hdata
      refine State.otpCmd_of_refuses hcan ?_
      rw [haddr]
      exact href
  exact ⟨_, hexec, s.keeps_secMisuse, rfl, Chip.bit_misuse _ (a := 0x400600B8) rfl⟩

end Sys2Proof.Machine
end
